-- ==== Sys2Proof/Word.lean ====
section
/-! DEFINITION. The word types of Ronisk 2 and their plainest arithmetic. -/

namespace Sys2Proof

/-- A byte of memory, of a packet or of a frame. -/
abbrev Byte := BitVec 8

/-- A 64 B sector of a line, byte `i` in bits [8i+7:8i] (R251, R6). -/
abbrev Sector := BitVec 512

/-- The bits of an F32 value (R49). -/
abbrev F32 := BitVec 32

/-- Bits [hi:lo] of a number, as a number (R5). -/
def bitsOf (x hi lo : Nat) : Nat := x / 2 ^ lo % 2 ^ (hi + 1 - lo)

/-- Bit `i` of a number (R5). -/
def bitOf (x i : Nat) : Bool := x / 2 ^ i % 2 == 1

/-- One as a number for a set bit. -/
def bit1 (b : Bool) : Nat := if b then 1 else 0

/-- Division rounded up. -/
def ceilDiv (a b : Nat) : Nat := (a + b - 1) / b

/-- `x` rounded up to a multiple of `m`. -/
def roundUp (x m : Nat) : Nat := ceilDiv x m * m

/-- The least `h` with `2 ^ h ≥ x` (0 for `x ≤ 1`). -/
def clog2 (x : Nat) : Nat := if x ≤ 1 then 0 else Nat.log2 (x - 1) + 1

/-- Addition that saturates at `m` (R444, R356). -/
def satAdd (m a b : Nat) : Nat := min m (a + b)

end Sys2Proof
end

