-- ==== Sys2Proof/Syntax.lean ====
section
/-! DEFINITION. The commands of the block: one constructor of `Instr` per row of the table of operations and events, with the
operands that identify the unit it concerns and the values that come from outside the boundary (R1). -/

namespace Sys2Proof

/-- A stream, named (slice, stream) (R15). -/
structure StreamId where
  slice : Fin 16
  idx : Fin 8
  deriving DecidableEq, Repr

/-- The seven requesters of register accesses (R11, R461). -/
inductive Requester where
  | plinth
  | cc (n : Fin 4)
  | pkg
  | fabric
  deriving DecidableEq, Repr

/-- A command, named by context, queue and sequence number (R340, R453). -/
structure CmdId where
  ctx : Nat
  queue : Nat
  seq : Nat
  deriving DecidableEq, Repr

/-- A fabric frame: the Ethernet header with its two MAC addresses and EtherType (R376), the fields of the transport header (R377) and the
payload. The FCS is the link's own. -/
structure Frame where
  dmac : Nat := 0x0180C200000E
  smac : Nat := 0x025E02000000
  etype : Nat := 0x88B5
  ver : Nat := 1
  typ : Nat
  tc : Nat := 0
  direct : Bool := false
  nak : Bool := false
  rstat : Nat := 0
  hops : Nat := 0
  hopIdx : Nat := 0
  vl : Bool := false
  dst : Nat := 0
  src : Nat := 0
  route : List Nat := [0, 0, 0, 0, 0, 0]
  len : Nat := 0
  lseq : Nat := 0
  lack : Nat := 0
  ctx : Nat := 0
  tag : Nat := 0
  addr : Nat := 0
  payload : List (BitVec 8) := []
  deriving DecidableEq, Repr

/-- What an access to a row-cache SRAM finds (R275, R276): nothing wrong, a correctable error, an uncorrectable error in the
sector read with its other copy sound, one in both copies, one in the mirror copy, or a tag entry that fails parity. -/
inductive EccEvent where
  | none
  | ce
  | ue
  | ueBoth
  | ueMirror
  | tagParity (way : Fin 16)
  deriving DecidableEq, Repr

/-- What a projection tile meets (R244): a parity error in an array, or on the broadcast that reaches every array of the tile; a
weight-buffer error that is corrected, or that is not and whose reload fails or not. -/
inductive ArrayEvent where
  | parity (array : Fin 4)
  | broadcast
  | bufCe (array : Fin 4)
  | bufUe (array : Fin 4) (reloadFails : Bool)
  deriving DecidableEq, Repr

/-- A user of the arrays (R243): the chain of a command, or the reconstruction of low-rank rows. -/
inductive TileUser where
  | cmd (c : CmdId)
  | lr
  deriving DecidableEq, Repr

/-- The unit whose loss R437 answers with a fence (R426, codes 0x000B and 0x0015). -/
inductive LostUnit where
  | channelPort (n : Fin 32)
  | memPll (k : Fin 16)
  | corePll
  | cachePll
  | reductionUnit (q : Fin 4)
  | controlSram
  deriving DecidableEq, Repr

/-- The boot bounds of R407. -/
inductive BootBound where
  | flashRead
  | poolReady
  | pllLock
  | ready
  deriving DecidableEq, Repr

/-- Why a received frame is bad (R376, R378, R381). -/
inductive BadFrameKind where
  | fcs
  | etherType
  | typ
  | lseq
  deriving DecidableEq, Repr

/-- The commands of Ronisk 2: the rows of the table, in its order. -/
inductive Instr where
  -- resets and boot (R398 to R407)
  | resetN
  | ctlPllLock
  | plinthImageReadDone (copyB : Bool) (readOk : Bool) (img : List (BitVec 8))
  | coreCachePllLock
  | bootScrubEnd
  | armatureImageReadDone (copyB : Bool) (readOk : Bool) (img : List (BitVec 8))
  | poolReady
  | ready
  | bootTimeout (b : BootBound)
  -- command packets (R343): the accepted command is named
  | nop (c : CmdId)
  | gather (c : CmdId)
  | gatherSeq (c : CmdId)
  | scatterGrad (c : CmdId)
  | applyEpoch (c : CmdId)
  | project (c : CmdId)
  | loadPlan (c : CmdId)
  | unloadPlan (c : CmdId)
  | mapSegment (c : CmdId)
  | invalidate (c : CmdId)
  | contextCreate (c : CmdId)
  | contextDelete (c : CmdId)
  | queueCreate (c : CmdId)
  | queueDelete (c : CmdId)
  | grant (c : CmdId)
  | armWeights (c : CmdId)
  | promoList (c : CmdId)
  | expander (c : CmdId)
  | poolShare (c : CmdId)
  | attest (c : CmdId)
  | setNode (c : CmdId)
  | routeSet (c : CmdId)
  | routeClear (c : CmdId)
  | neighbours (c : CmdId)
  | shardSet (c : CmdId)
  | port (c : CmdId)
  | snapshot (c : CmdId)
  | restore (c : CmdId)
  | setEnvelope (c : CmdId)
  | queryCounters (c : CmdId)
  | traceCtl (c : CmdId)
  | waitGraph (c : CmdId)
  | drain (c : CmdId)
  | join (c : CmdId)
  | dbgNonce (c : CmdId)
  | dbgOpen (c : CmdId)
  | dbgClose (c : CmdId)
  | dbgRead (c : CmdId)
  -- queues
  | cqDb (r : Requester) (i : Fin 16384) (tail chead : BitVec 16)
  | packetFetched (i : Fin 16384)
  -- scatter and epochs
  | pass2Start (c : CmdId)
  | stagingAdd (c : CmdId)
  | heavyRowFlush (c : CmdId)
  | enterDraining (tset : Nat)
  | enterWriting (tset : Nat)
  | enterCommitting (tset : Nat)
  | commandTimeout (c : CmdId)
  -- work items
  | workItemDeal
  | workItemStart (st : StreamId)
  | workItemSteal (slice : Fin 16)
  | workItemMigrate (item : Nat) (slice : Fin 16)
  | rateIntervalEnd
  -- stream instructions (R93)
  | ldi (st : StreamId) (d : Fin 16) (imm : BitVec 22)
  | ldh (st : StreamId) (d : Fin 16) (imm : BitVec 16) (pos : BitVec 2)
  | mov (st : StreamId) (d a : Fin 16)
  | add (st : StreamId) (d a b : Fin 16)
  | sub (st : StreamId) (d a b : Fin 16)
  | mul (st : StreamId) (d a b : Fin 16)
  | mulhu (st : StreamId) (d a b : Fin 16)
  | and (st : StreamId) (d a b : Fin 16)
  | or (st : StreamId) (d a b : Fin 16)
  | xor (st : StreamId) (d a b : Fin 16)
  | minu (st : StreamId) (d a b : Fin 16)
  | shl (st : StreamId) (d a b : Fin 16)
  | shr (st : StreamId) (d a b : Fin 16)
  | addi (st : StreamId) (d a : Fin 16) (imm : BitVec 18)
  | andi (st : StreamId) (d a : Fin 16) (imm : BitVec 18)
  | shli (st : StreamId) (d a : Fin 16) (sh : BitVec 6)
  | shri (st : StreamId) (d a : Fin 16) (sh : BitVec 6)
  | hmul (st : StreamId) (d a b : Fin 16) (sh : BitVec 6)
  | hmix (st : StreamId) (d a : Fin 16) (seed : BitVec 14)
  | cross (st : StreamId) (d a b : Fin 16) (seed : BitVec 14)
  | chks (st : StreamId) (d : Fin 16) (width kind : BitVec 2)
  | chkr (st : StreamId) (d a b : Fin 16)
  | ldx (st : StreamId) (d : Fin 16) (port : Fin 4) (chk : Bool)
  | ldw (st : StreamId) (port : Fin 4)
  | len (st : StreamId) (d : Fin 16)
  | pos (st : StreamId) (d : Fin 16) (sel : BitVec 2)
  | loop (st : StreamId) (lc : Fin 3) (imm : Bool) (a : Fin 16) (count : BitVec 13) (last : BitVec 6)
  | beq (st : StreamId) (a b : Fin 16) (t : BitVec 6)
  | bne (st : StreamId) (a b : Fin 16) (t : BitVec 6)
  | bltu (st : StreamId) (a b : Fin 16) (t : BitVec 6)
  | bgeu (st : StreamId) (a b : Fin 16) (t : BitVec 6)
  | bv (st : StreamId) (a : Fin 16) (t : BitVec 6)
  | br (st : StreamId) (t : BitVec 6)
  | emit (st : StreamId) (a : Fin 16)
  | bagend (st : StreamId) (t : BitVec 6)
  | pref (st : StreamId) (a : Fin 16)
  | run (st : StreamId) (a : Fin 16)
  | mode (st : StreamId) (a : Fin 16)
  | modet (st : StreamId) (t : BitVec 2)
  | stop (st : StreamId)
  -- pointing stage, translation and faults
  | pointingStageReference (st : StreamId)
  | walkComplete (ctx : Nat) (seg : Fin 16) (page : Nat)
  | faultRecordPost (slot : Fin 1024)
  | xlFaultDone (r : Requester) (outcome : BitVec 2) (faultId : BitVec 16)
  | faultTimeout (slot : Fin 1024)
  | streamResume (st : StreamId)
  | xlSqNotifyAck (r : Requester)
  -- the data path
  | sortWindowAge (st : StreamId)
  | missRequestIssue (st : StreamId)
  | refill
  | rowCacheRequest (slice : Fin 16) (e : EccEvent)
  | memoryReadComplete (tag : Nat) (ue : BitVec 4) (devLoad : BitVec 2)
  | memoryWriteAck (line : Nat) (devLoad : BitVec 2)
  | laneDataArrival (st : StreamId)
  | wcEntryAge (line : Nat)
  | readSnoop (line : Nat)
  | invalidatingSnoop (line : Nat)
  | patrolScrubRead (bank : Fin 64) (e : EccEvent)
  | bankTimeout (bank : Fin 64)
  | mapOutPassEnd (bank : Fin 64)
  | rcMapOut (r : Requester) (bank : BitVec 6)
  | reseed (r : Requester)
  | temperatureReport (stack : Fin 16) (temp : BitVec 8)
  | throttleLower (stack : Fin 16)
  | sensorLost (stack : Fin 16)
  | tagLimitRaise (port : Fin 8)
  | capacityPortLost (port : Fin 8)
  | accessCountDecay
  | ctCfgGo (r : Requester) (v : BitVec 32)
  | cfgRequestDone (status : BitVec 3) (data : BitVec 32)
  -- projection arrays
  | layerStart (c : CmdId)
  | tileEnd (u : TileUser) (es : List ArrayEvent)
  | arrayEn (r : Requester) (v : BitVec 32)
  -- faults and recovery
  | livenessProbe (quad : Fin 4) (answers : BitVec 4) (ue : BitVec 4)
  | ccHeartbeat (core : Fin 4)
  | plinthHeartbeat
  | ccWatchExpiry (core : Fin 4)
  | ccBusError (core : Fin 4)
  | takeover (src lost : Fin 4)
  | takeoverTimeout (core : Fin 4)
  | plinthWatchExpiry
  | plinthBusError
  | bankerDisagree
  | fenceGo (r : Requester)
  | cleanDone (failedSectors : List Nat)
  | unitLossDetected (u : LostUnit)
  | restoreTimeout (table row : Nat)
  -- power
  | shedInputChange (chB : Bool) (asserted : Bool)
  | shedFilterStable (chB : Bool)
  | discFault
  | releaseHoldEnd
  | envelopeStep
  -- fabric frames
  | cmd (p : Fin 8) (f : Frame)
  | status (p : Fin 8) (f : Frame)
  | rdReq (p : Fin 8) (f : Frame)
  | rdResp (p : Fin 8) (f : Frame)
  | wrReq (p : Fin 8) (f : Frame)
  | wrAck (p : Fin 8) (f : Frame)
  | credit (p : Fin 8) (f : Frame)
  | ack (p : Fin 8) (f : Frame)
  | hello (p : Fin 8) (f : Frame)
  | loss (p : Fin 8) (f : Frame)
  | unreachable (p : Fin 8) (f : Frame)
  | joinReq (p : Fin 8) (f : Frame)
  | regRd (p : Fin 8) (f : Frame)
  | regWr (p : Fin 8) (f : Frame)
  | regResp (p : Fin 8) (f : Frame)
  | badFrame (p : Fin 8) (k : BadFrameKind) (f : Frame)
  -- fabric links
  | signalDetect (p : Fin 8)
  | trainingComplete (p : Fin 8)
  | laneLockLost (p : Fin 8) (lanes : BitVec 4)
  | realignComplete (p : Fin 8)
  | realignTimeout (p : Fin 8)
  | lossOfSignal (p : Fin 8)
  | ackTimer (p : Fin 8)
  | helloTimer (p : Fin 8)
  | creditTimer (p : Fin 8)
  | joinReqTimer
  | isolate
  | remoteRequestTimeout (tag : Nat)
  | routeUnusableExpiry (dst idx : Nat)
  | drainDeadline
  | accept (r : Requester) (p : Fin 8)
  | retrain (r : Requester) (p : Fin 8)
  | portEn (r : Requester) (p : Fin 8) (en : Bool)
  -- observability
  | pcCapture (r : Requester)
  | hangCheck
  | gateExpiry
  -- register accesses
  | lowWordRead (r : Requester) (off : Nat)
  | highWordWrite (r : Requester) (off : Nat) (v : BitVec 32)
  | lowWordWrite (r : Requester) (off : Nat) (v : BitVec 32)
  | badRegisterAccess (r : Requester) (off size : Nat) (isWrite : Bool)
  | registerWrite (r : Requester) (off : Nat) (v : BitVec 32)
  -- rows that the table lists last
  | resetNRelease
  | memCapFabPllLock (capNoLock fabNoLock : BitVec 8)
  | capacityLinkUp (port : Fin 8) (bifurcated : Bool)
  | coherenceRegistrationAccept (line : Nat)
  | checkpointServiceReply (table row : Nat) (cold promoted side state : List (BitVec 8))
  deriving DecidableEq, Repr

/-- A stream instruction of a program image (R93). -/
inductive SInstr where
  | ldi (d : Fin 16) (imm : BitVec 22)
  | ldh (d : Fin 16) (imm : BitVec 16) (pos : BitVec 2)
  | mov (d a : Fin 16)
  | add (d a b : Fin 16)
  | sub (d a b : Fin 16)
  | mul (d a b : Fin 16)
  | mulhu (d a b : Fin 16)
  | and (d a b : Fin 16)
  | or (d a b : Fin 16)
  | xor (d a b : Fin 16)
  | minu (d a b : Fin 16)
  | shl (d a b : Fin 16)
  | shr (d a b : Fin 16)
  | addi (d a : Fin 16) (imm : BitVec 18)
  | andi (d a : Fin 16) (imm : BitVec 18)
  | shli (d a : Fin 16) (sh : BitVec 6)
  | shri (d a : Fin 16) (sh : BitVec 6)
  | hmul (d a b : Fin 16) (sh : BitVec 6)
  | hmix (d a : Fin 16) (seed : BitVec 14)
  | cross (d a b : Fin 16) (seed : BitVec 14)
  | chks (d : Fin 16) (width kind : BitVec 2)
  | chkr (d a b : Fin 16)
  | ldx (d : Fin 16) (port : Fin 4) (chk : Bool)
  | ldw (port : Fin 4)
  | len (d : Fin 16)
  | pos (d : Fin 16) (sel : BitVec 2)
  | loop (lc : Fin 3) (imm : Bool) (a : Fin 16) (count : BitVec 13) (last : BitVec 6)
  | beq (a b : Fin 16) (t : BitVec 6)
  | bne (a b : Fin 16) (t : BitVec 6)
  | bltu (a b : Fin 16) (t : BitVec 6)
  | bgeu (a b : Fin 16) (t : BitVec 6)
  | bv (a : Fin 16) (t : BitVec 6)
  | br (t : BitVec 6)
  | emit (a : Fin 16)
  | bagend (t : BitVec 6)
  | pref (a : Fin 16)
  | run (a : Fin 16)
  | mode (a : Fin 16)
  | modet (t : BitVec 2)
  | stop
  deriving DecidableEq, Repr

end Sys2Proof
end

