-- ==== Sys2Proof/Config.lean ====
section
/-! DEFINITION. What an implementation or its package fixes, the functions the spec takes from other standards, and the free
values the spec leaves open. No constant here has a body: nothing can be proved of its value. -/

namespace Sys2Proof.Config

/-! ## Fixed per part or per package -/

/-- MINOR of ENG_IDENT (R13: silicon-dependent). Log entry 3. -/
opaque minor : BitVec 8

/-- The unit serial number (R469: fuse). Log entry 3. -/
opaque serial : BitVec 64

/-- The fused minimum SVN of Plinth and of Armature as manufactured (R402, R421). Log entry 3. -/
opaque fusePlinthSvn : BitVec 16
opaque fuseArmSvn : BitVec 16

/-- The SHA-384 digest in fuse key slot `i`, the revocation fuses, and the debug key slot (R402, R457). Log entry 3. -/
opaque fuseKeyDigest : Nat → List Byte
opaque fuseRevoked : BitVec 4
opaque fuseDebugDigest : List Byte

/-- PA_SPAREn (R249: fuse). Log entry 3. -/
opaque spare : Nat → BitVec 32

/-- The firmware region the package gives the engine, and its size in MiB (R410, R421). Log entry 3. -/
opaque fwBase : BitVec 64
opaque fwSizeMib : BitVec 32

/-! ## Functions of other standards -/

/-- The public key of the debug key slot, x then y (R457). Log entry 3. -/
opaque debugKey : List Byte

/-- SHA-384 (R402, R412, R457). Log entry 4. -/
opaque sha384 : List Byte → List Byte

/-- ECDSA P-384 verification of a signature (r then s) over a digest, with a public key (x then y) (R402, R457).
Log entry 4. -/
opaque ecdsaVerify : (pubkey digest sig : List Byte) → Bool

/-- The field of ENG_FUSE_SVN for a fused minimum SVN above its 16 bits (R401, R421). Log entry 118. -/
opaque wideSvn : Nat → BitVec 16

/-- The Boot ROM (R399, R412). Log entry 117. -/
opaque bootRom : List Byte

/-- The certificate chain of slot 0, with the device identity certificate (R411). Log entry 117. -/
opaque certChain : List Byte

/-- The device's signature over an exchange, with the counter `fresh` (R411). Log entry 117. -/
opaque spdmSign : (message : List Byte) → Nat → BitVec 768

/-- The timing exponent and the message size of CAPABILITIES (R411). Log entry 117. -/
opaque spdmExponent : Byte
opaque spdmSize : BitVec 32

/-! ## Free values -/

/-- A free number for the slot of a tier at which a row's promotion in an epoch starts to look (R64): a piece of a window taken up again
after a fault chooses as before. Log entry 5. -/
opaque slotPick : (table tier row epoch : Nat) → Nat

/-- A free number, applied to the model's own counter `fresh`: which entry a full TLB replaces, which fault slot
or doorbell index is taken, whether an access is sampled, in which order Armature's own policy takes rows. Log entry 5. -/
opaque free : Nat → Nat

/-- The second-level TLB's set hash of (CTX, segment, n >> 4) (R316). Log entry 6. -/
opaque tlbHash : (ctx seg run : Nat) → Nat

/-- A nonce of DEBUG NONCE (R457). Log entry 5. -/
opaque nonce : Nat → BitVec 256

/-- The value of a result that the spec does not state, applied to the counter `fresh`. Log entry 5. -/
opaque openWord : Nat → BitVec 64

end Sys2Proof.Config
end

