-- ==== Sys2Proof/Machine/Parts.lean ====
section
/-! DEFINITION. The parts of the machine's state as plain data: streams, work items, the row cache, memory requests,
translation, contexts, queues, plans, table sets, jobs, fabric ports, power and observation. -/

namespace Sys2Proof.Machine

/-- A sparse collection: keys strictly rising, and no entry equal to the default of its use. -/
abbrev Sparse (α : Type) := List (Nat × α)

/-- The clock domains that keep a copy of the time base of the AON domain (R33, R36). -/
inductive Domain where
  | core
  | cache
  | mem
  | fab
  | cap
  | ctl
  deriving DecidableEq, Repr

/-! ## Streams and work items (R78 to R117) -/

/-- A hardware loop counter (R82, R114). -/
structure LoopCtr where
  count : BitVec 32 := 0
  start : BitVec 6 := 0
  last : BitVec 6 := 0
  active : Bool := false
  deriving DecidableEq, Repr

/-- The architectural state of a stream, the content of a position record (R82, R114). -/
structure Arch where
  g : Vector (BitVec 64) 16 := Vector.replicate 16 0
  v : BitVec 16 := 0
  w : F32 := 0
  lc : Vector LoopCtr 3 := Vector.replicate 3 {}
  pc : BitVec 6 := 0
  mode : BitVec 32 := 0
  bag : Nat := 0
  bagsLeft : Nat := 0
  entry : Nat := 0
  entryEnd : Nat := 0
  cur : Option Nat := none
  k : Nat := 0
  /-- position in P0's operand of entry 0 of the current bag (P0POS of R114 is `base + entry`) -/
  base : Nat := 0
  gen : Nat := 0
  handle : Nat := 0
  cmd : CmdId := ⟨0, 0, 0⟩
  deriving DecidableEq, Repr

/-- Where a reference comes from: its command, work item and generation (R113). -/
structure Src where
  cmd : CmdId
  item : Nat
  gen : Nat
  deriving DecidableEq, Repr

/-- An emitted row reference (R98, R129). `table` is none when the slot names no table. -/
structure RowRef where
  src : Src
  bag : Nat
  pos : Nat
  table : Option Nat
  row : Nat
  weight : F32
  valid : Bool
  /-- emitted by EMIT, not by RUN (R102) -/
  single : Bool := true
  deriving DecidableEq, Repr

/-- An element of a stream's reference queue: a reference or a bag-end marker (R99, R104). -/
inductive QItem where
  | ref (r : RowRef)
  | bagEnd (src : Src) (bag : Nat)
  deriving DecidableEq, Repr

/-- Which copy of a row a fetch reads (R68). -/
inductive Copy where
  | cold
  | warm (slot : Nat)
  | hot (slot : Nat)
  deriving DecidableEq, Repr

/-- A sector of a row fetch: awaited, arrived, or arrived with an uncorrectable error (R46, R428). -/
inductive SectorState where
  | wait
  | data (d : Sector)
  | bad
  deriving DecidableEq, Repr

/-- A row read in flight from the pointing stage to the lanes (R46, R54). -/
structure Fetch where
  id : Nat
  ref : RowRef
  copy : Copy
  /-- virtual address and size of the row copy, and of its side entry -/
  va : Nat
  size : Nat
  side : Option Nat := none
  /-- sectors needed, by virtual address / 64 -/
  sectors : List (Nat × SectorState) := []
  /-- the row is read from its cold copy in place of an unreadable promoted copy or bucket (R428, R430) -/
  recon : Bool := false
  deriving DecidableEq, Repr

/-- Who waits for sectors of a line: a fetch of a stream, by stream number 8s + n and fetch number, and the line's virtual
address. -/
structure Joiner where
  stream : Nat
  fetch : Nat
  mask : Nat
  vline : Nat
  deriving DecidableEq, Repr

/-- A request of a slice to the row cache for sectors of one line (R46, R255, R258). -/
structure CacheReq where
  line : Nat
  cls : Nat
  ctx : Nat
  cmdCtx : Nat
  wattr : Nat
  shared : Bool
  who : Joiner
  deriving DecidableEq, Repr

/-- A sector request held in a sort window, or a merged request after its window closed (R125, R126). -/
structure MissReq where
  line : Nat
  lo : Nat
  hi : Nat
  ctx : Nat
  cmdCtx : Nat
  cmd : CmdId
  /-- for an access that does not allocate, or a line of another node: its data goes to the stream's own waiters alone (R251, R256) -/
  direct : Bool := false
  deriving DecidableEq, Repr

/-- STATE of SLC_STRM_STATn (R117). -/
inductive StreamState where
  | idle
  | running
  | halted
  | held
  | stopped
  deriving DecidableEq, Repr

/-- A hardware stream: its architectural state, program store, checkpoints and queues. -/
structure Stream where
  arch : Arch := {}
  st : StreamState := .idle
  item : Option Nat := none
  prog : List (BitVec 32) := []
  fanLog2 : Nat := 0
  portUse : BitVec 8 := 0
  affine : BitVec 8 := 0
  stride : BitVec 64 := 0
  runningRun : Bool := false
  /-- instructions retired since the last P0 load, EMIT, RUN or BAGEND (R115, detail 3) -/
  budget : Nat := 0
  /-- the instruction at PC waits for an operand translation (R88, R103) -/
  waitOperand : Bool := false
  queue : List QItem := []
  /-- the front reference waits for a translation fault (R110) -/
  faulted : Bool := false
  fetches : List Fetch := []
  window : List MissReq := []
  windowAt : Nat := 0
  /-- AGE_NS when the window opened (R128) -/
  windowAge : Nat := 0
  issue : List MissReq := []
  deriving DecidableEq, Repr

/-- A bag checkpoint and the effects forwarded since it (R112, R432). -/
structure Checkpoint where
  arch : Arch := {}
  deriving DecidableEq, Repr

/-- Where a work item is (R78, R119). -/
inductive ItemPlace where
  | intake
  | queued (slice : Nat)
  | running (stream : Nat)
  | done
  deriving DecidableEq, Repr

/-- A work item: a chunk of bags or one piece of a long bag (R78, R118). -/
structure WorkItem where
  id : Nat
  cmd : CmdId
  gen : Nat := 1
  firstBag : Nat
  bags : Nat
  /-- entries [first, last) of the bag for a piece; none for a chunk -/
  piece : Option (Nat × Nat) := none
  place : ItemPlace := .intake
  /-- every unfinished item of its command was running on flagged slices, and it is to be migrated (R122) -/
  toMove : Bool := false
  committed : Option Arch := none
  pending : Option Arch := none
  deriving DecidableEq, Repr

/-- A slice: its row-cache request queue, dispatch queue, rate measurement and first-level TLB. -/
structure TlbEntry where
  ctx : Nat
  seg : Nat
  page : Nat
  addr : Nat
  w : Bool
  runLog2 : Nat
  deriving DecidableEq, Repr

structure Slice where
  reqs : List CacheReq := []
  dispatch : List Nat := []
  lost : Bool := false
  missedProbes : Nat := 0
  flagged : Bool := false
  rate : Nat := 0
  refs : Nat := 0
  /-- whether the slice has held work through the whole running interval (R121) -/
  hadWork : Bool := false
  /-- whether the slice has had work in any part of the running interval (R122) -/
  anyWork : Bool := false
  below : Nat := 0
  above : Nat := 0
  tlb : List TlbEntry := []
  nextFetch : Nat := 0
  /-- the frame's status registers as last sampled before the slice was lost: SLC_STRM_STAT0 to 7 and SLC_RATE (SLC_ register rules) -/
  sample : List Nat := []
  deriving DecidableEq, Repr

/-! ## Row cache (R251 to R287) -/

/-- A way of a set: the fields of the tag entry (R254) and the data of its sectors; the coherence mode of its line, whether it is registered
with the coherence directory (R268), and its lock (R257). -/
structure Way where
  cls : Nat := 0
  pway : Nat := 0
  mir : Bool := false
  sd : BitVec 4 := 0
  sv : BitVec 4 := 0
  tag : Nat := 0
  data : Vector Sector 4 := Vector.replicate 4 0
  shared : Bool := false
  reg : Bool := false
  lock : Bool := false
  deriving DecidableEq, Repr

/-- Who is told when a write is acknowledged: a command, with the context its write was translated in, or another engine (R29, R267, R298, R322). -/
inductive Waiter where
  | none
  | job (c : CmdId) (ctx : Nat)
  | remote (port : Nat) (reply : Frame)
  deriving DecidableEq, Repr

/-- The fields of an error record that its writer gives (R424). -/
structure ErrInfo where
  code : Nat
  unit : Nat := 0
  index : Nat := 0
  action : Nat := 12
  ctx : Nat := 0
  addr : Nat := 0
  table : Nat := 0xFFFF
  tset : Nat := 0xFFFF
  gen : Nat := 0
  row : Nat := 0
  count : Nat := 1
  cmdSeq : Nat := 0
  detail : Nat := 0
  deriving DecidableEq, Repr

/-- What an access carries: the context of its translation and check, the partition charged, the write attribute and coherence
mode of its segment, its class, who is told of its acknowledgement (R258, R265, R268, R299, R478), and whose write tag it holds:
a slice's, or the feeder's as number 16 (R22, R218). -/
structure Access where
  ctx : Nat := 0
  part : Nat := 0
  wattr : Nat := 0
  shared : Bool := false
  cls : Nat := 0
  waiter : Waiter := .none
  holder : Option Nat := none
  /-- what the record of an uncorrectable error names: table, row and action (R424; log entry 60) -/
  ue : ErrInfo := { code := 0x0007, action := 11 }
  deriving DecidableEq, Repr

/-- A fill entry (R256). `way` is none once the way it reserved has been disabled or invalidated. -/
structure Fill where
  line : Nat
  way : Option Nat
  /-- sectors awaited from memory, and those of them whose memory request has been issued -/
  need : Nat
  issued : Nat := 0
  cls : Nat := 0
  shared : Bool := false
  joiners : List Joiner := []
  deriving DecidableEq, Repr

/-- An access that waits for a way to unlock (R257): a write to a line with a pending fill, a write-back write whose set has no unlocked way for
it, or the allocation of a line that a command has read. -/
inductive Blocked where
  | write (pa : Nat) (bs : List Byte) (acc : Access)
  | alloc (pa mask : Nat) (acc : Access)
  deriving DecidableEq, Repr

/-- A dirty line whose registration the coherence directory has not accepted yet (R267, R268). -/
structure Registration where
  line : Nat
  waiters : List Waiter
  deriving DecidableEq, Repr

structure RowCache where
  /-- key: 16 × set + way -/
  ways : Sparse Way := []
  plru : Sparse (BitVec 16) := []
  /-- the LFSR of each bank group (R263) -/
  lfsr : Vector (BitVec 32) 16 := Vector.replicate 16 0
  fills : List Fill := []
  /-- waiters of reads that take no fill entry, by line: accesses that do not allocate, and lines of other nodes (R251, R256) -/
  direct : List (Nat × Joiner) := []
  /-- accesses that wait for a way to unlock, oldest first (R257) -/
  blocked : List Blocked := []
  /-- snoops that wait for a fill of their line, and whether they invalidate (R269) -/
  snoops : List (Nat × Bool) := []
  /-- the slice that each bank granted last (R24); none has been at reset -/
  grant : Sparse Nat := []
  regs : List Registration := []
  /-- mapped-out banks (R284) -/
  out : BitVec 64 := 0
  /-- banks whose background write-back pass runs (R277) -/
  passes : List Nat := []
  /-- times of uncorrectable errors, per bank (R277) -/
  ueTimes : Sparse (List Nat) := []
  /-- next sector of each bank's patrol (R279), and when the bank was last read -/
  patrol : Sparse Nat := []
  patrolAt : Sparse Nat := []
  /-- boot scrub running (R278) -/
  scrubbing : Bool := false
  deriving DecidableEq, Repr

/-! ## Memory requests, write combining, regulators -/

/-- A write-combining entry (R296). Byte `i` of the line is valid when bit `i` of `mask` is set. -/
structure WcEntry where
  line : Nat
  mask : BitVec 256
  data : BitVec 2048
  born : Nat
  draining : Bool := false
  /-- a write that still waits to be issued: for an entry, a tag or its partition's tokens (R22, R297, R300) -/
  parked : Bool := false
  /-- whose write tags its writes hold, one for each (R22, R218) -/
  holders : List Nat := []
  /-- partition charged (R299) -/
  part : Nat := 0
  /-- sectors written with poison (R427) -/
  poison : BitVec 4 := 0
  deregister : Bool := false
  waiters : List Waiter := []
  deriving DecidableEq, Repr

/-- Where a memory request goes (R126, R325). -/
inductive Target where
  | channel (n : Nat)
  | capacity (n : Nat)
  | remote (node : Nat)
  deriving DecidableEq, Repr

/-- A memory read in flight, holding its tag (R22, R295). -/
structure MemReq where
  tag : Nat
  slice : Nat
  stream : Nat
  line : Nat
  lo : Nat
  hi : Nat
  target : Target
  ctx : Nat
  cmdCtx : Nat
  cmd : CmdId
  direct : Bool := false
  deriving DecidableEq, Repr

/-- The four buckets of a partition: their tokens (R299, R300), and what reads made within one step took beyond them, which the next refills
make good before they add tokens (log entry 94). -/
structure Buckets where
  tok : Vector Nat 4 := Vector.replicate 4 0
  debt : Vector Nat 4 := Vector.replicate 4 0
  deriving DecidableEq, Repr

/-- An HBM stack's throttle state (R302). -/
structure Stack where
  level : Nat := 0
  temp : Nat := 0
  lost : Bool := false
  belowSince : Option Nat := none
  lastReport : Nat := 0
  deriving DecidableEq, Repr

/-- A capacity port (R306, R307, R331). -/
structure CapPort where
  st : Nat := 0
  bifurcated : Bool := false
  /-- the port's PLL did not lock at boot: the port stays DOWN (R407) -/
  noPll : Bool := false
  devLoad : Nat := 0
  limit : Nat := 512
  lastHalve : Option Nat := none
  lightSince : Option Nat := none
  deriving DecidableEq, Repr

/-- The configuration mailbox (R472). -/
structure CfgBox where
  busy : Bool := false
  status : Nat := 0
  fields : BitVec 32 := 0
  data : BitVec 32 := 0
  deriving DecidableEq, Repr

/-! ## Translation (R308 to R324) -/

/-- A segment descriptor (R310). -/
structure Segment where
  vbase : Nat := 0
  size : Nat := 0
  root : Nat := 0
  psize : Nat := 0
  wattr : Nat := 0
  coh : Bool := false
  quad : Nat := 0
  qlocal : Bool := false
  valid : Bool := false
  remoteOk : Bool := false
  deriving DecidableEq, Repr

/-- Who waits for a translation (R318, R319). -/
inductive XWaiter where
  | operand (stream : Nat)
  | rowRef (stream : Nat)
  | job (c : CmdId)
  | apply (tset : Nat)
  | fetchQueue (ring : Nat)
  | prefetch
  | sweep (tset : Nat)
  deriving DecidableEq, Repr

structure Walk where
  ctx : Nat
  seg : Nat
  page : Nat
  write : Bool
  va : Nat
  joiners : List XWaiter
  deriving DecidableEq, Repr

/-- Fault types and sources of a fault record (R320). -/
structure FaultSlot where
  slot : Nat
  reuse : Nat
  typ : Nat
  source : Nat
  ctx : Nat
  seg : Nat
  page : Nat
  va : Nat
  write : Bool
  time : Nat
  gen : Nat
  whereIs : Nat
  pa : Nat
  count : Nat
  cmdSeq : Nat
  /-- the time the record was written to the service queue and the timeout then in force (R321) -/
  posted : Option (Nat × Nat) := none
  joiners : List XWaiter
  deriving DecidableEq, Repr

/-! ## Contexts, queues, jobs -/

/-- A context descriptor (R362) with its segments and residency (R365). -/
structure Context where
  part : Nat := 0
  rights : BitVec 8 := 0
  rgroups : List Nat := []
  timeoutMs : Nat := 0
  srcMask : Nat := 0
  srcNode : Nat := 0
  maxQueues : Nat := 1
  segs : Vector Segment 16 := Vector.replicate 16 {}
  resident : Bool := false
  lastUse : Nat := 0
  deleting : Bool := false
  deriving DecidableEq, Repr

/-- A ring queue (R333 to R337), named by its doorbell index. -/
structure Ring where
  ctx : Nat
  queue : Nat
  log2Entries : Nat
  log2Slot : Nat
  sqBase : Nat
  cqBase : Nat
  firstSeq : Nat
  writer : Option Requester := none
  tail : Nat := 0
  chead : Nat := 0
  fetched : Nat := 0
  completed : Nat := 0
  err : Bool := false
  deleting : Bool := false
  deriving DecidableEq, Repr

/-- Where a fabric command came from, for its reply (R360, R390). -/
structure Origin where
  port : Nat
  node : Nat
  back : List Nat
  direct : Bool
  deriving DecidableEq, Repr

/-- A fabric queue and its reorder buffer (R338). -/
structure FabQueue where
  ctx : Nat
  queue : Nat
  next : Nat
  buffer : List (Nat × List Byte × Origin) := []
  deleting : Bool := false
  deriving DecidableEq, Repr

/-- Where a command's status record goes when REPLY is 0 (R360). -/
inductive Dest where
  | ring (i : Nat)
  | fabric (o : Origin)
  deriving DecidableEq, Repr

/-- The detail of a status record of form E (R356). -/
structure ErrDetail where
  reason : Nat := 0
  object : Nat := 0
  object2 : Nat := 0
  index : Nat := 0
  value : Nat := 0
  limit : Nat := 0
  deriving DecidableEq, Repr

/-- The phases of an accepted command: accepted and not started, waiting for a condition of its rules, running, or ended
with outputs not all acknowledged (R29, R339). -/
inductive Phase where
  | accepted
  | waiting
  | running
  | finishing
  deriving DecidableEq, Repr

/-- A kept contribution at a leaf of a bag: position, table, and element values (R130, R132). `item` and `gen` name the work
item that sent it (R113). -/
structure Leaf where
  pos : Nat
  table : Nat
  vals : List F32
  weight : F32
  item : Nat
  deriving DecidableEq, Repr

/-- What the lanes hold for a bag that is not complete. Entries carry the number of the work item they come from, so that a
migration can take them back (R434). -/
structure BagAcc where
  leaves : List Leaf := []
  /-- kept references, arrived or not: work item and position -/
  kept : List (Nat × Nat) := []
  /-- work items whose marker of this bag has passed the pointing stage -/
  ended : List Nat := []
  /-- work item of each dropped reference, and of each reconstructed row -/
  drops : List Nat := []
  recon : List Nat := []
  /-- poisoned rows met: work item, table, row, position -/
  poison : List (Nat × Nat × Nat × Nat) := []
  deriving DecidableEq, Repr

/-- An output write that waits for its translation (R319), with its class and source, and whose tag it takes (R22, R258, R320). -/
structure PendingOut where
  va : Nat
  bytes : List Byte
  cls : Nat := 0
  source : Nat := 0
  holder : Option Nat := none
  deriving DecidableEq, Repr

/-- A staging add (R167, R168): aligned values of a 64-element segment of one row, none for the non-finite marker. -/
structure StageAdd where
  table : Nat
  row : Nat
  seg : Nat
  /-- the quadrant of a heavy-row accumulator (R171) -/
  quad : Nat := 0
  vals : List (Option Int)
  occur : Int
  trunc : Int
  heavy : Bool := false
  deriving DecidableEq, Repr

/-- Heavy-hitter sketches (key: 8192 × quadrant + 2048 × row + counter), candidate lists (quadrant, table, row), and the chosen rows
(table, row) once they are chosen (R170, R171). -/
structure HeavyState where
  sketch : Sparse Nat := []
  cands : List (Nat × Nat × Nat) := []
  chosen : Bool := false
  rows : List (Nat × Nat) := []
  deriving DecidableEq, Repr

/-- What pass 1 finds for a table: the largest finite magnitude as a fraction, and the count of kept references
(R156, R164). -/
structure PassStat where
  table : Nat
  k : Nat
  magNum : Nat
  magDen : Nat
  deriving DecidableEq, Repr

/-- The scatter side of a job (R152 to R177). -/
structure ScatterJob where
  tset : Nat
  group : Bool
  /-- accepted past OPEN: it joins the next step (R155, R197) -/
  next : Bool := false
  stats : List PassStat := []
  pass1 : Bool := false
  pass2 : Bool := false
  adds : List StageAdd := []
  /-- adds performed, kept for the rollback of R176 -/
  done : List StageAdd := []
  /-- what the command has added into the heavy-row accumulators and no flush has made yet, by row, quadrant and segment -/
  heavyAdds : List StageAdd := []
  rolling : Bool := false
  heavy : HeavyState := {}
  usedT : List Int := []
  deriving DecidableEq, Repr

/-- Increments of one counter in a quadrant's merging buffer (R74). -/
structure SketchInc where
  quad : Nat
  table : Nat
  va : Nat
  n : Nat
  deriving DecidableEq, Repr

/-- The projection side of a job (R233): the layer in progress, its inputs and results, and the next tile. -/
structure ProjJob where
  layer : Nat := 0
  inLayer : Bool := false
  /-- results so far of the rows of the next tile -/
  y : List (List F32) := []
  /-- rows whose sample vector was not encoded: all their outputs are NaN from there on (R226) -/
  dead : List Nat := []
  /-- first row of the next tile, and its first column tile that has not run -/
  tile : Nat := 0
  pass : Nat := 0
  rerunTiles : Nat := 0
  rerunElems : Nat := 0
  /-- epochs read by the first and the last layer, none for a layer that reads no table set (R201) -/
  firstEpoch : Option Nat := none
  lastEpoch : Option Nat := none
  /-- the buffer of the stage's weight set, fixed when its layer starts (R222) -/
  bufB : Bool := false
  deriving DecidableEq, Repr

/-- What a buffer of the projection feeder holds, by its use: the command's order of acceptance and its layer, or no command and the
basis handle for the rows of LR tables (R232, R241). -/
structure StageTag where
  order : Option Nat
  layer : Nat
  deriving DecidableEq, Repr

/-- A half of a weight buffer: the column tiles it holds, by number (R216, R232). -/
structure WeightHalf where
  tag : Option StageTag := none
  tiles : List (Nat × List Byte) := []
  deriving DecidableEq, Repr

/-- The accumulators of a cell: the integer group accumulator and the two F32 accumulators (R216). -/
structure Cell where
  group : BitVec 32 := 0
  acc : F32 := 0
  drain : F32 := 0
  deriving DecidableEq, Repr

/-- A half of the activation buffer: the samples of a tile in the stage's input format, none for one that is not encoded; for a
convolution the rows of its sequence window, from row `first` on (R216, R226, R239). -/
structure ActHalf where
  tag : Option StageTag := none
  tile : Nat := 0
  first : Nat := 0
  rows : List (Option (List Byte)) := []
  deriving DecidableEq, Repr

/-- A tile in progress: its user, the arrays it occupies, and the arrays that stay gated for it (R243). -/
structure Deal where
  user : TileUser
  arrays : List (Fin 4)
  idle : List (Fin 4) := []
  deriving DecidableEq, Repr

/-- The sample tile of LR rows in reconstruction: their table, their streams and fetches, the next column tile, and the elements so far,
each with whether it was clamped (R53, R241). -/
structure LrTile where
  table : Nat
  rows : List (Nat × Nat)
  pass : Nat := 0
  out : List (List (F32 × Bool)) := []
  deriving DecidableEq, Repr

/-- The projection feeder (R216, R243): the tiles in progress, the key of the user dealt last, the LR rows that wait (stream, fetch,
table), and the activation buffer with the half filled last. -/
structure Feeder where
  deals : List Deal := []
  last : Nat := 0
  lrQueue : List (Nat × Nat × Nat) := []
  lr : Option LrTile := none
  acts : Vector ActHalf 2 := Vector.replicate 2 {}
  half : Fin 2 := 0
  deriving DecidableEq, Repr

/-- The answer of a remote read: its bytes, poison, or a status (R325, R379, R388). -/
inductive RemoteAnswer where
  | data (bs : List Byte)
  | poison
  | status (st : Nat)
  deriving DecidableEq, Repr

/-- A command in progress. -/
structure Job where
  id : CmdId
  pkt : List Byte
  dest : Dest
  order : Nat
  acceptedAt : Nat
  phase : Phase := .accepted
  /-- the checks of R363 are done (they may wait for a translation or a remote line) -/
  parsed : Bool := false
  /-- passed to Armature, since its context was not resident (R26) -/
  passedOn : Bool := false
  began : Bool := false
  readsEnded : Bool := false
  heldSince : Option Nat := none
  /-- the table sets that hold it, each since when (R203) -/
  heldBy : List (Nat × Nat) := []
  /-- the set that it is to read at the epoch that was in force when it was accepted, or let go (R197) -/
  promised : List Nat := []
  wasHeld : Bool := false
  holdNs : Nat := 0
  /-- bag offsets (R344) -/
  offs : List Nat := []
  fan : Nat := 1
  bags : Sparse BagAcc := []
  /-- bags whose outputs have been formed -/
  bagsDone : List Nat := []
  /-- bags of aborted work items, which produce no output (R115) -/
  bagsLost : List Nat := []
  /-- the extended parameter block as read (R346, R348, and the blocks of other opcodes) -/
  block : List Byte := []
  epochs : List (Nat × Nat) := []
  drops : Nat := 0
  trunc : Nat := 0
  clamp : Nat := 0
  recon : Nat := 0
  empty : Nat := 0
  mismatch : Nat := 0
  /-- statuses of class 0x01xx and above, and OK-class ones, that apply, each with its detail -/
  causes : List (Nat × ErrDetail) := []
  acks : Nat := 0
  outs : List PendingOut := []
  pooled : Sparse (List F32) := []
  /-- by bag of a fused gather: the table of its lowest kept position (R62) -/
  lowTab : Sparse Nat := []
  /-- by bag of a fused gather: the table of the lowest position whose contribution is not finite or whose row is poisoned (R134, R147) -/
  badTab : Sparse Nat := []
  value0 : Nat := 0
  value1 : Nat := 0
  value2 : Nat := 0
  /-- the five words of the detail of forms S, A and P, given by the command as it ends (R356) -/
  words : List Nat := []
  scatter : Option ScatterJob := none
  proj : Option ProjJob := none
  /-- answers of remote reads of the command, by line address (R325, R379) -/
  remote : List (Nat × RemoteAnswer) := []
  /-- answers that faults of a LOAD_PLAN, or of pass 1 of a scatter, have had: segment, page, type and status (R116, R185, R321) -/
  answers : List (Nat × Nat × Nat × Nat) := []
  /-- the fault of the status record's address was answered DENY or ERROR, or timed out: the record goes to the queue's own
  destination (R360), or nowhere when that too has failed -/
  redirect : Bool := false
  recordLost : Bool := false
  deriving DecidableEq, Repr

/-! ## Plans, tables and table sets -/

/-- A table descriptor (R42). -/
structure TableDesc where
  table : Nat := 0
  elems : Nat := 1
  fmtWarm : Nat := 0
  fmtHot : Nat := 0
  group : Nat := 0
  fmtCold : Nat := 0
  trainable : Bool := false
  promoMode : Nat := 0
  sround : Bool := false
  lrRank : Nat := 0
  rows : Nat := 1
  coarse : F32 := 0
  coldStride : Nat := 0
  coldBase : Nat := 0
  mapBase : Nat := 0
  mapLog2 : Nat := 0
  filterLog2 : Nat := 0
  warmThr : Nat := 0
  lrBasis : Nat := 0
  warmBase : Nat := 0
  warmStride : Nat := 0
  hotStride : Nat := 0
  hotBase : Nat := 0
  warmSlots : Nat := 0
  hotSlots : Nat := 0
  sideBase : Nat := 0
  outlier : List Nat := []
  patinaBase : Nat := 0
  patinaLog2 : Nat := 0
  sampleShift : Nat := 0
  decayCommits : Nat := 0
  hotThr : Nat := 0
  demoteThr : Nat := 0
  deriving DecidableEq, Repr

/-- An optimiser descriptor (R178). -/
structure OptDesc where
  opt : Nat := 0
  winFixed : Bool := false
  lr : F32 := 0
  eps : F32 := 0
  beta1 : F32 := 0
  beta2 : F32 := 0
  decay : F32 := 0
  stateBase : Nat := 0
  stateStride : Nat := 0
  heavyThr : Nat := 0
  stgLog2 : Nat := 0
  maxTouched : Nat := 0
  stageBase : Nat := 0
  deriving DecidableEq, Repr

/-- A promoted row in Armature's slot registry: its tier (1 warm, 2 hot), slot and bucket (R64, R67, R430). -/
structure Promo where
  row : Nat
  tier : Nat
  slot : Nat
  bucket : Nat
  widened : Bool
  deriving DecidableEq, Repr

/-- An installed table with the state the engine keeps for it. -/
structure Table where
  desc : TableDesc := {}
  opt : Option OptDesc := none
  tset : Nat := 0
  cls : Nat := 8
  owner : Nat := 0
  p1 : F32 := 0
  p2 : F32 := 0
  omb1 : F32 := 0
  omb2 : F32 := 0
  /-- set bits of the table's filter region (R69) -/
  filter : List Nat := []
  promoted : List Promo := []
  /-- slots of rows demoted in the window, freed at the commit: tier (1 warm, 2 hot) and slot (R194, R211) -/
  freed : List (Nat × Nat) := []
  /-- candidate list: row and estimate (R76) -/
  cand : List (Nat × Nat) := []
  /-- staging slots taken in the step (R174) -/
  slots : Nat := 0
  /-- window exponent of the step: given (FIXED) or found (GROUP) -/
  winT : Option Int := none
  stepK : Nat := 0
  /-- map buckets that hold an invalid or unreadable entry, to rebuild (R430) -/
  badBuckets : List Nat := []
  /-- rows one of whose copies Armature re-encodes in the next window (R428): row, and true for the cold copy -/
  repairs : List (Nat × Bool) := []
  deriving DecidableEq, Repr

/-- The states of a table set (R187). -/
inductive TsState where
  | opened
  | pending
  | draining
  | writing
  | committing
  | torn
  deriving DecidableEq, Repr

/-- A promotion list (R354): the set's epoch it names and its entries (table, action, row). -/
structure PromoList where
  epoch : Nat
  entries : List (Nat × Nat × Nat)
  deriving DecidableEq, Repr

/-- A piece of an apply window that is not a touched row (R77, R174, R194, R213, R214, R428, R430). -/
inductive WindowWork where
  | image
  | restoreRow (table row : Nat)
  | repair (table row : Nat) (cold : Bool)
  | rebuild (table bucket : Nat)
  | entry (table action row : Nat)
  | promote (table row : Nat)
  | demote (table row : Nat)
  | clearDir (table : Nat)
  deriving DecidableEq, Repr

/-- The apply window of an APPLY_EPOCH or a RESTORE (R188, R194). -/
structure ApplyJob where
  cmd : CmdId
  isRestore : Bool
  mu : F32 := 0x3F800000
  start : Nat := 0
  /-- staging slots (table, slot) still to be applied -/
  todo : List (Nat × Nat) := []
  /-- touched rows whose slots could be read, and rows written; whether staging data was lost (R356, R479) -/
  touched : Nat := 0
  written : Nat := 0
  lost : Bool := false
  /-- the reading command that ended its reads last in the drain (R452) -/
  lastReader : Nat := 0
  nonfinite : Nat := 0
  widened : Nat := 0
  widenRefused : Nat := 0
  promos : Nat := 0
  discarded : Nat := 0
  snapEpoch : Nat := 0
  /-- the pieces of work still to be done, once they have been listed -/
  work : List WindowWork := []
  listed : Bool := false
  /-- the address of a RESTORE's image, in the owner's context -/
  image : Nat := 0
  /-- faults of the window answered DENY or ERROR, or timed out: segment, page, type and status (R183, R321, R480) -/
  answers : List (Nat × Nat × Nat × Nat) := []
  /-- poisoned rows rewritten in the window (R214, R429) -/
  restoredRows : List (Nat × Nat) := []
  /-- a directory clear was skipped: the next step fails (R480) -/
  failNext : Bool := false
  deriving DecidableEq, Repr

/-- A table set (R185, R187, R208). -/
structure TableSet where
  plan : Nat := 0
  owner : Nat := 0
  st : TsState := .opened
  epoch : Nat := 0
  seq : Nat := 0
  commitTime : Nat := 0
  windowNs : Nat := 0
  failed : Bool := false
  restored : Bool := false
  snapEpoch : Nat := 0
  adamSteps : Nat := 0
  commits : Nat := 0
  satThr : Nat := 0
  seed : Nat := 0
  recAddr : Nat := 0
  readLimit : Nat := 1
  promoLimit : Nat := 0
  poolBytes : Nat := 0
  capBytes : Nat := 0
  /-- readers: context, latency budget in µs, and the plan that brought the record (R204, R368) -/
  readers : List (Nat × Nat × Nat) := []
  /-- bound of R205, in ns -/
  bound : Nat := 0
  /-- the epoch against which the staging directories were last cleared (R174) -/
  clearEpoch : Nat := 0
  groupClosed : Bool := false
  members : List CmdId := []
  heavy : HeavyState := {}
  apply : Option ApplyJob := none
  lists : List PromoList := []
  /-- image address (in the owner's context) and epoch of the last SNAPSHOT that completed OK (R429) -/
  lastSnap : Option (Nat × Nat) := none
  /-- tables whose sketch is still to be swept for a decay that has fallen due (R75) -/
  sweeps : List Nat := []
  /-- the epoch record is to be written as the set stands: its write waits for a fault (R208, R319) -/
  recordDue : Bool := false
  deriving DecidableEq, Repr

/-- A program image (R89). -/
structure Image where
  plan : Nat := 0
  fanLog2 : Nat := 0
  affine : BitVec 8 := 0
  portUse : BitVec 8 := 0
  mode0 : BitVec 32 := 0
  code : List (BitVec 32) := []
  deriving DecidableEq, Repr

/-- A weight set (R219, R222). -/
structure WeightSet where
  plan : Nat := 0
  owner : Nat := 0
  tset : Nat := 0
  fmt : Nat := 1
  bound : Bool := false
  bias : Bool := false
  group : Nat := 0
  k : Nat := 1
  n : Nat := 1
  coarse : F32 := 0
  tileStride : Nat := 0
  baseA : Nat := 0
  baseB : Nat := 0
  biasBase : Nat := 0
  activeB : Bool := false
  armed : Bool := false
  deriving DecidableEq, Repr

/-- A reservation record (R368). -/
structure Resv where
  part : Nat
  borrow : Nat
  rate : List Nat
  burst : List Nat
  deriving DecidableEq, Repr

/-- An installed plan (R364, R369). -/
structure Plan where
  handle : Nat
  owner : Nat
  tsets : List Nat
  tables : List Nat
  images : List Nat
  wsets : List Nat
  resv : List Resv
  wayMin : List Nat
  digest : Nat
  /-- UNLOAD_PLAN accepted: its handles are unknown to later commands (R370) -/
  unloading : Bool := false
  deriving DecidableEq, Repr

/-- A poisoned row, or a row whose optimiser state was lost (R428, R429). -/
structure PoisonedRow where
  table : Nat
  row : Nat
  stateOnly : Bool
  requestedAt : Option Nat := none
  /-- the bytes the checkpoint staging service placed: cold copy, promoted copy, side entry, state -/
  bytes : Option (List Byte × List Byte × List Byte × List Byte) := none
  snapEpoch : Nat := 0
  stuck : Bool := false
  deriving DecidableEq, Repr

/-! ## Fabric (R374 to R397) -/

/-- Port states (R382). -/
inductive PortState where
  | down
  | training
  | discovery
  | up
  | realign
  | degraded
  | held
  deriving DecidableEq, Repr

/-- What a port has recorded of its partner (R385, R397). -/
structure Neighbour where
  valid : Bool := false
  state : Nat := 0
  port : Nat := 0
  assigned : Bool := false
  node : Nat := 0
  serial : Nat := 0
  major : Nat := 0
  minor : Nat := 0
  time : Nat := 0
  deriving DecidableEq, Repr

structure Port where
  st : PortState := .down
  pair : Bool := false
  nbrChanged : Bool := false
  lostLanes : BitVec 4 := 0
  replays : Nat := 0
  en : Bool := true
  /-- the port's PLL did not lock at boot: the port stays DOWN (R407) -/
  noPll : Bool := false
  helloSent : Bool := false
  nbr : Neighbour := {}
  txSeq : Nat := 0
  rxSeq : Nat := 0
  /-- routed frames sent and not acknowledged (R381) -/
  retry : List Frame := []
  /-- routed frames waiting for credit or for the link -/
  waiting : List Frame := []
  /-- credits the partner has returned and credits used, per class and lane, since link-up (R380) -/
  creditGot : Vector Nat 8 := Vector.replicate 8 0
  creditUsed : Vector Nat 8 := Vector.replicate 8 0
  /-- credits this port has freed, and freed at the last CREDIT frame -/
  freed : Vector Nat 8 := Vector.replicate 8 0
  freedSent : Vector Nat 8 := Vector.replicate 8 0
  /-- received frames still in the port's buffers, since they wait to be forwarded: the output port, the frame as it waits there, and as it came
  in (R380) -/
  held : List (Nat × Frame × Frame) := []
  /-- frames put on the wire, oldest first -/
  wire : List Frame := []
  lastTx : Nat := 0
  lastHello : Nat := 0
  lastCredit : Nat := 0
  /-- start of the present REALIGN, or of training -/
  since : Nat := 0
  lossFrame : Option Frame := none
  deriving DecidableEq, Repr

/-- One of the four routes of an entry (R387). -/
structure Route where
  valid : Bool := false
  bytes : List Nat := []
  deriving DecidableEq, Repr

structure RouteEntry where
  routes : List Route := []
  deriving DecidableEq, Repr

/-- A remote request without its response (R325, R379). -/
structure RemoteReq where
  tag : Nat
  node : Nat
  addr : Nat
  len : Nat
  isWrite : Bool
  sentAt : Nat
  cmd : CmdId
  /-- the context it was translated in (R322) -/
  ctx : Nat := 0
  mem : Option MemReq
  /-- whose tag the request holds, when it is a slice's (R22, R325) -/
  holder : Option Nat := none
  deriving DecidableEq, Repr

/-- STATE of HELLO and FB_STATE (R385). -/
inductive EngState where
  | unassigned
  | configuring
  | serving
  | draining
  | drained
  | isolated
  deriving DecidableEq, Repr

/-- Fabric state of the engine: node, manager, routes, remote requests. -/
structure Fabric where
  ports : Vector Port 8 := Vector.replicate 8 {}
  assigned : Bool := false
  node : Nat := 0
  mgr : Nat := 0
  st : EngState := .unassigned
  /-- a JOIN has been carried out since the reset (R390) -/
  hasJoined : Bool := false
  /-- the engine has come back from a fence and has not joined again: its JOIN_REQ has REJOIN set (R439) -/
  rejoin : Bool := false
  routes : Sparse RouteEntry := []
  /-- routes marked unusable: destination, index, time (R388) -/
  unusable : List (Nat × Nat × Nat) := []
  remote : List RemoteReq := []
  /-- successor node and image address of a table set for DRAIN (R389) -/
  shards : Sparse (Nat × Nat) := []
  drain : Option CmdId := none
  drainAt : Nat := 0
  /-- the commands accepted before the engine entered DRAINING (R392) -/
  drainFor : List CmdId := []
  /-- table sets still to be handed off by DRAIN, and lines of an image still to be sent (R392) -/
  drainLeft : List Nat := []
  drainOut : List (Nat × List Byte) := []
  /-- the image being sent: its bytes, and the causes that its command had before it -/
  drainCur : Option (Nat × Nat) := none
  /-- what other nodes have answered to the sweeps of sketches, by line (R75, R325) -/
  sweepGot : List (Nat × RemoteAnswer) := []
  /-- halved counters that are still to be sent to other nodes: table, address, bytes (R75, R325) -/
  sweepOuts : List (Nat × Nat × List Byte) := []
  /-- when a port last carried traffic; none while no port has since the reset (R395) -/
  lastUp : Option Nat := none
  lastJoinReq : Nat := 0
  deriving DecidableEq, Repr

/-! ## Boot and power -/

/-- Fuse contents: minimum SVNs, key slot digests and revocations (R402, R403). -/
structure Fuses where
  plinthSvn : Nat := 0
  armSvn : Nat := 0
  keyDigests : List (List Byte) := []
  revoked : BitVec 4 := 0
  debugDigest : List Byte := []
  deriving DecidableEq, Repr

/-- A verified image: its SVN, whether it commits it, its length and digest (R401, R412). -/
structure RunningImage where
  svn : Nat
  commit : Bool
  length : Nat
  digest : List Byte
  deriving DecidableEq, Repr

structure Boot where
  held : Bool := true
  ctlLocked : Bool := false
  coreLocked : Bool := false
  memLocked : Bool := false
  poolReady : Bool := false
  ccReleased : Bool := false
  stage : Nat := 0
  plinthCopyB : Bool := false
  armCopyB : Bool := false
  fail : Nat := 0
  readyUs : Nat := 0
  plinth : Option RunningImage := none
  arm : Option RunningImage := none
  /-- copy A of the image being loaded has failed verification, and its LENGTH -/
  triedA : Bool := false
  /-- read time of the copies B read in place of copies A (R405, R407), in ns -/
  extraNs : Nat := 0
  /-- time of the last change of stage, for the lock bound of R407 -/
  since : Nat := 0
  deriving DecidableEq, Repr

structure Power where
  commanded : Nat := 0
  effective : Nat := 15
  ramping : Bool := false
  hold : Bool := false
  /-- time of the last step, or of the acceptance that started the ramp (R415, R416) -/
  lastStep : Nat := 0
  cmd : Option CmdId := none
  shed : Bool := true
  filtA : Bool := true
  filtB : Bool := true
  rawA : Bool := true
  rawB : Bool := true
  changedA : Nat := 0
  changedB : Nat := 0
  /-- a filtered level has been taken since cold reset -/
  takenA : Bool := false
  takenB : Bool := false
  disagreeSince : Option Nat := none
  discFault : Bool := false
  /-- the present disagreement has reached DISC_US (R418) -/
  discDone : Bool := false
  shortDisagree : Nat := 0
  shedTime : Nat := 0
  releasedAt : Nat := 0
  deriving DecidableEq, Repr

/-! ## Faults, counters, trace, debug -/

/-- An error record written, kept for the joining rule of R425, and its bytes: its slot is rewritten whole (R430). -/
structure ErrJoin where
  code : Nat
  unit : Nat
  index : Nat
  addr : Nat
  time : Nat
  slot : Nat
  count : Nat
  bytes : List Byte := []
  deriving DecidableEq, Repr

structure Errors where
  tail : Nat := 0
  lost : Nat := 0
  overflow : Bool := false
  phase : Bool := true
  joins : List ErrJoin := []
  fenced : Bool := false
  cleanDone : Bool := false
  cleanFailed : Bool := false
  cause : Nat := 0
  fenceTime : Nat := 0
  lostCc : BitVec 4 := 0
  /-- times of the last heartbeat of CC0 to CC3 and of Plinth -/
  beatCc : Vector Nat 4 := Vector.replicate 4 0
  beatPlinth : Nat := 0
  /-- lost cores whose TAKEOVER is awaited: core, declaration time, and the core that takes over -/
  awaiting : List (Nat × Nat × Nat) := []
  irq : BitVec 3 := 0
  deriving DecidableEq, Repr

/-- An open wait of the wait table (R450, R452). Agents are u64 (R453). -/
structure Wait where
  typ : Nat
  start : Nat
  waiter : Nat
  holder : Nat
  object : Nat
  detail : Nat
  deriving DecidableEq, Repr

structure Trace where
  en : Bool := false
  ctx : Nat := 0
  ring : Nat := 0
  /-- held physical address of each 4 KiB of the ring -/
  pages : List Nat := []
  log2 : Nat := 0
  types : Nat := 0
  minNs : Nat := 0
  hangMs : Nat := 0
  graph : Nat := 0
  tail : Nat := 0
  head : Nat := 0
  phase : Bool := true
  lost : Nat := 0
  lossFirst : Nat := 0
  lossLast : Nat := 0
  lossCount : Nat := 0
  waits : List Wait := []
  /-- the wait the watchdog reported last -/
  reported : Option Wait := none
  untrackedAtGraph : Nat := 0
  lastCheck : Nat := 0
  deriving DecidableEq, Repr

structure DebugGate where
  openNow : Bool := false
  scope : Nat := 0
  openings : Nat := 0
  closesAt : Nat := 0
  nonce : Option (BitVec 256) := none
  deriving DecidableEq, Repr

/-- The clocks of the domains of R33 by `Domain.num`: since when each runs, and how many of its cycles the counters hold (R442). -/
structure Clocks where
  start : Vector (Option Nat) 6 := Vector.replicate 6 none
  counted : Vector Nat 6 := Vector.replicate 6 0
  deriving DecidableEq, Repr

/-- A counter capture of a requester (R459). -/
structure Capture where
  time : Nat := 0
  counters : Sparse Nat := []
  /-- whether a capture has been taken -/
  taken : Bool := false
  deriving DecidableEq, Repr

/-- The view a requester has of the window: its read latches and write holds by low-word offset (R11), its capture and its
PC_SEL (R461). -/
structure ReqState where
  latches : Sparse (BitVec 32) := []
  holds : List (Nat × BitVec 32) := []
  capture : Capture := {}
  pcSel : BitVec 32 := 0
  deriving DecidableEq, Repr

/-- A message of the engine on its package port. -/
inductive PkgMsg where
  | busData (r : Requester) (v : BitVec 32)
  | busError (r : Requester)
  | sqNotify (tail : Nat)
  | irq
  | snoopReply (line : Nat) (mask : BitVec 4) (data : Vector Sector 4)
  | register (line : Nat)
  | deregister (line : Nat)
  | ckptRequest (table row image : Nat)
  | cfgRequest (fields data : BitVec 32)
  /-- a write of CTX 0 to a device region (R288, R289) -/
  | deviceWrite (addr : Nat) (bytes : List (BitVec 8))
  deriving DecidableEq, Repr

end Sys2Proof.Machine
end

