-- ==== Sys2Proof/Machine/State.lean ====
section
/-! DEFINITION. The state of the block: every register, queue, buffer, counter, mode and pin the spec gives the engine, the
queue of the commands that wait, and the state after reset. -/

namespace Sys2Proof.Machine

/-- Why the block would stop with a fault. No command raises one: the spec gives every bad access, error and loss an effect
(a status, a record, a fence), so there is nothing for the machine to stop on. Safe. -/
inductive Fault where
  /-- Reserved for an access to an address outside the address space; raised by no command. Safe. -/
  | noSuchAddress (addr : Nat)
  deriving DecidableEq, Repr

/-- Why a command would be refused by the model. -/
inductive Refusal where
  /-- Raised by an arm of `exec` whose command has no meaning yet. Safe. -/
  | notModelled (mnemonic : String)
  deriving DecidableEq, Repr

/-- A projection array (R216, R246, R248): its flags and counts, its weight buffer with the half filled last, and its cells by row. -/
structure ArrayUnit where
  disabled : Bool := false
  errors : Nat := 0
  parityReruns : Nat := 0
  wideReruns : Nat := 0
  halves : Vector WeightHalf 2 := Vector.replicate 2 {}
  half : Fin 2 := 0
  cells : Sparse (List Cell) := []
  sat : Bool := false
  parity : Bool := false
  bufEcc : Bool := false
  bufUe : Bool := false
  deriving DecidableEq, Repr

/-- The state of one Ronisk 2 engine. -/
structure State where
  /-- commands waiting, first in, first out (the model's queue) -/
  pending : List Instr := []
  /-- time base, ns since release from power-on reset (R36, R37) -/
  time : Nat := 0
  /-- how far each domain's copy of the time base stands past the AON value, ns below 10, by `Domain.num` (R36; log entry 95) -/
  copies : Vector Nat 6 := Vector.replicate 6 0
  /-- the clocks of the domains, for the counters of cycles (R33, R442) -/
  clocks : Clocks := {}
  /-- the model's counter of free values taken; not the spec's -/
  fresh : Nat := 0
  boot : Boot := {}
  fuses : Fuses := {}
  /-- read-write registers of the window by offset; one at its reset value is not listed (R460 to R474) -/
  regs : Sparse (BitVec 32) := []
  /-- per requester (0 Plinth, 1 to 4 CC0 to CC3, 5 package port, 6 fabric path): latches, holds, captures (R11, R461) -/
  req : Sparse ReqState := []
  /-- messages sent on the package port, oldest first -/
  pkg : List PkgMsg := []
  /-- local memory: pool and capacity tier, by local physical address (R288) -/
  mem : List Host.Cell := []
  /-- poisoned sectors, by address / 64, strictly rising (R427) -/
  poison : List Nat := []
  /-- streams, by 8 × slice + stream -/
  streams : Sparse Stream := []
  slices : Sparse Slice := []
  items : List WorkItem := []
  nextItem : Nat := 0
  /-- slice after which the round-robin of R119 starts -/
  rr : Nat := 15
  rateAt : Nat := 0
  rc : RowCache := {}
  wc : List WcEntry := []
  memReqs : List MemReq := []
  /-- number of the next fill, memory tag or fetch -/
  nextId : Nat := 0
  tokens : Sparse Buckets := []
  refillAt : Nat := 0
  /-- the regulator registers as the last refill took them, by 4 × partition + bucket (R301) -/
  regu : Sparse (BitVec 32) := []
  hbm : Vector Stack 16 := Vector.replicate 16 {}
  cap : Vector CapPort 8 := Vector.replicate 8 {}
  cfg : CfgBox := {}
  cfgSentAt : Nat := 0
  decayAt : Nat := 0
  /-- largest size announced for each expander since reset, in bytes (R305) -/
  expSeen : Sparse Nat := []
  /-- grant entries cached at each port, by port (32 + n for capacity port n): entry number and entry (R309) -/
  grantCache : Sparse (List (Nat × Nat)) := []
  /-- access-count increments merged at each capacity port and not yet added in memory: frame and increments (R326) -/
  countCache : Sparse (List (Nat × Nat)) := []
  qlocked : Bool := false
  /-- Plinth's own copy of the grant table, by entry (R430) -/
  grants : Sparse Nat := []
  walks : List Walk := []
  tlb2 : Sparse (List TlbEntry) := []
  faults : List FaultSlot := []
  /-- faults raised while no slot is free (R319) -/
  faultsWaiting : List FaultSlot := []
  /-- reuse count of each fault slot (R320, R321) -/
  reuse : Sparse Nat := []
  sqTail : Nat := 0
  sqPhase : Bool := true
  notifyPending : Bool := false
  notifiedTail : Nat := 0
  contexts : List (Nat × Context) := []
  rings : List (Nat × Ring) := []
  fabqs : List FabQueue := []
  qerrValid : Bool := false
  qerrIndex : Nat := 0
  jobs : List Job := []
  nextOrder : Nat := 0
  plans : List Plan := []
  tables : List (Nat × Table) := []
  tsets : List (Nat × TableSet) := []
  images : List (Nat × Image) := []
  wsets : List (Nat × WeightSet) := []
  poolShare : Nat := 0
  poisoned : List PoisonedRow := []
  /-- the merging buffers of the patina sketch, oldest entry first (R74) -/
  sketchBuf : List SketchInc := []
  arrays : Vector ArrayUnit 4 := Vector.replicate 4 {}
  /-- the projection feeder (R216, R218, R243) -/
  feeder : Feeder := {}
  fab : Fabric := {}
  pw : Power := {}
  err : Errors := {}
  trace : Trace := {}
  dbg : DebugGate := {}
  /-- counters of R445 to R449, by `ctrKey` -/
  counters : Sparse Nat := []
  deriving DecidableEq, Repr

/-- The fuses as manufactured (R398: a cold reset keeps them). -/
def Fuses.manufactured : Fuses :=
  { plinthSvn := Config.fusePlinthSvn.toNat
    armSvn := Config.fuseArmSvn.toNat
    keyDigests := [Config.fuseKeyDigest 0, Config.fuseKeyDigest 1, Config.fuseKeyDigest 2, Config.fuseKeyDigest 3]
    revoked := Config.fuseRevoked
    debugDigest := Config.fuseDebugDigest }

/-- The reset value of RC_LFSR_SEED (R281). -/
def lfsrResetSeed : BitVec 32 := 0x1A2B3C4D

/-- The row cache at reset: nothing valid, and each group's LFSR loaded from the seed (R263, R398). -/
def RowCache.atReset : RowCache :=
  { lfsr := Vector.ofFn fun g => lfsrResetSeed ^^^ BitVec.ofNat 32 g.val }

/-- The machine right after the cold reset, RESET_N still asserted (R12, R398): every register at its reset value, the time
base 0, every SRAM clear, memory with nothing listed. -/
def State.reset : State :=
  { fuses := Fuses.manufactured, rc := RowCache.atReset }

end Sys2Proof.Machine
end

