-- ==== Sys2Proof/Machine/Ops.lean ====
section
/-! DEFINITION. Named operations over the parts of the state: sparse collections, bytes, memory, streams, slices, jobs,
counters, time and free values. Every meaning reads and writes the state through them. -/

namespace Sys2Proof

/-- The number of a stream (R445: 8s + n). -/
def StreamId.key (i : StreamId) : Nat := 8 * i.slice.val + i.idx.val

/-- The number of a requester, for its own state (R461). -/
def Requester.num (r : Requester) : Nat :=
  match r with
  | .plinth => 0
  | .cc n => 1 + n.val
  | .pkg => 5
  | .fabric => 6

namespace Machine

/-- What every meaning answers. -/
abbrev Out := Host.Outcome State Fault Refusal

/-! ## Sparse collections -/

/-- The value at a key, `d` where the key is not listed. -/
def sget {α : Type} (d : α) (m : Sparse α) (k : Nat) : α :=
  match m with
  | [] => d
  | (k', v) :: rest => if k' = k then v else sget d rest k

/-- Insert or replace the entry of a key, keeping the keys rising. -/
def sinsert {α : Type} (m : Sparse α) (k : Nat) (v : α) : Sparse α :=
  match m with
  | [] => [(k, v)]
  | (k', v') :: rest =>
    if k < k' then (k, v) :: (k', v') :: rest
    else if k = k' then (k, v) :: rest
    else (k', v') :: sinsert rest k v

/-- Remove the entry of a key. -/
def serase {α : Type} (m : Sparse α) (k : Nat) : Sparse α :=
  match m with
  | [] => []
  | (k', v') :: rest => if k' = k then rest else (k', v') :: serase rest k

/-- Write a key: an entry equal to the default is not listed. -/
def sput {α : Type} [DecidableEq α] (d : α) (m : Sparse α) (k : Nat) (v : α) : Sparse α :=
  if v = d then serase m k else sinsert m k v

/-- The canonical form of a sparse collection: keys strictly rising, no entry equal to the default. -/
def swf {α : Type} [DecidableEq α] (d : α) (m : Sparse α) : Bool :=
  match m with
  | [] => true
  | (k, v) :: rest => decide (v ≠ d) && rest.all (fun e => decide (k < e.1)) && swf d rest

/-- The value at a key of a keyed list. -/
def kget {α : Type} (m : List (Nat × α)) (k : Nat) : Option α :=
  match m with
  | [] => none
  | (k', v) :: rest => if k' = k then some v else kget rest k

/-! ## Bytes (R6) -/

/-- The number whose little-endian bytes are given. -/
def leNat (bs : List Byte) : Nat :=
  match bs with
  | [] => 0
  | b :: rest => b.toNat + 256 * leNat rest

/-- The `n` little-endian bytes of a number. -/
def leBytes (n v : Nat) : List Byte :=
  match n with
  | 0 => []
  | n + 1 => BitVec.ofNat 8 v :: leBytes n (v / 256)

/-- The little-endian field of `w` bytes at offset `off` of a structure. -/
def field (bs : List Byte) (off w : Nat) : Nat := leNat ((bs.drop off).take w)

/-- `n` zero bytes. -/
def zeros (n : Nat) : List Byte := List.replicate n 0

/-- The field of a structure overwritten. -/
def putField (bs : List Byte) (off w v : Nat) : List Byte :=
  bs.take off ++ leBytes w v ++ bs.drop (off + w)

/-- Whether every byte of a range is zero, for reserved fields (R10, R363). -/
def zeroRange (bs : List Byte) (off n : Nat) : Bool := ((bs.drop off).take n).all (· == 0)

/-- The 64 bytes of a sector, and a sector from its bytes. -/
def sectorBytes (d : Sector) : List Byte := leBytes 64 d.toNat
def sectorOf (bs : List Byte) : Sector := BitVec.ofNat 512 (leNat (bs.take 64))

/-! ## Memory -/

/-- What a byte of memory that nothing has written reads as (log entry 2). -/
def emptyByte : Byte := 0

/-- A byte of local memory as the memory devices hold it. -/
def memByte (m : List Host.Cell) (a : Nat) : Byte := sget emptyByte m a

/-- Memory with one byte written. -/
def memPut (m : List Host.Cell) (a : Nat) (b : Byte) : List Host.Cell := sput emptyByte m a b

/-- Memory with consecutive bytes written. -/
def memPutBytes (m : List Host.Cell) (a : Nat) (bs : List Byte) : List Host.Cell :=
  match bs with
  | [] => m
  | b :: rest => memPutBytes (memPut m a b) (a + 1) rest

/-- The canonical form of memory. -/
def Memory.wf (m : List Host.Cell) : Bool := swf emptyByte m

/-- A rising list without repeats: insertion and removal. -/
def ninsert (l : List Nat) (x : Nat) : List Nat :=
  match l with
  | [] => [x]
  | y :: rest => if x < y then x :: y :: rest else if x = y then y :: rest else y :: ninsert rest x

def nerase (l : List Nat) (x : Nat) : List Nat := l.filter (· ≠ x)

/-! ## Time, free values, counters -/

/-- A 64-bit quantity of the window or of a record. -/
def u64 (n : Nat) : Nat := n % 2 ^ 64

/-- The number of a domain among those that keep a copy of the time base (R33). -/
def Domain.num (d : Domain) : Fin 6 :=
  match d with
  | .core => 0
  | .cache => 1
  | .mem => 2
  | .fab => 3
  | .cap => 4
  | .ctl => 5

/-- The time base as a domain's copy gives it, for a record of that domain: at or after the AON value, and less than 10 ns past it
(R36). -/
def State.now (s : State) (d : Domain) : Nat := s.time + (s.copies.get d.num) % 10

/-- The clock of a domain starts. -/
def Clocks.run (x : Clocks) (d : Domain) (t : Nat) : Clocks := { x with start := x.start.set d.num (some t) }

/-- One tick of the always-on clock, 10 ns, while RESET_N is released; each domain's copy then stands anywhere before the next tick (R36, R37;
log entries 7 and 95). -/
def State.idle (s : State) : State :=
  if s.boot.held then s
  else { s with time := s.time + 10, copies := Vector.ofFn fun d => Config.free (s.fresh + d.val) % 10, fresh := s.fresh + 6 }

/-- The next free number, and the state that has taken it (log entry 5). -/
def State.freeNat (s : State) : Nat := Config.free s.fresh
def State.took (s : State) : State := { s with fresh := s.fresh + 1 }

/-- A value that an opaque function of `Config` gives, kept inside `[0, n)`. -/
def State.freeBelow (s : State) (n : Nat) : Nat := if n = 0 then 0 else s.freeNat % n

/-- Bytes that the spec leaves open, from a free counter on (log entry 5). -/
def openBytes (fresh n : Nat) : List Byte := (List.range n).map fun i => (Config.openWord (fresh + i)).setWidth 8

/-- The key of counter `idx` of an object in a group (R445). -/
def ctrKey (group obj idx : Nat) : Nat := group * 2 ^ 32 + obj * 64 + idx

/-- Add to an event counter, which saturates at 2^64 − 1 (R444). -/
def State.count (s : State) (group obj idx n : Nat) : State :=
  let k := ctrKey group obj idx
  { s with counters := sput 0 s.counters k (satAdd (2 ^ 64 - 1) (sget 0 s.counters k) n) }

def State.ctr (s : State) (group obj idx : Nat) : Nat := sget 0 s.counters (ctrKey group obj idx)

/-- Set a counter to the larger of itself and `n` (LONGEST_NS, R448). -/
def State.countMax (s : State) (group obj idx n : Nat) : State :=
  let k := ctrKey group obj idx
  { s with counters := sput 0 s.counters k (max (sget 0 s.counters k) n) }

/-- Counters of an object start at zero when it is installed or created (R444). -/
def State.clearCounters (s : State) (group obj : Nat) : State :=
  { s with counters := s.counters.filter fun e => !(decide (ctrKey group obj 0 ≤ e.1) && decide (e.1 < ctrKey group obj 64)) }

/-- Counters of a context, a table, a table set and the engine (R446 to R449). -/
def State.countCtx (s : State) (ctx idx n : Nat) : State := s.count 2 ctx idx n
def State.countTable (s : State) (t idx n : Nat) : State := s.count 3 t idx n
def State.countSet (s : State) (h idx n : Nat) : State := s.count 4 h idx n
def State.countEngine (s : State) (idx n : Nat) : State := s.count 5 0 idx n
def State.countBank (s : State) (b idx : Nat) : State := s.count 6 b idx 1

/-- WORK of a unit and of a stream (R442, R445): slices 0 to 15, arrays 16 to 19, bank groups 20 to 35, channel ports 36 to 67, capacity
ports 68 to 75, fabric ports 76 to 83. -/
def State.unitWork (s : State) (u n : Nat) : State := s.count 0 u 11 n
def State.streamWork (s : State) (k n : Nat) : State := s.count 1 k 11 n

/-- Bytes moved by the port of a target (R442); a request to another node is counted by the frames of its fabric port. -/
def State.moved (s : State) (t : Target) (n : Nat) : State :=
  match t with
  | .channel c => s.unitWork (36 + c) n
  | .capacity c => s.unitWork (68 + c) n
  | .remote _ => s

/-- Bits set among the low `n` of a mask. -/
def popCount (m n : Nat) : Nat := ((List.range n).filter fun k => m / 2 ^ k % 2 = 1).length

/-! ## Whether the block acts -/

/-- The block acts: RESET_N is released and no fence is up (R27, R398, R438). -/
def State.alive (s : State) : Bool := !s.boot.held && !s.err.fenced

/-- The engine is READY: the parser accepts packets (R405). -/
def State.isReady (s : State) : Bool := s.boot.stage == 5

/-- An event of the engine: its effect while the block acts, none otherwise. -/
def act (s : State) (f : State → State) : Out := .next (if s.alive then f s else s)

/-- An event that occurs only when its condition holds; otherwise nothing changes (log entry 1). -/
def actWhen (s : State) (cond : Bool) (f : State → State) : Out := .next (if s.alive && cond then f s else s)

/-! ## Streams, slices, work items -/


def State.stream (s : State) (k : Nat) : Stream := sget {} s.streams k
def State.setStream (s : State) (k : Nat) (x : Stream) : State := { s with streams := sput {} s.streams k x }
def State.updStream (s : State) (k : Nat) (f : Stream → Stream) : State := s.setStream k (f (s.stream k))

def State.slice (s : State) (k : Nat) : Slice := sget {} s.slices k
def State.setSlice (s : State) (k : Nat) (x : Slice) : State := { s with slices := sput {} s.slices k x }
def State.updSlice (s : State) (k : Nat) (f : Slice → Slice) : State := s.setSlice k (f (s.slice k))

def State.item? (s : State) (i : Nat) : Option WorkItem := s.items.find? (·.id == i)
def State.updItem (s : State) (i : Nat) (f : WorkItem → WorkItem) : State :=
  { s with items := s.items.map fun w => if w.id = i then f w else w }

/-! ## Jobs, contexts, plans, table sets -/

def State.job? (s : State) (c : CmdId) : Option Job := s.jobs.find? (fun j => decide (j.id = c))
def State.updJob (s : State) (c : CmdId) (f : Job → Job) : State :=
  { s with jobs := s.jobs.map fun j => if j.id = c then f j else j }
def State.dropJob (s : State) (c : CmdId) : State :=
  { s with jobs := s.jobs.filter fun j => decide (j.id ≠ c) }

def State.context? (s : State) (c : Nat) : Option Context := kget s.contexts c
def State.setContext (s : State) (c : Nat) (x : Context) : State := { s with contexts := sinsert s.contexts c x }

def State.table? (s : State) (t : Nat) : Option Table := kget s.tables t
def State.setTable (s : State) (t : Nat) (x : Table) : State := { s with tables := sinsert s.tables t x }
def State.updTable (s : State) (t : Nat) (f : Table → Table) : State :=
  { s with tables := s.tables.map fun e => if e.1 = t then (e.1, f e.2) else e }

def State.tset? (s : State) (h : Nat) : Option TableSet := kget s.tsets h
def State.setTset (s : State) (h : Nat) (x : TableSet) : State := { s with tsets := sinsert s.tsets h x }
def State.updTset (s : State) (h : Nat) (f : TableSet → TableSet) : State :=
  { s with tsets := s.tsets.map fun e => if e.1 = h then (e.1, f e.2) else e }

def State.image? (s : State) (h : Nat) : Option Image := kget s.images h
def State.wset? (s : State) (h : Nat) : Option WeightSet := kget s.wsets h
def State.updWset (s : State) (h : Nat) (f : WeightSet → WeightSet) : State :=
  { s with wsets := s.wsets.map fun e => if e.1 = h then (e.1, f e.2) else e }
def State.plan? (s : State) (h : Nat) : Option Plan := s.plans.find? (·.handle == h)

/-- The tables of a set, in ascending number. -/
def State.tablesOf (s : State) (h : Nat) : List (Nat × Table) := s.tables.filter fun e => e.2.tset == h

def State.ring? (s : State) (i : Nat) : Option Ring := kget s.rings i
def State.updRing (s : State) (i : Nat) (f : Ring → Ring) : State :=
  { s with rings := s.rings.map fun e => if e.1 = i then (e.1, f e.2) else e }

/-- Record a status that applies to a command, with its detail (R148, R177, R196, R359). -/
def Job.cause (j : Job) (st : Nat) (d : ErrDetail) : Job := { j with causes := j.causes ++ [(st, d)] }
def State.cause (s : State) (c : CmdId) (st : Nat) (d : ErrDetail := {}) : State := s.updJob c (·.cause st d)

/-! ## Registers held by offset, and the fabric ports -/

/-- A message on the package port. -/
def State.send (s : State) (m : PkgMsg) : State := { s with pkg := s.pkg ++ [m] }

def State.fport (s : State) (p : Fin 8) : Port := s.fab.ports.get p
def State.setFport (s : State) (p : Fin 8) (x : Port) : State :=
  { s with fab := { s.fab with ports := s.fab.ports.set p x } }
def State.updFport (s : State) (p : Fin 8) (f : Port → Port) : State := s.setFport p (f (s.fport p))

/-- The eight ports, in order. -/
def allPorts : List (Fin 8) := [0, 1, 2, 3, 4, 5, 6, 7]


def State.reqState (s : State) (r : Requester) : ReqState := sget {} s.req r.num
def State.updReq (s : State) (r : Requester) (f : ReqState → ReqState) : State :=
  { s with req := sput {} s.req r.num (f (s.reqState r)) }

/-! ## The agents of wait records (R453) -/

def agentStream (k : Nat) : Nat := 1 * 2 ^ 60 + (k / 8) * 16 + k % 8
def agentCmd (c : CmdId) : Nat := 2 * 2 ^ 60 + c.ctx * 2 ^ 44 + c.queue * 2 ^ 32 + c.seq
def agentTset (h : Nat) : Nat := 3 * 2 ^ 60 + h
def agentGroup (h e : Nat) : Nat := 4 * 2 ^ 60 + e * 2 ^ 16 + h
def agentPort (p : Nat) : Nat := 5 * 2 ^ 60 + p
def agentMemMgr (id : Nat) : Nat := 6 * 2 ^ 60 + id
def agentNode (n : Nat) : Nat := 7 * 2 ^ 60 + n
def agentFirmware (n : Nat) : Nat := 8 * 2 ^ 60 + n

/-- The nth element of a list with a default. -/
def nth {α : Type} (l : List α) (i : Nat) (d : α) : α := l.getD i d

/-- A fold over numbers 0 to n − 1, for the loops of the spec. -/
def foldN {σ : Type} (n : Nat) (init : σ) (f : σ → Nat → σ) : σ :=
  match n with
  | 0 => init
  | n + 1 => f (foldN n init f) n

end Machine

end Sys2Proof
end

