-- ==== Sys2Proof/Machine/Operands.lean ====
section
/-! DEFINITION. The operand forms: command packets (R340, R341), operand descriptors (R342), bag blocks (R345, R346),
projection blocks (R348, R349) and the fields of blocks listed by name and width (R353). -/

namespace Sys2Proof.Machine

/-! ## The header of a command packet (R340) -/

def pktOpcode (p : List Byte) : Nat := field p 0 1
def pktHver (p : List Byte) : Nat := field p 1 1
def pktFlags (p : List Byte) : Nat := field p 2 2
def pktCtxq (p : List Byte) : Nat := field p 4 4
def pktCtx (p : List Byte) : Nat := bitsOf (pktCtxq p) 11 0
def pktQueue (p : List Byte) : Nat := bitsOf (pktCtxq p) 17 12
def pktSeq (p : List Byte) : Nat := field p 8 4
def pktPlen (p : List Byte) : Nat := field p 12 2
def pktObj (p : List Byte) : Nat := field p 14 2
def pktHandle (p : List Byte) : Nat := field p 16 2
def pktOparam (p : List Byte) : Nat := field p 18 2
def pktCount (p : List Byte) : Nat := field p 20 4
def pktReply (p : List Byte) : Nat := field p 24 8
def pktD0 (p : List Byte) : Nat := field p 32 8
def pktD1 (p : List Byte) : Nat := field p 40 8
def pktD2 (p : List Byte) : Nat := field p 48 8
def pktDX (p : List Byte) : Nat := field p 56 8

/-- The command's name (R340). -/
def pktId (p : List Byte) : CmdId := ⟨pktCtx p, pktQueue p, pktSeq p⟩

/-! ## The flags (R341) -/

def flOrdered (p : List Byte) : Bool := bitOf (pktFlags p) 0
def flDeterministic (p : List Byte) : Bool := bitOf (pktFlags p) 1
def flFused (p : List Byte) : Bool := bitOf (pktFlags p) 2
def flClose (p : List Byte) : Bool := bitOf (pktFlags p) 3
def flMinEpoch (p : List Byte) : Bool := bitOf (pktFlags p) 4
def flCheckOnly (p : List Byte) : Bool := bitOf (pktFlags p) 5

/-! ## Opcodes (R343) -/

def opNop : Nat := 0x01
def opGather : Nat := 0x10
def opGatherSeq : Nat := 0x11
def opScatter : Nat := 0x20
def opApply : Nat := 0x21
def opProject : Nat := 0x30
def opLoadPlan : Nat := 0x40
def opUnloadPlan : Nat := 0x41
def opMapSegment : Nat := 0x42
def opInvalidate : Nat := 0x43
def opConfig : Nat := 0x44
def opSnapshot : Nat := 0x50
def opRestore : Nat := 0x51
def opSetEnvelope : Nat := 0x60
def opQuery : Nat := 0x70
def opTraceCtl : Nat := 0x71
def opWaitGraph : Nat := 0x72
def opDrain : Nat := 0x78
def opJoin : Nat := 0x79
def opDebug : Nat := 0x7F

def opcodes : List Nat :=
  [0x01, 0x10, 0x11, 0x20, 0x21, 0x30, 0x40, 0x41, 0x42, 0x43, 0x44, 0x50, 0x51, 0x60, 0x70, 0x71, 0x72, 0x78, 0x79, 0x7F]

/-- A bag command (R344). -/
def isBagOp (op : Nat) : Bool := op == opGather || op == opGatherSeq || op == opScatter

/-! ## Operand descriptors (R342) -/

/-- An operand descriptor, by its kind. -/
inductive Desc where
  | none
  | inline (off len : Nat)
  | ref (va : Nat)
  | imm (v : Nat)
  deriving DecidableEq, Repr

/-- A descriptor's kind and fields; bits that must be zero are judged by `descOk`. -/
def desc (d : Nat) : Desc :=
  match bitsOf d 63 62 with
  | 0 => .none
  | 1 => .inline (bitsOf d 15 0) (bitsOf d 31 16)
  | 2 => .ref (bitsOf d 61 0)
  | _ => .imm (bitsOf d 31 0)

/-- Whether a descriptor has a legal kind, bounds and alignment: `w` is the width of its entries (R342, check 6). -/
def descOk (d w plen : Nat) (allowNone allowImm : Bool) : Bool :=
  match bitsOf d 63 62 with
  | 0 => allowNone && bitsOf d 61 0 == 0
  | 1 => bitsOf d 61 32 == 0 && bitsOf d 15 0 % w == 0 && decide (bitsOf d 15 0 + bitsOf d 31 16 ≤ plen)
  | 2 => bitsOf d 61 0 % w == 0
  | _ => allowImm && bitsOf d 61 32 == 0

/-- The payload of a packet. -/
def payload (p : List Byte) : List Byte := (p.drop 64).take (pktPlen p)

/-- Bytes `off` to `off + n − 1` of an in-line operand; a byte at or beyond its LENGTH reads as all ones (R342). -/
def inlineBytes (p : List Byte) (base len off n : Nat) : List Byte :=
  let have_ := ((payload p).drop (base + off)).take (min n (len - off))
  have_ ++ List.replicate (n - have_.length) 0xFF

/-- A number of `w` bits as a signed one (i8 fields). -/
def signed (w v : Nat) : Int := if v < 2 ^ (w - 1) then (v : Int) else (v : Int) - 2 ^ w

/-! ## OPARAM of a bag command (R345) -/

def opOff64 (p : List Byte) : Bool := bitOf (pktOparam p) 12
def opFmt (p : List Byte) : Nat := bitsOf (pktOparam p) 11 8
def opKm1 (p : List Byte) : Nat := bitsOf (pktOparam p) 7 4
def opMode (p : List Byte) : Nat := bitsOf (pktOparam p) 3 0

/-! ## The bag block (R346) -/

/-- A bag block with the defaults of an absent one. -/
structure BagBlock where
  present : Bool := false
  tables : List Nat := [0xFFFF, 0xFFFF, 0xFFFF]
  winT : Int := 0
  ports : List Nat := [0, 0, 0]
  pos : Nat := 0
  mask : Nat := 0
  vstride : Nat := 0
  pstride : Nat := 0
  mstride : Nat := 0
  minEpoch : List Nat := [0, 0, 0, 0]
  fixedT : List Int := [0, 0, 0, 0]
  sc : List Nat := [0, 0, 0, 0, 0, 0, 0, 0]
  deriving DecidableEq, Repr

/-- The fields of a bag block's 144 bytes. -/
def bagBlock (b : List Byte) : BagBlock :=
  { present := true
    tables := [field b 0 2, field b 2 2, field b 4 2]
    winT := signed 8 (field b 6 1)
    ports := [field b 8 8, field b 16 8, field b 24 8]
    pos := field b 32 8
    mask := field b 40 8
    vstride := field b 48 4
    pstride := field b 52 4
    mstride := field b 56 4
    minEpoch := [field b 64 4, field b 68 4, field b 72 4, field b 76 4]
    fixedT := [signed 8 (field b 64 1), signed 8 (field b 65 1), signed 8 (field b 66 1), signed 8 (field b 67 1)]
    sc := [field b 80 8, field b 88 8, field b 96 8, field b 104 8, field b 112 8, field b 120 8, field b 128 8, field b 136 8] }

/-! ## The projection block (R348, R349) -/

/-- A stage descriptor (R349). -/
structure StageDesc where
  func : Nat
  ifmt : Nat
  outfn : Nat
  wset : Nat
  param : Nat
  deriving DecidableEq, Repr

/-- A projection block. -/
structure ProjBlock where
  stages : List StageDesc := []
  xfmt : Nat := 0
  sampleBags : Nat := 1
  scratch : Nat := 0
  pooled : Nat := 0
  dy : Nat := 0
  deriving DecidableEq, Repr

def stageDesc (b : List Byte) (i : Nat) : StageDesc :=
  let o := 32 + 16 * i
  { func := field b o 1, ifmt := bitsOf (field b (o + 1) 1) 3 0, outfn := field b (o + 2) 1, wset := field b (o + 4) 2,
    param := field b (o + 8) 8 }

/-- The fields of a projection block's 96 bytes. -/
def projBlock (b : List Byte) : ProjBlock :=
  { stages := (List.range (min 4 (field b 0 1))).map (stageDesc b)
    xfmt := field b 1 1
    sampleBags := field b 2 1
    scratch := field b 8 8
    pooled := field b 16 8
    dy := field b 24 8 }

end Sys2Proof.Machine
end

