-- ==== Sys2Proof/Machine/Num.lean ====
section
/-! DEFINITION. Exact numbers and the rounding modes (R49, R56, R57). A finite value is a signed fraction; every conversion is
exact arithmetic followed by one rounding. -/

namespace Sys2Proof.Machine

/-- An exact value: sign, and magnitude as a fraction with a positive denominator. Zero keeps its sign. -/
structure Exact where
  neg : Bool
  num : Nat
  den : Nat
  deriving DecidableEq, Repr

/-- A value of a floating format (R49). -/
inductive FVal where
  | nan
  | inf (neg : Bool)
  | fin (x : Exact)
  deriving DecidableEq, Repr

def Exact.zero : Exact := ⟨false, 0, 1⟩
def Exact.one : Exact := ⟨false, 1, 1⟩
def Exact.ofNat (n : Nat) : Exact := ⟨false, n, 1⟩
def Exact.ofInt (n : Int) : Exact := ⟨decide (n < 0), n.natAbs, 1⟩
def Exact.isZero (x : Exact) : Bool := x.num == 0

/-- 2^k as an exact value. -/
def Exact.pow2 (k : Int) : Exact := if k < 0 then ⟨false, 1, 2 ^ k.natAbs⟩ else ⟨false, 2 ^ k.natAbs, 1⟩

/-- Product and quotient: the exclusive OR of the signs, also for zero (R56). -/
def Exact.mul (x y : Exact) : Exact := ⟨x.neg != y.neg, x.num * y.num, x.den * y.den⟩
def Exact.div (x y : Exact) : Exact := ⟨x.neg != y.neg, x.num * y.den, x.den * y.num⟩
def Exact.negate (x : Exact) : Exact := { x with neg := !x.neg }
def Exact.abs (x : Exact) : Exact := { x with neg := false }

/-- Sum: an exact zero of operands of opposite sign is +0, a sum of two −0 is −0 (R56). -/
def Exact.add (x y : Exact) : Exact :=
  let a := x.num * y.den
  let b := y.num * x.den
  let d := x.den * y.den
  if x.neg = y.neg then ⟨x.neg, a + b, d⟩
  else if b < a then ⟨x.neg, a - b, d⟩
  else if a < b then ⟨y.neg, b - a, d⟩
  else ⟨false, 0, d⟩

def Exact.sub (x y : Exact) : Exact := x.add y.negate

/-- Order of exact values (zeros are equal whatever their sign). -/
def Exact.lt (x y : Exact) : Bool :=
  let a := x.num * y.den
  let b := y.num * x.den
  match x.neg, y.neg with
  | false, false => decide (a < b)
  | true, true => decide (b < a)
  | true, false => decide (0 < a + b)
  | false, true => false

def Exact.le (x y : Exact) : Bool := !(y.lt x)

/-- floor(log2) of a positive fraction. -/
def log2Frac (num den : Nat) : Int :=
  let e : Int := (Nat.log2 num : Int) - (Nat.log2 den : Int)
  let ge := if e < 0 then decide (den ≤ num * 2 ^ e.natAbs) else decide (den * 2 ^ e.natAbs ≤ num)
  if ge then e else e - 1

/-! ## Rounding (R56) -/

/-- The rounding modes of R56, and rounding toward +infinity for the fine scale (R59). -/
inductive Rm where
  | nearest
  | zero
  | odd
  | stochastic (u : Nat)
  | up
  deriving DecidableEq, Repr

/-- Round a magnitude that lies `rem / den` above the integer step `q`, its sign known (R56). -/
def roundStep (m : Rm) (neg : Bool) (q rem den : Nat) : Nat :=
  if rem = 0 then q
  else
    match m with
    | .nearest => if 2 * rem < den then q else if den < 2 * rem then q + 1 else q + q % 2
    | .zero => q
    | .odd => if q % 2 = 1 then q else q + 1
    | .stochastic u =>
      if neg then (if u < 65536 * (den - rem) / den then q else q + 1) else (if u < 65536 * rem / den then q + 1 else q)
    | .up => if neg then q else q + 1

/-- A floating format: fraction bits, least exponent, largest finite code, sign bit (R49). -/
structure FFmt where
  frac : Nat
  emin : Int
  maxCode : Nat
  signBit : Nat
  deriving DecidableEq, Repr

def fmtF32 : FFmt := ⟨23, -126, 0x7F7FFFFF, 31⟩
def fmtB16 : FFmt := ⟨7, -126, 0x7F7F, 15⟩
def fmtH16 : FFmt := ⟨10, -14, 0x7BFF, 15⟩
def fmtE4M3 : FFmt := ⟨3, -6, 0x7E, 7⟩
def fmtE5M2 : FFmt := ⟨2, -14, 0x7B, 7⟩
def fmtE2M1 : FFmt := ⟨1, 0, 0x7, 3⟩

/-- The exact value of a finite code of a format: its exponent field and fraction (R49). -/
def FFmt.value (f : FFmt) (c : Nat) : Exact :=
  let mag := c % 2 ^ f.signBit
  let e := mag / 2 ^ f.frac
  let m := mag % 2 ^ f.frac
  let neg := bitOf c f.signBit
  if e = 0 then { Exact.mul (.ofNat m) (.pow2 (f.emin - f.frac)) with neg := neg }
  else { Exact.mul (.ofNat (m + 2 ^ f.frac)) (.pow2 (f.emin - f.frac + (e - 1 : Nat))) with neg := neg }

/-- Round an exact value to a format, and whether its magnitude lay beyond the largest finite one, which it then becomes (R56, R60,
R146). DEDUCED: every magnitude above the largest finite one counts as beyond it, one that nearest-even would bring back to it too
(R62; log entry 99). -/
def FFmt.round (f : FFmt) (m : Rm) (x : Exact) : Nat × Bool :=
  let sign := bit1 x.neg * 2 ^ f.signBit
  if x.num = 0 then (sign, false)
  else
    let e := max f.emin (log2Frac x.num x.den)
    let k := e - f.frac
    let num := if k < 0 then x.num * 2 ^ k.natAbs else x.num
    let den := if k < 0 then x.den else x.den * 2 ^ k.natAbs
    let q := roundStep m x.neg (num / den) (num % den) den
    let code := (e - f.emin).toNat * 2 ^ f.frac + q
    let low := (e - f.emin).toNat * 2 ^ f.frac + num / den
    if f.maxCode < low || (low == f.maxCode && num % den != 0) then (sign + f.maxCode, true) else (sign + code, false)

/-- Round to the integer grid (R56, R59). -/
def roundInt (m : Rm) (x : Exact) : Int :=
  let q := roundStep m x.neg (x.num / x.den) (x.num % x.den) x.den
  if x.neg then -(q : Int) else q

/-! ## Values with NaN and infinities -/

/-- The value of an F32, B16 or H16 code (R49). -/
def ieeeValue (f : FFmt) (c : Nat) : FVal :=
  let mag := c % 2 ^ f.signBit
  let infCode := f.maxCode + 1
  if mag = infCode then .inf (bitOf c f.signBit)
  else if infCode < mag then .nan
  else .fin (f.value c)

def f32Value (c : F32) : FVal := ieeeValue fmtF32 c.toNat
def b16Value (c : Nat) : FVal := ieeeValue fmtB16 (c % 2 ^ 16)
def h16Value (c : Nat) : FVal := ieeeValue fmtH16 (c % 2 ^ 16)

/-- The canonical quiet NaN of F32. -/
def f32NaN : F32 := 0x7FC00000

/-- The F32 of a value in a mode; a finite value never becomes an infinity (R56). -/
def toF32 (m : Rm) (v : FVal) : F32 :=
  match v with
  | .nan => f32NaN
  | .inf n => if n then 0xFF800000 else 0x7F800000
  | .fin x => BitVec.ofNat 32 (fmtF32.round m x).1

/-- As `toF32`, with whether a finite value lay beyond the largest finite F32 (R53). -/
def toF32Sat (m : Rm) (v : FVal) : F32 × Bool :=
  match v with
  | .fin x => (BitVec.ofNat 32 (fmtF32.round m x).1, (fmtF32.round m x).2)
  | _ => (toF32 m v, false)

/-- IEEE sums, products and quotients of values. -/
def FVal.add (x y : FVal) : FVal :=
  match x, y with
  | .nan, _ => .nan
  | _, .nan => .nan
  | .inf a, .inf b => if a = b then .inf a else .nan
  | .inf a, _ => .inf a
  | _, .inf b => .inf b
  | .fin a, .fin b => .fin (a.add b)

def FVal.isNeg (x : FVal) : Bool :=
  match x with
  | .nan => false
  | .inf n => n
  | .fin a => a.neg

def FVal.negate (x : FVal) : FVal :=
  match x with
  | .nan => .nan
  | .inf n => .inf (!n)
  | .fin a => .fin a.negate

def FVal.mul (x y : FVal) : FVal :=
  match x, y with
  | .nan, _ => .nan
  | _, .nan => .nan
  | .fin a, .fin b => .fin (a.mul b)
  | .inf n, .fin a => if a.isZero then .nan else .inf (n != a.neg)
  | .fin a, .inf n => if a.isZero then .nan else .inf (n != a.neg)
  | .inf n, .inf k => .inf (n != k)

def FVal.div (x y : FVal) : FVal :=
  match x, y with
  | .nan, _ => .nan
  | _, .nan => .nan
  | .inf _, .inf _ => .nan
  | .inf n, .fin a => .inf (n != a.neg)
  | .fin a, .inf n => .fin ⟨a.neg != n, 0, 1⟩
  | .fin a, .fin b => if b.isZero then (if a.isZero then .nan else .inf (a.neg != b.neg)) else .fin (a.div b)

/-- Whether a value is finite. -/
def FVal.isFin (x : FVal) : Bool :=
  match x with
  | .fin _ => true
  | _ => false

/-- Whether an F32 is a NaN or an infinity. -/
def f32Finite (c : F32) : Bool := (f32Value c).isFin

/-- F32 arithmetic whose result is rounded to odd: the intermediate results of R57. -/
def addOdd (a b : F32) : F32 := toF32 .odd ((f32Value a).add (f32Value b))
def subOdd (a b : F32) : F32 := toF32 .odd ((f32Value a).add (f32Value b).negate)
def mulOdd (a b : F32) : F32 := toF32 .odd ((f32Value a).mul (f32Value b))
def divOdd (a b : F32) : F32 := toF32 .odd ((f32Value a).div (f32Value b))

/-! ## Square roots -/

/-- The integer square root, bit by bit from bit `k − 1`. -/
def isqrtFrom (n r k : Nat) : Nat :=
  match k with
  | 0 => r
  | k + 1 =>
    let c := r + 2 ^ k
    isqrtFrom n (if c * c ≤ n then c else r) k

def isqrt (n : Nat) : Nat := isqrtFrom n 0 (Nat.log2 n / 2 + 1)

/-- A value between the same neighbours of F32 as the square root of a fraction, equal to it when the root is exact to 80
fractional places: what one rounding of the root needs. -/
def Exact.sqrt (x : Exact) : Exact :=
  if x.num = 0 then ⟨false, 0, 1⟩
  else
    let k := 160 + Nat.log2 x.den
    let n := x.num * 2 ^ (2 * k) / x.den
    let r := isqrt n
    if r * r = n ∧ x.num * 2 ^ (2 * k) % x.den = 0 then ⟨false, r, 2 ^ k⟩ else ⟨false, 2 * r + 1, 2 ^ (k + 1)⟩

def FVal.sqrt (x : FVal) : FVal :=
  match x with
  | .nan => .nan
  | .inf n => if n then .nan else .inf false
  | .fin a => if a.isZero then .fin a else if a.neg then .nan else .fin a.sqrt

def sqrtOdd (a : F32) : F32 := toF32 .odd (f32Value a).sqrt

end Sys2Proof.Machine
end

