-- ==== Sys2Proof/Machine/Formats.lean ====
section
/-! DEFINITION. Row formats: encoded sizes (R47), layouts (R48, R51), dequantisation (R52, R53), outliers (R54, R55) and encoding
(R58 to R62). -/

namespace Sys2Proof.Machine

/-! ## Format codes (R43) and sizes (R47) -/

def fcF32 : Nat := 0
def fcB16 : Nat := 1
def fcH16 : Nat := 2
def fcMX8E4 : Nat := 3
def fcMX8E5 : Nat := 4
def fcMXI8 : Nat := 5
def fcMX4 : Nat := 6
def fcQA8 : Nat := 7
def fcQA4 : Nat := 8
def fcLR : Nat := 0xA

def isMx (f : Nat) : Bool := decide (3 ≤ f) && decide (f ≤ 6)
def isQa (f : Nat) : Bool := f == 7 || f == 8

/-- G of a table's QA group field (R42). -/
def groupSize (g : Nat) : Nat := if g = 0 then 32 else if g = 1 then 64 else 128

/-- r of an LR table (R42). -/
def lrRankOf (d : TableDesc) : Nat := 32 * (d.lrRank + 1)

/-- Elements including padding (R47). -/
def paddedElems (f e g : Nat) : Nat := if isMx f then roundUp e 32 else if isQa f then roundUp e g else e

/-- Bytes of an element code area (R47, R48). -/
def codeBytes (f e g : Nat) : Nat :=
  let ep := paddedElems f e g
  if f = 0 then 4 * e else if f = 1 ∨ f = 2 then 2 * e else if f = 6 ∨ f = 8 then ep / 2 else ep

/-- The encoded row size S of `e` elements (R47); for LR, `e` is r and the codes are as QA8. -/
def rowSize (f e g : Nat) : Nat :=
  let ep := paddedElems f e g
  if f = 0 then 4 * e
  else if f = 1 ∨ f = 2 then 2 * e
  else if f = 3 ∨ f = 4 ∨ f = 5 then 33 * ep / 32
  else if f = 6 then 17 * ep / 32
  else if f = 7 then ep + 4 * ep / g
  else if f = 8 then ep / 2 + 4 * ep / g
  else e + 4 * e / g

/-- Bits of an element of a format, for "strictly wider" (R63). -/
def elemBits (f : Nat) : Nat := if f = 0 then 32 else if f = 1 ∨ f = 2 then 16 else if f = 6 ∨ f = 8 then 4 else 8

/-! ## Reading codes (R48 to R53) -/

/-- The code of element `i` in a code area (R48). -/
def codeAt (f : Nat) (b : List Byte) (i : Nat) : Nat :=
  if f = 0 then field b (4 * i) 4
  else if f = 1 ∨ f = 2 then field b (2 * i) 2
  else if f = 6 ∨ f = 8 then (if i % 2 = 0 then field b (i / 2) 1 % 16 else field b (i / 2) 1 / 16)
  else field b i 1

/-- v(c) of an MX code (R49): none for a NaN or infinity. -/
def mxValue (f c : Nat) : Option Exact :=
  if f = 3 then (if c % 128 = 127 then none else some (fmtE4M3.value c))
  else if f = 4 then (if 0x7C ≤ c % 128 then none else some (fmtE5M2.value c))
  else if f = 5 then
    some (if c < 128 then ⟨false, c, 64⟩ else ⟨true, 256 - c, 64⟩)
  else some (fmtE2M1.value c)

/-- What one element dequantises to: its value, whether it saturated, whether it is non-finite (R53). -/
structure Deq where
  val : F32
  sat : Bool := false
  bad : Bool := false
  deriving DecidableEq, Repr

/-- Round a dequantised product to F32 by round to odd (R53). -/
def deqOf (x : Exact) : Deq :=
  let (c, sat) := fmtF32.round .odd x
  { val := BitVec.ofNat 32 c, sat := sat }

def deqBad : Deq := { val := f32NaN, bad := true }

/-- The element of a direct format (F32, B16, H16). -/
def deqDirect (f c : Nat) : Deq :=
  let v := if f = 0 then f32Value (BitVec.ofNat 32 c) else if f = 1 then b16Value c else h16Value c
  match v with
  | .fin x => { val := BitVec.ofNat 32 (fmtF32.round .odd x).1 }
  | _ => deqBad

/-- The exact value of a positive finite normal scale. -/
def coarseOf (c : F32) : Exact :=
  match f32Value c with
  | .fin x => x
  | _ => .zero

/-- Dequantise element `i` of a row copy of `e` elements (R52, R53). -/
def deqElem (f g e : Nat) (coarse : F32) (b : List Byte) (i : Nat) : Deq :=
  let area := codeBytes f e g
  if f ≤ 2 then deqDirect f (codeAt f b i)
  else if isMx f then
    let s := field b (area + i / 32) 1
    match mxValue f (codeAt f b i) with
    | none => deqBad
    | some v => if s = 0xFF then deqBad else deqOf ((v.mul (.pow2 ((s : Int) - 127))).mul (coarseOf coarse))
  else
    let h := area + 4 * (i / g)
    let fine := field b h 2
    let z := if f = 8 then field b (h + 2) 1 % 16 else field b (h + 2) 1
    match b16Value fine with
    | .fin x =>
      if bitOf fine 15 then deqBad
      else deqOf (((Exact.ofInt ((codeAt f b i : Int) - (z : Int))).mul x).mul (coarseOf coarse))
    | _ => deqBad

/-- Dequantise a row copy of `e` elements (R53). -/
def deqRow (f g e : Nat) (coarse : F32) (b : List Byte) : List Deq := (List.range e).map (deqElem f g e coarse b)

/-! ## Encoding (R58 to R62) -/

/-- The exact value of a finite F32; zero for a value that is not finite, which no encoding meets (R65, R476). -/
def finOf (c : F32) : Exact :=
  match f32Value c with
  | .fin x => x
  | _ => .zero

/-- The rounding mode of each element of a row: one mode, or stochastic rounding with its own bits by column, counted from `first`
(R61, R182). -/
inductive RowRm where
  | fixed (m : Rm)
  | sround (seed table row first : Nat)
  deriving DecidableEq, Repr

/-- The random bits of R61. -/
def srBits (seed table row col : Nat) : Nat :=
  let x := Nat.xor (seed % 2 ^ 64) (row * 0x9E6C63D0676A9A99 % 2 ^ 64)
  let x := Nat.xor x ((table * 2 ^ 16 + col) * 0xC2B2AE3D27D4EB4F % 2 ^ 64)
  let x := Nat.xor x (x / 2 ^ 31) * 0xD6E8FEB86659FD93 % 2 ^ 64
  let x := Nat.xor x (x / 2 ^ 29)
  x / 2 ^ 48

def RowRm.at (m : RowRm) (col : Nat) : Rm :=
  match m with
  | .fixed m => m
  | .sround seed table row first => .stochastic (srBits seed table row (col + first))

/-- Least and greatest of exact values, zero included (R59). -/
def minEx (l : List Exact) : Exact := l.foldl (fun a x => if x.lt a then x else a) .zero
def maxEx (l : List Exact) : Exact := l.foldl (fun a x => if a.lt x then x else a) .zero
def maxAbs (l : List Exact) : Exact := l.foldl (fun a x => if a.lt x.abs then x.abs else a) .zero

/-- An encoded block or group: codes, metadata bytes, saturated elements. -/
structure EncBlock where
  codes : List Nat
  meta_ : List Byte
  sat : Nat
  deriving DecidableEq, Repr

/-- Encode a QA group (R59). `xs` holds none for an element that is written as zero and left out of the first pass (R48,
R58), with its column. -/
def qaEncode (qmax : Nat) (coarse : Exact) (m : RowRm) (xs : List (Nat × Option Exact)) : EncBlock :=
  let vals := xs.filterMap (·.2)
  let lo := minEx vals
  let hi := maxEx vals
  if lo.isZero && hi.isZero then { codes := xs.map fun _ => 0, meta_ := zeros 4, sat := 0 }
  else
    let f := (fmtB16.round .up ((hi.sub lo).div ((Exact.ofNat qmax).mul coarse))).1
    let step := (fmtB16.value f).mul coarse
    let z := (max 0 (min (qmax : Int) (roundInt .nearest (lo.negate.div step)))).toNat
    let qs := xs.map fun (col, x) =>
      match x with
      | none => ((z : Int), false)
      | some v =>
        let q := (z : Int) + roundInt (m.at col) (v.div step)
        (max 0 (min (qmax : Int) q), decide (q < 0) || decide ((qmax : Int) < q))
    { codes := qs.map fun q => q.1.toNat, meta_ := leBytes 2 f ++ leBytes 1 z ++ zeros 1, sat := (qs.filter (·.2)).length }

/-- The exponent k of R60 and the largest finite code of an MX element. -/
def mxK (f : Nat) : Int := if f = 3 then 8 else if f = 4 then 15 else if f = 6 then 2 else 0

/-- Round an element to an MX element format, and whether it was clamped (R60). MXI8 reaches from −2.0 to 1.984375 (R49): what lies
beyond either end becomes that end and is counted; DEDUCED: a negative magnitude up to 2.0 is not beyond, and −2.0 is not clamped to
−1.984375 (log entry 100). -/
def mxCode (f : Nat) (m : Rm) (x : Exact) : Nat × Bool :=
  if f = 3 then fmtE4M3.round m x
  else if f = 4 then fmtE5M2.round m x
  else if f = 6 then fmtE2M1.round m x
  else
    let v := x.mul (.ofNat 64)
    let c := max (-128) (min 127 (roundInt m v))
    ((if c < 0 then c + 256 else c).toNat, (Exact.ofNat 127).lt v || v.lt (Exact.ofInt (-128)))

/-- Encode an MX block of 32 (R60). -/
def mxEncode (f : Nat) (coarse : Exact) (m : RowRm) (xs : List (Nat × Option Exact)) : EncBlock :=
  let top := (maxAbs (xs.filterMap (·.2))).div coarse
  if top.isZero then { codes := xs.map fun _ => 0, meta_ := zeros 1, sat := 0 }
  else
    let e := (max 0 (min 254 (log2Frac top.num top.den - mxK f + 127))).toNat
    let scale := coarse.mul (.pow2 ((e : Int) - 127))
    let qs := xs.map fun (col, x) =>
      match x with
      | none => (0, false)
      | some v => mxCode f (m.at col) (v.div scale)
    { codes := qs.map (·.1), meta_ := leBytes 1 e, sat := (qs.filter (·.2)).length }

/-- Codes packed into bytes (R48). -/
def packCodes (f : Nat) (cs : List Nat) : List Byte :=
  match cs with
  | [] => []
  | a :: b :: rest =>
    if f = 6 ∨ f = 8 then BitVec.ofNat 8 (a % 16 + 16 * (b % 16)) :: packCodes f rest
    else if f = 0 then leBytes 4 a ++ leBytes 4 b ++ packCodes f rest
    else if f = 1 ∨ f = 2 then leBytes 2 a ++ leBytes 2 b ++ packCodes f rest
    else BitVec.ofNat 8 a :: BitVec.ofNat 8 b :: packCodes f rest
  | [a] =>
    if f = 6 ∨ f = 8 then [BitVec.ofNat 8 (a % 16)]
    else if f = 0 then leBytes 4 a
    else if f = 1 ∨ f = 2 then leBytes 2 a
    else [BitVec.ofNat 8 a]

/-- A list cut into groups of `n`. -/
def chunksOf {α : Type} (n : Nat) (l : List α) (fuel : Nat) : List (List α) :=
  match fuel with
  | 0 => []
  | fuel + 1 => if l.isEmpty then [] else l.take n :: chunksOf n (l.drop n) fuel

/-- An encoded row copy: its bytes and the count of saturated elements (R62). -/
structure EncRow where
  bytes : List Byte
  sat : Nat
  deriving DecidableEq, Repr

/-- Encode a row in a format: outlier columns and padding are written as zero and left out of the first pass (R48, R55,
R58). -/
def encodeRow (f g : Nat) (coarse : F32) (outliers : List Nat) (m : RowRm) (row : List F32) : EncRow :=
  let e := row.length
  let xs := row.zipIdx.map fun (x, i) => (i, if outliers.contains i then none else some (finOf x))
  let pad := (List.range (paddedElems f e g - e)).map fun i => (e + i, (none : Option Exact))
  if f ≤ 2 then
    let fmt := if f = 0 then fmtF32 else if f = 1 then fmtB16 else fmtH16
    let qs := xs.map fun (col, x) =>
      match x with
      | none => (0, false)
      | some v => fmt.round (m.at col) v
    { bytes := packCodes f (qs.map (·.1)), sat := (qs.filter (·.2)).length }
  else
    let blocks := chunksOf (if isMx f then 32 else g) (xs ++ pad) (e + 1)
    let enc := blocks.map fun b => if isMx f then mxEncode f (coarseOf coarse) m b else qaEncode (if f = 8 then 15 else 255) (coarseOf coarse) m b
    { bytes := packCodes f (enc.map (·.codes)).flatten ++ (enc.map (·.meta_)).flatten, sat := (enc.map (·.sat)).foldl (· + ·) 0 }

/-- Encode a side entry: the outlier columns in B16, unused positions zero (R54), and its saturated elements. -/
def encodeSide (outliers : List Nat) (m : RowRm) (row : List F32) : List Byte × Nat :=
  let qs := outliers.map fun c => if c = 0xFFFF then (0, false) else fmtB16.round (m.at c) (finOf (row.getD c 0))
  ((qs.map fun q => leBytes 2 q.1).flatten, (qs.filter (·.2)).length)

/-- The outlier columns in use (R42, R54). -/
def TableDesc.outliers (d : TableDesc) : List Nat := d.outlier.filter (· ≠ 0xFFFF)
def TableDesc.hasSide (d : TableDesc) : Bool := d.outlier.headD 0xFFFF != 0xFFFF

/-- A row's values from its copy's elements and its side entry (R55). -/
def mergeSide (d : TableDesc) (row : List Deq) (side : Option (List Byte)) : List Deq :=
  match side with
  | none => row
  | some b => (d.outliers.zipIdx).foldl (fun r (c, j) => r.set c (deqDirect 1 (field b (2 * j) 2))) row

/-! ## Hashes (R66, R73, R94) -/

/-- The map hash of a row (R66). -/
def pmHash (table row : Nat) : Nat :=
  let x := Nat.xor (row % 2 ^ 64) (table * 2 ^ 40)
  let x := Nat.xor x (x / 2 ^ 30) * 0xA3B195C47E2D6F13 % 2 ^ 64
  let x := Nat.xor x (x / 2 ^ 27) * 0xC8E42B7A519D03F5 % 2 ^ 64
  Nat.xor x (x / 2 ^ 31)

end Sys2Proof.Machine
end

