-- ==== Sys2Proof/Machine/Matrix.lean ====
section
/-! DEFINITION. The arithmetic of the projection arrays: operand groups (R220, R221), conversion of activations (R226), the cell
(R225), the wide re-run (R229), and the layout of weight tiles (R220). -/

namespace Sys2Proof.Machine

/-- One promotion group of an operand vector: its exact elements, none for one that is not finite, and its group scale. -/
structure OpGroup where
  els : List (Option Exact)
  scale : Option Exact
  deriving DecidableEq, Repr

/-- The operand paths (R224). -/
inductive Path where
  | int
  | fp8
  | w16
  deriving DecidableEq, Repr

/-- The path of a weight or activation format (R224). -/
def pathOf (f : Nat) : Path := if f = 5 ∨ f = 7 then .int else if f = 3 ∨ f = 4 then .fp8 else .w16

/-- Bytes of a weight or activation code. -/
def codeWidth (f : Nat) : Nat := if f = 0 then 4 else if f = 1 ∨ f = 2 then 2 else 1

/-- P of a weight set (R220). -/
def WeightSet.groupLen (w : WeightSet) : Nat :=
  if w.fmt = 7 then (if w.group = 3 then w.k else groupSize w.group) else 32

/-- Kp, the bytes of a group block, and of a whole tile (R220). -/
def WeightSet.kp (w : WeightSet) : Nat := roundUp w.k w.groupLen
def WeightSet.blockBytes (w : WeightSet) : Nat :=
  w.groupLen * 128 * codeWidth w.fmt + (if isMx w.fmt then 128 else if w.fmt = 7 then 512 else 0)
def WeightSet.tileBytes (w : WeightSet) : Nat := ceilDiv w.k w.groupLen * w.blockBytes

/-- The active buffer (R222). -/
def WeightSet.base (w : WeightSet) : Nat := if w.activeB then w.baseB else w.baseA

/-- A finite floating value. -/
def FVal.exact? (x : FVal) : Option Exact :=
  match x with
  | .fin a => some a
  | _ => none

/-- The exact operand that enters a multiplier for a code of a format, given the group's zero point (R224). -/
def operandOf (f z c : Nat) : Option Exact :=
  if f = 7 then some (.ofInt ((c : Int) - (z : Int)))
  else if f = 5 then some (.ofInt (signed8 c))
  else if f = 3 ∨ f = 4 then mxValue f c
  else if f = 1 then (b16Value c).exact?
  else if f = 2 then (h16Value c).exact?
  else (f32Value (BitVec.ofNat 32 c)).exact?
where
  /-- An MXI8 code as a signed integer. -/
  signed8 (c : Nat) : Int := if c < 128 then (c : Int) else (c : Int) - 256

/-- The group scale that a scale entry stands for, and the zero point (R50, R51, R225). -/
def scaleOf (f : Nat) (entry : List Byte) : Option Exact × Nat :=
  if f = 7 then
    let fine := field entry 0 2
    (if bitOf fine 15 then none else (b16Value fine).exact?, field entry 2 1)
  else if isMx f then
    let e := field entry 0 1
    (if e = 0xFF then none else some (.pow2 ((e : Int) - 127 - (if f = 5 then 6 else 0))), 0)
  else (some .one, 0)

/-- Bytes of a scale entry. -/
def scaleWidth (f : Nat) : Nat := if f = 7 then 4 else if isMx f then 1 else 0

/-- A group filled up to `p` rows: padding rows add 0 (R225). -/
def padGroup (p : Nat) (els : List (Option Exact)) : List (Option Exact) := els ++ List.replicate (p - els.length) (some .zero)

/-- The groups of a vector laid out as an encoded row of `e` elements in groups of `p` (R48): an activation, scratch or LR row. -/
def rowGroups (f p e : Nat) (b : List Byte) : List OpGroup :=
  let area := codeBytes f e p
  (List.range (ceilDiv e p)).map fun g =>
    let (s, z) := scaleOf f ((b.drop (area + g * scaleWidth f)).take (scaleWidth f))
    { els := padGroup p ((List.range (min p (e - g * p))).map fun m => operandOf f z (codeAt f b (g * p + m))), scale := s }

/-- Group scales multiplied by a coarse scale. -/
def OpGroup.coarse (g : OpGroup) (c : Exact) : OpGroup := { g with scale := g.scale.map (·.mul c) }

/-- A sample vector encoded in a stage's input format in groups of `p`, by round to odd (R226); none when it holds a NaN or an infinity. -/
def encodeSample (f p : Nat) (x : List F32) : Option (List Byte) :=
  if x.all f32Finite then some (encodeRow f p 0x3F800000 [] (.fixed .odd) x).bytes else none

/-- The groups of one column of a weight tile (R220, R221). `tile` holds the tile's bytes. -/
def weightColumn (w : WeightSet) (tile : List Byte) (col : Nat) : List OpGroup :=
  let p := w.groupLen
  let cw := codeWidth w.fmt
  (List.range (ceilDiv w.k p)).map fun g =>
    let o := g * w.blockBytes
    let (s, z) := scaleOf w.fmt ((tile.drop (o + p * 128 * cw + col * scaleWidth w.fmt)).take (scaleWidth w.fmt))
    let els := (List.range (min p (w.k - g * p))).map fun m => operandOf w.fmt z (field tile (o + m * 128 * cw + col * cw) cw)
    let coarse := if w.fmt = 1 ∨ w.fmt = 2 then Exact.one else coarseOf w.coarse
    { els := padGroup p els, scale := s.map (·.mul coarse) }

/-- The exact sum of the products of two groups (R225): none when an operand is not finite. A sum of products that are all −0 is −0
(R56). -/
def groupSum (a b : List (Option Exact)) : Option Exact :=
  match a, b with
  | some x :: xs, some y :: ys =>
    if xs.isEmpty || ys.isEmpty then some (x.mul y) else (groupSum xs ys).map fun t => (x.mul y).add t
  | [], _ => some .zero
  | _, [] => some .zero
  | _, _ => none

/-- The clamp of an integer group sum outside i32 (R225), and whether it saturated; an integer zero has no sign. -/
def clampSum (path : Path) (s : Exact) : Exact × Bool :=
  if path ≠ .int then (s, false)
  else if s.isZero then (.zero, false)
  else if (Exact.ofNat (2 ^ 31 - 1)).lt s || s.lt (Exact.ofInt (-(2 ^ 31))) then (⟨s.neg, 2 ^ 31 - 1, 1⟩, true)
  else (s, false)

/-- The accumulators of a cell (R216): the last group's integer sum, the F32 accumulator, whether its last rounding was clamped to the
largest finite F32, and whether a group sum saturated. `acc` is none before the first term, and `bad` says that the output is NaN. -/
structure CellRun where
  group : Int := 0
  acc : Option F32 := none
  big : Bool := false
  sat : Bool := false
  bad : Bool := false
  deriving DecidableEq, Repr

/-- The accumulation of a cell over its groups, in ascending order (R225). -/
def cellFold (path : Path) (a b : List OpGroup) (r : CellRun) : CellRun :=
  match a, b with
  | x :: xs, y :: ys =>
    match groupSum x.els y.els, x.scale, y.scale with
    | some s, some sa, some sb =>
      let (s, hit) := clampSum path s
      let (term, big) := toF32Sat .odd (.fin ((s.mul sa).mul sb))
      let (acc, big) := match r.acc with
        | none => (term, big)
        | some v => toF32Sat .odd ((f32Value v).add (f32Value term))
      cellFold path xs ys { r with group := if path = .int then roundInt .zero s else r.group, acc := some acc, big := big, sat := r.sat || hit }
    | _, _, _ => { r with bad := true }
  | _, _ => r

/-- The output function of a stage (R227): RELU gives +0 for a negative value and for −0. -/
def outFn (fn : Nat) (y : F32) : F32 :=
  if fn = 1 ∧ f32Value y ≠ .nan ∧ y.msb = true then 0 else y

/-- A cell's result with bias and output function (R225, R227). -/
def cellOut (r : CellRun) (bias : Option F32) (fn : Nat) : F32 :=
  match r.bad, r.acc with
  | false, some v =>
    let v := match bias with
      | some b => addOdd v b
      | none => v
    if f32Value v = .nan then f32NaN else outFn fn v
  | _, _ => f32NaN

/-- Groups cut into groups of 128 with the same scale: the re-run of a whole-K group (R229). -/
def wideGroups (gs : List OpGroup) : List OpGroup :=
  (gs.map fun g => (chunksOf 128 g.els (g.els.length + 1)).map fun els => { els := els, scale := g.scale }).flatten

/-- One output element of a stage: its value, whether its own cell saturated and took the re-run value, whether the value was clamped to
the largest finite F32, and the accumulators it leaves in its cell (R225, R229, R216). -/
structure CellRes where
  val : F32
  rerun : Bool := false
  big : Bool := false
  group : Int := 0
  acc : F32 := 0
  deriving DecidableEq, Repr

/-- The result of a run of a cell. -/
def CellRun.res (r : CellRun) (bias : Option F32) (fn : Nat) (rerun : Bool) : CellRes :=
  { val := cellOut r bias fn, rerun := rerun, big := r.big && !r.bad, group := r.group, acc := if r.bad then f32NaN else r.acc.getD 0 }

/-- One output element of a stage (R225, R229). -/
def stageElem (path : Path) (a b : List OpGroup) (bias : Option F32) (fn : Nat) : CellRes :=
  let r := cellFold path a b {}
  if r.sat then (cellFold path (wideGroups a) (wideGroups b) {}).res bias fn true else r.res bias fn false

/-- The coefficients of an LR row as the sample of its reconstruction (R241): in groups of G on the INT path, and in groups of 32, each
with its coefficient group's scale, on the W16 path (R220, R224). -/
def lrSample (d : TableDesc) (coef : List Byte) (basisPath : Path) : List OpGroup :=
  let a := (rowGroups 7 (groupSize d.group) (lrRankOf d) coef).map (·.coarse (coarseOf d.coarse))
  if basisPath = .int then a
  else (a.map fun x => (chunksOf 32 x.els (x.els.length + 1)).map fun els => { x with els := els }).flatten

/-- A reconstructed element as a row's element (R53). -/
def CellRes.deq (r : CellRes) : Deq := { val := r.val, sat := r.big, bad := !f32Finite r.val }

end Sys2Proof.Machine
end

