-- ==== Sys2Proof/Machine/Chain.lean ====
section
/-! DEFINITION. The chain of a projection: its stages, rows and tiles (R231 to R239), and how the feeder deals the arrays to its users
(R243). -/

namespace Sys2Proof.Machine

/-! ## Stages -/

/-- The projection block of a command, if it has one (R348). -/
def projPart (p b : List Byte) : Option (List Byte) :=
  if pktOpcode p = opProject then some b else if isBagOp (pktOpcode p) && flFused p then some (b.drop 144) else none

/-- The fields of CONV1D's PARAM (R349). -/
structure ConvParam where
  kw : Nat
  stride : Nat
  dil : Nat
  pad : Nat
  deriving DecidableEq, Repr

def convParam (v : Nat) : ConvParam :=
  { kw := bitsOf v 3 0 + 1, stride := bitsOf v 5 4 + 1, dil := bitsOf v 7 6 + 1, pad := bitsOf v 11 8 }

/-- Output positions of a sequence of `l` rows (R239). -/
def ConvParam.outLen (c : ConvParam) (l : Nat) : Nat :=
  if l + 2 * c.pad < c.dil * (c.kw - 1) + 1 then 0 else (l + 2 * c.pad - c.dil * (c.kw - 1) - 1) / c.stride + 1

/-- The fields of INTERACT's PARAM, F and D (R349), and of WGRAD's, K and N. -/
def interF (v : Nat) : Nat := bitsOf v 7 0
def interD (v : Nat) : Nat := bitsOf v 28 16
def wgradK (v : Nat) : Nat := bitsOf v 15 0 + 1
def wgradN (v : Nat) : Nat := bitsOf v 27 16 + 1

/-- The stages of a command's chain (R348). -/
def Job.chain (j : Job) : List StageDesc :=
  match projPart j.pkt j.block with
  | some b => (projBlock b).stages
  | none => []

/-- The weight set of a stage of a command's chain. -/
def State.stageWset (s : State) (j : Job) (i : Nat) : Option WeightSet := (j.chain[i]?).bind fun g => s.wset? g.wset

/-- Positions of a bag, holes included (R79). -/
def Job.bagLen (j : Job) (b : Nat) : Nat := (j.offs.getD (b + 1) 0 - j.offs.getD b 0) * j.fan

/-- Whether every bag of a bag command has been formed or lost. -/
def Job.bagsAll (j : Job) : Bool := decide (pktCount j.pkt ≤ j.bagsDone.length + j.bagsLost.length)

/-- Whether every work item of a command is done. -/
def State.itemsDone (s : State) (c : CmdId) : Bool :=
  s.items.all fun w => decide (w.cmd ≠ c) || w.place == .done

/-! ## Arrays (R246) -/

def allArrays : List (Fin 4) := [0, 1, 2, 3]
def State.array (s : State) (n : Fin 4) : ArrayUnit := s.arrays.get n
def State.updArray (s : State) (n : Fin 4) (f : ArrayUnit → ArrayUnit) : State := { s with arrays := s.arrays.set n (f (s.array n)) }

/-- The arrays in use, in ascending number: column tile k of a pass runs on the k-th (R231; log entry 34). -/
def State.onArrays (s : State) : List (Fin 4) := allArrays.filter fun n => !(s.array n).disabled

/-! ## The samples of a chain -/

/-- Whether a chain starts with a convolution. -/
def Job.isConv (j : Job) : Bool := ((j.chain.head?).map (·.func)).getD 0 == 2

/-- Bags of a sample (R234). -/
def Job.sampleBags (j : Job) : Nat :=
  match projPart j.pkt j.block with
  | some b => if isBagOp (pktOpcode j.pkt) && !j.isConv then Nat.max 1 (projBlock b).sampleBags else 1
  | none => 1

/-- The output rows of a chain, in order: a sample and a position in it. A convolution gives each bag one row per output position
(R239), WGRAD one row per k (R236), any other chain one row per sample. -/
def Job.sampleRows (j : Job) : List (Nat × Nat) :=
  match j.chain with
  | [] => []
  | g :: _ =>
    if j.isConv then
      ((List.range (pktCount j.pkt)).map fun b => (List.range ((convParam g.param).outLen (j.bagLen b))).map fun t => (b, t)).flatten
    else if g.func = 4 then (List.range (wgradK g.param)).map fun k => (k, 0)
    else (List.range (pktCount j.pkt / j.sampleBags)).map fun s => (s, 0)

/-- Output columns of a stage. -/
def State.stageCols (s : State) (j : Job) (i : Nat) : Nat :=
  match j.chain[i]? with
  | none => 0
  | some g =>
    let w := (s.stageWset j i).getD {}
    if g.func = 1 then interF g.param * (interF g.param - 1) / 2 else if g.func = 3 then w.k else if g.func = 4 then wgradN g.param else w.n

/-- F' of INTERACT (R238). -/
def interBlock (f : Nat) : Nat := if f ≤ 32 then 32 else if f ≤ 64 then 64 else 128

/-- The rows of the next tile on `on` arrays (R231, R238, R239). -/
def Job.tileRows (j : Job) (p : ProjJob) (on : Nat) : List (Nat × Nat) :=
  let rest := j.sampleRows.drop p.tile
  match j.chain[p.layer]? with
  | none => []
  | some g =>
    if g.func = 2 then ((rest.takeWhile fun r => r.1 == ((rest.head?).map (·.1)).getD 0)).take 128
    else if g.func = 1 then rest.take (on * (128 / interBlock (interF g.param)))
    else rest.take 128

/-- Whether the inputs of a tile are there: in the first layer of a fused chain, every bag of its samples has been formed or lost
(R233, R234). -/
def Job.tileReady (j : Job) (p : ProjJob) (rows : List (Nat × Nat)) : Bool :=
  p.layer != 0 || !isBagOp (pktOpcode j.pkt) ||
    rows.all fun r => (List.range j.sampleBags).all fun i =>
      let b := r.1 * j.sampleBags + i
      j.bagsDone.contains b || j.bagsLost.contains b

/-- A row whose outputs stay as they were: a bag of it belongs to an aborted work item (R115). -/
def Job.rowLost (j : Job) (r : Nat × Nat) : Bool :=
  isBagOp (pktOpcode j.pkt) && (List.range j.sampleBags).any fun i => j.bagsLost.contains (r.1 * j.sampleBags + i)

/-- Samples of INTERACT on one array (R238). -/
def StageDesc.perArray (g : StageDesc) : Nat := 128 / interBlock (interF g.param)

/-- What the feeder knows of a user's next tile: how many arrays it takes, and what its activation columns are when other users may
share them (R231, R243). -/
structure NextTile where
  need : Nat
  act : Option (List Nat) := none
  deriving DecidableEq, Repr

/-- The activation columns of a tile of a PROJECT's first layer: two users share them only when they stream the same samples of the same
area in the same format. -/
def State.actColumns (s : State) (j : Job) (p : ProjJob) (g : StageDesc) : Option (List Nat) :=
  match desc (pktD0 j.pkt) with
  | .ref va =>
    if pktOpcode j.pkt = opProject ∧ p.layer = 0 ∧ g.func = 0 then
      let w := (s.stageWset j 0).getD {}
      some [j.id.ctx, va, (projBlock j.block).xfmt, g.ifmt, w.groupLen, w.k, p.tile]
    else none
  | _ => none

/-- The next tile of a command, once its inputs are there; the last tile of a fused layer waits for the whole gather (R231, R233). -/
def State.cmdTile (s : State) (j : Job) : Option NextTile :=
  match j.proj with
  | none => none
  | some p =>
    match j.chain[p.layer]? with
    | none => none
    | some g =>
      let on := s.onArrays.length
      let rows := j.tileRows p on
      let left := ceilDiv (s.stageCols j p.layer) 128 - p.pass
      let final := decide (j.sampleRows.length ≤ p.tile + rows.length) && (decide (left ≤ on) || g.func == 1)
      if on = 0 ∨ p.inLayer = false ∨ j.phase ≠ .running ∨ j.tileReady p rows = false ∨
          (p.layer = 0 ∧ isBagOp (pktOpcode j.pkt) = true ∧ final = true ∧ (s.itemsDone j.id && j.bagsAll) = false) then none
      else some { need := if g.func = 1 then ceilDiv rows.length g.perArray else min on left, act := s.actColumns j p g }

/-- Column tiles of an LR table. -/
def State.lrTiles (s : State) (t : Nat) : Nat := ceilDiv (((s.table? t).map (·.desc.elems)).getD 1) 128

/-- The next tile of the LR reconstruction (R241). -/
def State.lrNext (s : State) : Option NextTile :=
  let on := s.onArrays.length
  if on = 0 then none
  else
    match s.feeder.lr, s.feeder.lrQueue with
    | some t, _ => some { need := min on (s.lrTiles t.table - t.pass) }
    | none, (_, _, t) :: _ => some { need := min on (s.lrTiles t) }
    | none, [] => none

/-- The users of the arrays with a tile to run, by rising key: the LR reconstruction, then commands by order of acceptance (R243). -/
def State.tileUsers (s : State) : List (Nat × TileUser × NextTile) :=
  (match s.lrNext with
   | some t => [(0, .lr, t)]
   | none => []) ++ s.jobs.filterMap fun j => (s.cmdTile j).map fun t => (j.order + 1, .cmd j.id, t)

/-- The user next after a key, round-robin (R243). -/
def nextUser (last : Nat) (l : List (Nat × TileUser × NextTile)) : Option (Nat × TileUser × NextTile) :=
  (l.find? fun e => decide (last < e.1)).or l.head?

/-- The first sample tile of the LR rows that wait: up to 128 rows of the table of the first (R231, R241). -/
def Feeder.startLr (x : Feeder) : Feeder :=
  match x.lr, x.lrQueue with
  | none, (_, _, t) :: _ =>
    let mine := (x.lrQueue.filter fun e => e.2.2 == t).take 128
    { x with lr := some { table := t, rows := mine.map fun e => (e.1, e.2.1) }, lrQueue := x.lrQueue.filter fun e => !mine.contains e }
  | _, _ => x

/-- The tiles in progress that still can end: their arrays are in use and their command still runs. -/
def State.keptDeals (s : State) : List Deal :=
  s.feeder.deals.filter fun d => d.arrays.all (fun n => !(s.array n).disabled) &&
    (match d.user with
     | .lr => s.feeder.lr.isSome
     | .cmd c => ((s.job? c).bind s.cmdTile).isSome)

/-- The feeder deals the arrays at a tile boundary: round-robin among its users; a user that needs fewer than all of them shares the rest
with the next user whose tile fits them and streams the same columns, else they stay gated (R243). -/
def State.dealTiles (s : State) : State :=
  let x := { s.feeder with deals := s.keptDeals }
  if x.deals ≠ [] then { s with feeder := x }
  else
    match nextUser x.last s.tileUsers with
    | none => { s with feeder := x }
    | some (k, u, t) =>
      let on := s.onArrays
      let free := on.drop t.need
      let mates := s.tileUsers.filter fun e => e.1 != k && t.act.isSome && e.2.2.act == t.act && decide (e.2.2.need ≤ free.length)
      let x := if u = .lr then x.startLr else x
      match nextUser k mates with
      | none => { s with feeder := { x with deals := [⟨u, on.take t.need, free⟩], last := k } }
      | some (_, v, t') =>
        { s with feeder := { x with deals := [⟨u, on.take t.need, free.drop t'.need⟩, ⟨v, free.take t'.need, []⟩], last := k } }

/-- The tile of a user that is in progress. -/
def State.deal? (s : State) (u : TileUser) : Option Deal := s.feeder.deals.find? fun d => d.user == u

/-- A tile in progress has ended. -/
def State.endDeal (s : State) (u : TileUser) : State := { s with feeder := { s.feeder with deals := s.feeder.deals.filter fun d => d.user != u } }

/-- Whether a fetch waits for the arrays, or is on them (R241). -/
def State.inFeeder (s : State) (k id : Nat) : Bool :=
  s.feeder.lrQueue.any (fun e => e.1 == k && e.2.1 == id) || s.feeder.lr.any fun t => t.rows.contains (k, id)

end Sys2Proof.Machine
end

