-- ==== Sys2Proof/Machine/Regs.lean ====
section
/-! DEFINITION. The register file of the control window: reset values, stored fields and the named fields that the engine's
own rules read (R460 to R474 and the layouts they name). -/

namespace Sys2Proof.Machine

/-- Whether `off` is one of `n` registers at `base`, `stride` apart. -/
def regIn (off base stride n : Nat) : Bool :=
  decide (base ≤ off) && decide (off < base + stride * n) && ((off - base) % stride == 0)

/-- The reset value of a stored register, by offset (R460 to R474). -/
def regReset (off : Nat) : BitVec 32 :=
  if off = 0x20004 then 0x1A2B3C4D
  else if off = 0x20008 then 0xF000
  else if off = 0x2000C then 0x1000
  else if regIn off 0x20040 4 16 then 0x0FFF
  else if off = 0x30004 then 0x00C00100
  else if off = 0x40008 then 6
  else if off = 0x40018 then 0x2710
  else if off = 0x80004 then 0x88B5
  else if off = 0x80008 then 0x000A0064
  else if off = 0x90088 then 0x40640400
  else if off = 0xA0100 then 0xF4
  else if off = 0xB0004 then 0x00640064
  else if off = 0xE0008 then 8
  else if off = 0xE0040 then 0x03E80A04
  else if off = 0xE005C then 3
  else if regIn off 0x100C0 0x1000 16 then 0x200
  else 0

/-- The stored value of a register. -/
def State.reg (s : State) (off : Nat) : BitVec 32 := sget (regReset off) s.regs off

/-- A register overwritten: one at its reset value is not listed. -/
def State.setReg (s : State) (off : Nat) (v : BitVec 32) : State := { s with regs := sput (regReset off) s.regs off v }

/-- Bits [hi:lo] of a stored register. -/
def State.regf (s : State) (off hi lo : Nat) : Nat := bitsOf (s.reg off).toNat hi lo

/-- A 64-bit pair of stored registers (R11). -/
def State.reg64 (s : State) (off : Nat) : Nat := (s.reg off).toNat + (s.reg (off + 4)).toNat * 2 ^ 32

/-- Set bits of a status register (W1C bits, R9). -/
def State.orReg (s : State) (off : Nat) (v : BitVec 32) : State := s.setReg off (s.reg off ||| v)

/-! ## Named fields -/

/-- RC_CTL.REPL: 1 is the Ronisk 1 compatibility LFSR, all else tree pseudo-LRU (R280). -/
def State.replLfsr (s : State) : Bool := s.regf 0x20000 1 0 == 1
def State.lfsrSeed (s : State) : BitVec 32 := s.reg 0x20004
def State.mirrorMask (s : State) : Nat := s.regf 0x20008 15 0
def State.classMask (s : State) (n : Nat) : Nat := s.regf (0x20040 + 4 * n) 15 0
def State.patrolNs (s : State) : Nat := s.regf 0x2000C 15 0
/-- QL of R291, in bytes: QL8 above 32 reads as 32. -/
def State.ql (s : State) : Nat := min 32 (s.regf 0x30000 5 0) * 2 ^ 33
def State.wcHighWater (s : State) : Nat := s.regf 0x30004 23 16
def State.wcAgeNs (s : State) : Nat := s.regf 0x30004 11 0
/-- The offset of the regulator register of a bucket (R329). -/
def reguOff (p d : Nat) : Nat := 0x38000 + 16 * p + 4 * d
/-- The regulator register of a bucket as the last refill took it: a write applies from the next refill (R301). -/
def State.regu? (s : State) (p d : Nat) : Nat := (sget (0 : BitVec 32) s.regu (4 * p + d)).toNat
def State.reguEn (s : State) (p d : Nat) : Bool := bitOf (s.regu? p d) 31
def State.reguBorrow (s : State) (p d : Nat) : Bool := bitOf (s.regu? p d) 30
def State.reguBurst (s : State) (p d : Nat) : Nat := bitsOf (s.regu? p d) 29 16
def State.reguRate (s : State) (p d : Nat) : Nat := bitsOf (s.regu? p d) 13 0
def State.sqBase (s : State) : Nat := s.reg64 0x40000
def State.sqEn (s : State) : Bool := bitOf (s.reg 0x40008).toNat 31
def State.sqLog2 (s : State) : Nat := s.regf 0x40008 4 0
def State.sqHead (s : State) : Nat := s.regf 0x40010 15 0
def State.faultTmoUs (s : State) : Nat := s.regf 0x40018 15 0
def State.grantBase (s : State) : Nat := s.reg64 0x40020
def State.etherType (s : State) : Nat := s.regf 0x80004 15 0
def State.isolateMs (s : State) : Nat := s.regf 0x80008 31 16
def State.rtmoUs (s : State) : Nat := s.regf 0x80008 15 0
def State.regPeerEn (s : State) : Bool := bitOf (s.reg 0x80010).toNat 31
def State.regPeer (s : State) : Nat := s.regf 0x80010 13 0
def State.expPresent (s : State) (e : Nat) : Bool := bitOf (s.reg (0x90000 + 4 * e)).toNat 31
def State.expGib (s : State) (e : Nat) : Nat := s.regf (0x90000 + 4 * e) 10 0
def State.countBase (s : State) : Nat := s.reg64 0x90080
def State.hotShift (s : State) : Nat := s.regf 0x90088 31 28
def State.decayMs (s : State) : Nat := s.regf 0x90088 27 16
def State.hotEn (s : State) : Bool := bitOf (s.reg 0x90088).toNat 15
def State.hotThr (s : State) : Nat := s.regf 0x90088 14 0
/-- DISC_US: below 10 reads as 10, above 500 as 500 (R422). -/
def State.discUs (s : State) : Nat := max 10 (min 500 (s.regf 0xB0004 8 0))
def State.holdMs (s : State) : Nat := s.regf 0xB0004 31 16
def State.logBase (s : State) : Nat := s.reg64 0xE0000
def State.logEn (s : State) : Bool := bitOf (s.reg 0xE0008).toNat 31
def State.logLog2 (s : State) : Nat := s.regf 0xE0008 4 0
def State.logHead (s : State) : Nat := s.regf 0xE0010 15 0
def State.restoreMs (s : State) : Nat := s.regf 0xE0040 31 16
/-- Watch intervals, a value outside its range reading as the nearest bound (R441). -/
def State.plinthUs (s : State) : Nat := max 2 (min 18 (s.regf 0xE0040 15 8))
def State.ccUs (s : State) : Nat := max 2 (min 4 (s.regf 0xE0040 7 0))
/-- The firmware region (R410). -/
def fwBase : Nat := Config.fwBase.toNat
def fwBytes : Nat := Config.fwSizeMib.toNat * 2 ^ 20

end Sys2Proof.Machine
end

