-- ==== Sys2Proof/Machine/AddrMap.lean ====
section
/-! DEFINITION. Physical addresses: the node's own (R4, R475), the local address map (R288), the pool interleave (R291, R292),
the grant table (R308, R309) and the regulators (R299, R300). -/

namespace Sys2Proof.Machine

/-- The node identifier by which addresses are decoded: 0 until one is assigned (R475). -/
def State.ownNode (s : State) : Nat := if s.fab.assigned then s.fab.node else 0

/-- Whether a physical address is the engine's own memory (R4, R251). -/
def State.isLocal (s : State) (pa : Nat) : Bool := pa / 2 ^ 50 == s.ownNode

/-- Bits [49:0] of a physical address. -/
def localOf (pa : Nat) : Nat := pa % 2 ^ 50

/-- The physical address of a local address of this engine. -/
def State.physOf (s : State) (a : Nat) : Nat := s.ownNode * 2 ^ 50 + localOf a

/-- What a local address decodes to (R288). -/
inductive Region where
  | pool
  | expander (e : Nat)
  | device
  | undecoded
  deriving DecidableEq, Repr

/-- Size in bytes of expander `e`: 0 when it is not announced (R305). -/
def State.expBytes (s : State) (e : Nat) : Nat := if s.expPresent e then min 1024 (s.expGib e) * 2 ^ 30 else 0

/-- The region of a local address (R288). -/
def State.region (s : State) (a : Nat) : Region :=
  if a < 2 ^ 40 then .pool
  else if 2 ^ 44 ≤ a ∧ a < 2 ^ 45 then
    let e := (a - 2 ^ 44) / 2 ^ 40
    if a % 2 ^ 40 < s.expBytes e then .expander e else .undecoded
  else if 2 ^ 49 ≤ a ∧ a < 2 ^ 50 then .device
  else .undecoded

/-- Whether an address decodes to memory. -/
def State.isMemory (s : State) (a : Nat) : Bool :=
  match s.region a with
  | .pool => true
  | .expander _ => true
  | _ => false

/-- XOR of successive `k`-bit fields of `u` (R292). -/
def foldBits (u k n : Nat) : Nat :=
  match n with
  | 0 => 0
  | n + 1 => Nat.xor (u % 2 ^ k) (foldBits (u / 2 ^ k) k n)

/-- The channel and channel offset of a pool address (R292). -/
def State.poolMap (s : State) (a : Nat) : Nat × Nat :=
  let top := 2 ^ 40 - 4 * s.ql
  if a < top then (foldBits (a / 2 ^ 12) 5 6, a / 2 ^ 12 / 2 ^ 5 * 2 ^ 12 + a % 2 ^ 12)
  else
    let q := (a - top) / s.ql
    let u := (a - top - q * s.ql) / 2 ^ 12
    (8 * q + foldBits u 3 9, 2 ^ 35 - s.ql / 8 + u / 2 ^ 3 * 2 ^ 12 + a % 2 ^ 12)

/-- The port that serves a local address (R126, R288). -/
def State.targetOf (s : State) (pa : Nat) : Target :=
  if s.isLocal pa then
    if localOf pa < 2 ^ 40 then .channel (s.poolMap (localOf pa)).1
    else .capacity ((localOf pa - 2 ^ 44) / 2 ^ 40 / 2)
  else .remote (pa / 2 ^ 50)

/-- The order of targets in a closed sort window: channels, capacity ports, other nodes (R126). -/
def targetKey (t : Target) : Nat :=
  match t with
  | .channel n => n
  | .capacity n => 32 + n
  | .remote n => 40 + n

/-- Whether a local address lies in memory of an expander that was announced and has been removed or made smaller (R305). -/
def State.goneExp (s : State) (a : Nat) : Bool :=
  decide (2 ^ 44 ≤ a) && decide (a < 2 ^ 45) && decide (a % 2 ^ 40 < sget 0 s.expSeen ((a - 2 ^ 44) / 2 ^ 40)) &&
    !decide (a % 2 ^ 40 < s.expBytes ((a - 2 ^ 44) / 2 ^ 40))

/-- An expander's size is noted as it is announced (R305). -/
def State.noteExp (s : State) (e : Nat) : State := { s with expSeen := sput 0 s.expSeen e (max (sget 0 s.expSeen e) (s.expBytes e)) }

/-- Whether a local address lies behind a capacity port that is lost, or on an expander that is gone, which is treated alike (R305, R307). -/
def State.onLostPort (s : State) (a : Nat) : Bool :=
  match s.region a with
  | .expander e => if h : e / 2 < 8 then (s.cap[e / 2]).st == 2 else false
  | _ => s.goneExp a

/-- The quadrant-local region of quadrant `q` (R291). -/
def State.inQuadRegion (s : State) (q a n : Nat) : Bool :=
  let lo := 2 ^ 40 - 4 * s.ql + q * s.ql
  decide (lo ≤ a) && decide (a + n ≤ lo + s.ql)

/-! ## The grant table (R308, R309) -/

/-- The grant-table entry of a local address (R308). -/
def grantIndex (a : Nat) : Nat :=
  if a < 2 ^ 40 then a / 2 ^ 21
  else 524288 * ((a - 2 ^ 44) / 2 ^ 40 + 1) + a % 2 ^ 40 / 2 ^ 21

/-- Whether a grant entry allows a context, by its owner or its read group (R309). -/
def grantAllows (entry ctx : Nat) (groups : List Nat) (write : Bool) : Bool :=
  ctx == 0 || ctx == bitsOf entry 11 0 ||
    (!write && bitsOf entry 19 12 != 0 && groups.contains (bitsOf entry 19 12))

/-- The read groups of a context: the non-zero ones of its descriptor (R308, R362). -/
def State.groupsOf (s : State) (ctx : Nat) : List Nat :=
  match s.context? ctx with
  | some c => c.rgroups.filter (· ≠ 0)
  | none => []

/-! ## Partition regulators (R299 to R301) -/

/-- The bandwidth partition of a context: 0 for CTX 0 (R299). -/
def State.partOf (s : State) (ctx : Nat) : Nat :=
  match s.context? ctx with
  | some c => c.part
  | none => 0

def bucketGet (b : Buckets) (d : Nat) : Nat := if h : d < 4 then b.tok[d] else 0
def bucketSet (b : Buckets) (d v : Nat) : Buckets := if h : d < 4 then { b with tok := b.tok.set d v } else b
def debtGet (b : Buckets) (d : Nat) : Nat := if h : d < 4 then b.debt[d] else 0
def debtSet (b : Buckets) (d v : Nat) : Buckets := if h : d < 4 then { b with debt := b.debt.set d v } else b

/-- Bytes charged: rounded up to whole sectors (R299). -/
def charged (n : Nat) : Nat := roundUp n 64

/-- Whether a request of `n` bytes of partition `p` may issue in direction `d` (R300). -/
def State.mayIssue (s : State) (p d n : Nat) (rich : Bool) : Bool :=
  p == 0 || !s.reguEn p d || decide (n ≤ bucketGet (sget {} s.tokens p) d) || (s.reguBorrow p d && !rich)

/-- The tokens taken by a request that issues (R300): none by partition 0, by a bucket that is not regulated, or by
borrowing. A request made within a step that goes on past its tokens owes the rest to the refills that follow (log entry 94). -/
def State.chargeTo (s : State) (p d n : Nat) : State :=
  if p = 0 ∨ s.reguEn p d = false then s
  else
    let b := sget {} s.tokens p
    let have_ := bucketGet b d
    if n ≤ have_ then { s with tokens := sput {} s.tokens p (bucketSet b d (have_ - n)) }
    else if s.reguBorrow p d then s
    else { s with tokens := sput {} s.tokens p (debtSet (bucketSet b d 0) d (debtGet b d + (n - have_))) }

/-- The bucket of an access: pool or capacity, read or write (R299). -/
def bucketOf (t : Target) (write : Bool) : Nat :=
  match t with
  | .capacity _ => if write then 3 else 2
  | _ => if write then 1 else 0

/-- The register of a bucket is taken as it stands (R301). -/
def State.takeRegu (s : State) (p d : Nat) : State := { s with regu := sput 0 s.regu (4 * p + d) (s.reg (reguOff p d)) }

/-- One refill of a bucket: it takes its register as it stands, makes good what is owed, and adds tokens up to the burst (R300, R301). -/
def State.refillBucket (s : State) (p d : Nat) : State :=
  let s := s.takeRegu p d
  if s.reguEn p d then
    let b := sget {} s.tokens p
    let cap := 1024 * max (s.reguBurst p d) 1
    let add := 10 * s.reguRate p d
    let owed := debtGet b d
    { s with tokens := sput {} s.tokens p (debtSet (bucketSet b d (min (bucketGet b d + (add - owed)) cap)) d (owed - add)) }
  else s

/-- The refill of every regulated bucket (R300). -/
def State.refillAll (s : State) : State :=
  foldN 63 s fun s p => foldN 4 s fun s d => s.refillBucket (p + 1) d

end Sys2Proof.Machine
end

