-- ==== Sys2Proof/Machine/Flags.lean ====
section
/-! DEFINITION. Status codes and how the status of a command is chosen (R358, R359). -/

namespace Sys2Proof.Machine

def stOK : Nat := 0x0000
def stDrops : Nat := 0x0001
def stWide : Nat := 0x0002
def stClamped : Nat := 0x0003
def stCapacity : Nat := 0x0101
def stBudget : Nat := 0x0102
def stApplyWindow : Nat := 0x0103
def stStaging : Nat := 0x0104
def stStepClosed : Nat := 0x0105
def stEpochMismatch : Nat := 0x0106
def stMalformed : Nat := 0x0107
def stProtection : Nat := 0x0201
def stWalkError : Nat := 0x0202
def stPoison : Nat := 0x0301
def stAborted : Nat := 0x0302
def stProgram : Nat := 0x0303
def stDraining : Nat := 0x0401

/-- The class of a status code (R358, R359). -/
def statusClass (st : Nat) : Nat := st / 256

/-- Whether `a` is chosen before `b`: the higher class, and within a class the lower code (R359). -/
def statusBefore (a b : Nat) : Bool :=
  decide (statusClass b < statusClass a) || (statusClass a == statusClass b && decide (a < b))

/-- The status of a command among those that apply: OK when none does. The first cause of the chosen status gives the
detail (R359). -/
def chooseStatus (l : List (Nat × ErrDetail)) : Nat × ErrDetail :=
  match l with
  | [] => (stOK, {})
  | c :: rest =>
    let r := chooseStatus rest
    if r.1 = stOK ∨ statusBefore c.1 r.1 = true ∨ c.1 = r.1 then c else r

/-- The order of statuses of a command whose chapter gives one, highest first: gathers (R148) and PROJECT (R245),
SCATTER_GRAD (R177), APPLY_EPOCH (R196). -/
def statusOrder (op : Nat) : List Nat :=
  if op = 0x10 ∨ op = 0x11 ∨ op = 0x30 then [stProtection, stWalkError, stProgram, stAborted, stPoison, stWide, stClamped, stDrops]
  else if op = 0x20 then
    [stProtection, stWalkError, stProgram, stAborted, stStepClosed, stCapacity, stStaging, stClamped, stDrops]
  else if op = 0x21 then [stProtection, stDraining, stEpochMismatch, stAborted, stWalkError, stPoison]
  else []

/-- The status of a command of an opcode among the causes recorded: the first of its chapter's order, else by R359. -/
def pickStatus (op : Nat) (l : List (Nat × ErrDetail)) : Nat × ErrDetail :=
  match (statusOrder op).findSome? fun st => l.find? fun c => c.1 == st with
  | some c => c
  | none => chooseStatus l

/-- Counts saturate at the largest value of their field (R356). -/
def sat16 (n : Nat) : Nat := min n 0xFFFF
def sat32 (n : Nat) : Nat := min n 0xFFFFFFFF

/-- The detail of a refusal or error with one reason. -/
def reason (r : Nat) : ErrDetail := { reason := r }

end Sys2Proof.Machine
end

