-- ==== Sys2Proof/Machine/Memory.lean ====
section
/-! DEFINITION. The write path to memory: sectors and poison (R294, R427), write-combining entries (R296 to R298), and the
error ring (R424, R425). -/

namespace Sys2Proof.Machine

/-! ## Sectors and byte masks -/

/-- The sector of memory at a local address (64-byte aligned), whatever its check bits say. -/
def rawSector (m : List Host.Cell) (a : Nat) : Sector :=
  sectorOf ((List.range 64).map fun i => memByte m (a + i))

/-- The mask of `n` bytes from byte `off`. -/
def byteMask (off n : Nat) : Nat := (2 ^ n - 1) * 2 ^ off

/-- Whether bit `i` of a mask is set, as a number. -/
def maskBit (m i : Nat) : Bool := bitOf m i

/-- The bytes of `new` where the mask is set, of `old` elsewhere. -/
def mergeBytes (mask : Nat) (old new : List Byte) : List Byte :=
  (List.range old.length).map fun i => if maskBit mask i then new.getD i 0 else old.getD i 0

/-- Bytes put into a sector at an offset. -/
def sectorPut (d : Sector) (off : Nat) (bs : List Byte) : Sector :=
  sectorOf (mergeBytes (byteMask off bs.length) (sectorBytes d) (zeros off ++ bs))

/-! ## Messages and frames that wait to be sent -/

/-- A routed frame handed to a port: it waits for credit and for the link (R380, R381). -/
def State.queueFrame (s : State) (p : Fin 8) (f : Frame) : State :=
  s.updFport p fun x => { x with waiting := x.waiting ++ [f] }

/-- A source is told that its write is acknowledged (R29, R267, R298). -/
def State.notifyWrite (s : State) (w : Waiter) : State :=
  match w with
  | .none => s
  | .job c _ => s.updJob c fun j => { j with acks := j.acks - 1 }
  | .remote p f => if h : p < 8 then s.queueFrame ⟨p, h⟩ f else s

def State.notifyAll (s : State) (ws : List Waiter) : State := ws.foldl State.notifyWrite s

/-! ## Writing memory -/

/-- What a drain writes into one sector: `mask` and `bytes` of 64, `pois` when the sector is marked lost (R427). -/
structure SectorWrite where
  addr : Nat
  mask : Nat
  bytes : List Byte
  pois : Bool
  deriving DecidableEq, Repr

/-- Write one sector of local memory, and whether the write was discarded: a whole sector clears or sets poison, and a partial
write to a poisoned pool sector is discarded (R294, R427). At a capacity port the expander decides whether a partial write
clears poison (R427): a free value. -/
def State.putSector (s : State) (w : SectorWrite) : State × Bool :=
  let m := s.mem
  let put := fun (s : State) => { s with mem := memPutBytes m w.addr (mergeBytes w.mask (sectorBytes (rawSector m w.addr)) w.bytes) }
  let sec := w.addr / 64
  if w.pois then ({ put s with poison := ninsert s.poison sec }, false)
  else if w.mask = 2 ^ 64 - 1 then ({ put s with poison := nerase s.poison sec }, false)
  else if s.poison.contains sec then
    if w.addr < 2 ^ 40 then (s, true)
    else if s.freeNat % 2 = 0 then (put s.took, false)
    else ({ put s.took with poison := nerase s.poison sec }, false)
  else (put s, false)

/-- The sector writes of an entry: each sector with a valid byte, or marked lost (R297). -/
def WcEntry.writes (e : WcEntry) : List SectorWrite :=
  (List.range 4).filterMap fun k =>
    let mask := bitsOf e.mask.toNat (64 * k + 63) (64 * k)
    let pois := bitOf e.poison.toNat k
    if mask = 0 ∧ pois = false then none
    else some { addr := localOf e.line + 64 * k, mask := mask,
                bytes := leBytes 64 (bitsOf e.data.toNat (512 * k + 511) (512 * k)), pois := pois }

/-- Carry out sector writes; the addresses of those discarded. -/
def State.putSectors (s : State) (ws : List SectorWrite) : State × List Nat :=
  match ws with
  | [] => (s, [])
  | w :: rest =>
    let (s, bad) := s.putSector w
    let (s, more) := s.putSectors rest
    (s, if bad then w.addr :: more else more)

/-! ## Error records (R424, R425) -/

/-- The 64 bytes of an error record (R424). -/
def ErrInfo.bytes (e : ErrInfo) (phase overflow : Bool) (time : Nat) : List Byte :=
  leBytes 2 e.code ++ leBytes 1 e.unit ++ leBytes 1 e.index ++ leBytes 1 e.action ++
    leBytes 1 (bit1 phase + 2 * bit1 overflow) ++ leBytes 2 e.ctx ++ leBytes 8 time ++ leBytes 8 e.addr ++
    leBytes 2 e.table ++ leBytes 2 e.tset ++ leBytes 4 e.gen ++ leBytes 8 e.row ++ leBytes 4 e.count ++
    leBytes 4 e.cmdSeq ++ leBytes 8 e.detail ++ zeros 8

/-- The quadrant whose buffer holds writes to a pool line: that of the channel (R296). -/
def State.wcQuad (s : State) (line : Nat) : Nat := (s.poolMap (localOf line)).1 / 8

/-- Whether an entry stands for a write to a pool channel, which alone passes through a buffer (R296). -/
def isPoolLine (line : Nat) : Bool := decide (localOf line < 2 ^ 40)

/-- The error record of a partial write that a channel discards, or of a write lost with its port: by its local address (R294, R307). -/
def State.lossInfo (s : State) (a : Nat) : ErrInfo :=
  if s.onLostPort a then { code := 0x0009, unit := 4, index := (a - 2 ^ 44) / 2 ^ 41, addr := s.physOf a }
  else { code := 0x0007, unit := 3, index := (s.poolMap a).1, action := 12, addr := s.physOf a }

/-- Whether an entry holds bytes that can still drain: it is issued and has not drained. -/
def WcEntry.waits (e : WcEntry) (line : Nat) : Bool := e.line == line && !e.draining && !e.parked

/-- The entry of a line drains: its bytes reach memory, and its acknowledgement is awaited (R297, R298). A write to a lost capacity port is
lost (R307). Answers the local addresses of discarded partial sectors, or of the lost line. -/
def State.startDrain (s : State) (line : Nat) : State × List Nat :=
  match s.wc.find? (·.waits line) with
  | none => (s, [])
  | some e =>
    let s' := { s with wc := s.wc.map fun x => if x.waits line then { x with draining := true } else x }
    if s.onLostPort (localOf line) then (s', [localOf line])
    else (s'.moved (s.targetOf line) (64 * e.writes.length)).putSectors e.writes

/-- A new or merged entry of a line: later bytes replace earlier ones (R296). -/
def WcEntry.merge (e : WcEntry) (mask : Nat) (data : Nat) (part : Nat) (pois : BitVec 4) (dereg : Bool) (ws : List Waiter) :
    WcEntry :=
  let full := (List.range 256).foldl (fun acc i => if maskBit mask i then acc + 255 * 2 ^ (8 * i) else acc) 0
  let whole := (List.range 4).foldl (fun acc k => if bitsOf mask (64 * k + 63) (64 * k) = 2 ^ 64 - 1 then acc + 2 ^ k else acc) 0
  { e with
    mask := e.mask ||| BitVec.ofNat 256 mask
    data := (e.data &&& ~~~(BitVec.ofNat 2048 full)) ||| (BitVec.ofNat 2048 data &&& BitVec.ofNat 2048 full)
    part := part
    poison := (e.poison &&& ~~~(BitVec.ofNat 4 whole)) ||| pois
    deregister := e.deregister || dereg
    waiters := e.waiters ++ ws }

/-- What is written to one line: a byte mask and bytes, which sectors are lost, who is charged and told, and whose write tag it takes. -/
structure LineWrite where
  line : Nat
  mask : Nat
  data : Nat
  part : Nat := 0
  pois : BitVec 4 := 0
  dereg : Bool := false
  waiters : List Waiter := []
  holder : Option Nat := none
  deriving DecidableEq, Repr

/-- Bytes charged for a write: its sectors, whole (R299). -/
def LineWrite.charge (w : LineWrite) : Nat := 64 * ((List.range 4).filter fun k => bitsOf w.mask (64 * k + 63) (64 * k) ≠ 0).length

/-- A write as it waits, and the write that waits. -/
def WcEntry.ofWrite (w : LineWrite) (t : Nat) : WcEntry :=
  ({ line := w.line, mask := 0, data := 0, born := t, holders := w.holder.toList } : WcEntry).merge w.mask w.data w.part w.pois w.dereg w.waiters
def WcEntry.toWrite (e : WcEntry) : LineWrite :=
  { line := e.line, mask := e.mask.toNat, data := e.data.toNat, part := e.part, pois := e.poison, dereg := e.deregister, waiters := e.waiters
    holder := e.holders.head? }

/-- The bucket of a write (R299). -/
def LineWrite.bucket (w : LineWrite) : Nat := bucketOf (if isPoolLine w.line then .channel 0 else .capacity 0) true

/-- Put a write into the line's entry, or a new one (R296). -/
def State.wcMerge (s : State) (w : LineWrite) : State :=
  let s := s.chargeTo w.part w.bucket w.charge
  if s.wc.any (·.waits w.line) then
    { s with wc := s.wc.map fun e =>
        if e.waits w.line then { (e.merge w.mask w.data w.part w.pois w.dereg w.waiters) with holders := e.holders ++ w.holder.toList } else e }
  else { s with wc := s.wc ++ [WcEntry.ofWrite w s.time] }

/-- Whether the line's entry holds every byte: it drains as one write (R297). -/
def State.wcFull (s : State) (line : Nat) : Bool := s.wc.any fun e => e.waits line && e.mask == BitVec.ofNat 256 (2 ^ 256 - 1)

/-- The oldest entry of a buffer that has not drained. -/
def State.wcOldest (s : State) (q : Nat) : Option WcEntry := s.wc.find? fun e => e.waits e.line && isPoolLine e.line && s.wcQuad e.line == q

/-- Entries taken in the buffer of a quadrant: an entry is free again once its drain has been acknowledged. -/
def State.wcCount (s : State) (q : Nat) : Nat := (s.wc.filter fun e => !e.parked && isPoolLine e.line && s.wcQuad e.line == q).length

/-- While a buffer holds HIGH_WATER entries or more that have not drained, its oldest drains (R297). -/
def State.wcPressure (s : State) (q fuel : Nat) : State × List Nat :=
  match fuel with
  | 0 => (s, [])
  | fuel + 1 =>
    if s.wcHighWater ≤ (s.wc.filter fun e => e.waits e.line && isPoolLine e.line && s.wcQuad e.line == q).length then
      match s.wcOldest q with
      | some e =>
        let (s, bad) := s.startDrain e.line
        let (s, more) := s.wcPressure q fuel
        (s, bad ++ more)
      | none => (s, [])
    else (s, [])

/-- Write tags: 1,024 of each slice, 512 of the projection feeder (R22, R218, R295). -/
def feederHolder : Nat := 16
def writeTags (holder : Nat) : Nat := if holder < 16 then 1024 else 512

/-- Write tags of a holder that are in use: one for each write issued and not acknowledged, to this node's memory or another's (R22, R325). -/
def State.tagsOf (s : State) (holder : Nat) : Nat :=
  ((s.wc.filter fun e => !e.parked).map fun e => e.holders.count holder).sum + (s.fab.remote.filter fun r => r.isWrite && r.holder == some holder).length

/-- Whether a holder has a write tag free; a write of no slice takes none. -/
def State.tagFree (s : State) (holder : Option Nat) : Bool :=
  match holder with
  | some h => decide (s.tagsOf h < writeTags h)
  | none => true

/-- Requests that hold a tag of a target's port: reads in flight and, at a capacity port, writes (R22, R295, R304). -/
def State.targetTags (s : State) (t : Target) : Nat :=
  (s.memReqs.filter (·.target == t)).length +
    (match t with
     | .capacity _ => (s.wc.filter fun e => e.draining && decide (s.targetOf e.line = t)).length
     | _ => 0)

/-- Whether a capacity port takes one more request: its link is up and a tag is free within its limit (R304, R306). -/
def State.portTakes (s : State) (n : Nat) : Bool :=
  if h : n < 8 then decide (s.targetTags (.capacity n) < (s.cap[n]).limit) && (s.cap[n]).st == 1 else false

/-- Whether a request of a partition other than `p` that has the tokens it needs waits for the same target: a stream's next miss, or a write
(R300). -/
def State.richFor (s : State) (p : Nat) (t : Target) : Bool :=
  (s.streams.any fun e =>
    match e.2.issue with
    | q :: _ => decide (s.partOf q.cmdCtx ≠ p) && decide (s.targetOf q.line = t) &&
        s.mayIssue (s.partOf q.cmdCtx) (bucketOf t false) (64 * (q.hi + 1 - q.lo)) true
    | [] => false) ||
  (s.wc.any fun e => e.parked && decide (e.part ≠ p) && decide (s.targetOf e.line = t) &&
    s.mayIssue e.part (bucketOf t true) e.toWrite.charge true)

/-- Whether a write may be issued: its holder has a tag, its partition has the tokens (R300), and its quadrant's buffer has an entry, or its
capacity port a tag (R22, R296, R297, R304). A write to a lost port goes, and is lost (R307). -/
def State.wcMay (s : State) (w : LineWrite) : Bool :=
  s.tagFree w.holder &&
    s.mayIssue w.part w.bucket w.charge (s.richFor w.part (s.targetOf w.line)) &&
    (if isPoolLine w.line then s.wc.any (·.waits w.line) || decide (s.wcCount (s.wcQuad w.line) < 256)
     else
       match s.targetOf w.line with
       | .capacity n => s.onLostPort (localOf w.line) || s.portTakes n
       | _ => true)

/-- A write is issued: it enters the line's entry, with the drain events of R297 that it causes; one to the capacity tier goes to its port
at once (R296, R304). -/
def State.wcEnter (s : State) (w : LineWrite) : State × List Nat :=
  let s := s.wcMerge w
  if isPoolLine w.line = false ∨ s.wcFull w.line = true ∨ s.wcAgeNs = 0 then s.startDrain w.line
  else s.wcPressure (s.wcQuad w.line) 256

/-- Whether an earlier write of a line waits: writes of one line keep their order (R296). -/
def lineParked (es : List WcEntry) (line : Nat) : Bool := es.any fun e => e.parked && e.line == line

/-- A write of bytes of one line on its way to memory: it is issued, or waits (R297, R300). Answers the addresses that `startDrain` does. -/
def State.wcPut (s : State) (w : LineWrite) : State × List Nat :=
  if lineParked s.wc w.line = false ∧ s.wcMay w = true then s.wcEnter w else ({ s with wc := s.wc ++ [{ WcEntry.ofWrite w s.time with parked := true }] }, [])

/-! ## Error records (R424, R425) -/

/-- The domain of a unit, whose copy of the time base its records carry; none for the AON domain (R18, R33, R36). -/
def unitDomain (unit : Nat) : Option Domain :=
  if unit = 2 then some .cache
  else if unit = 3 then some .mem
  else if unit = 4 then some .cap
  else if unit = 5 then some .fab
  else if unit = 7 ∨ unit = 8 then some .ctl
  else if unit = 9 ∨ unit = 11 ∨ unit = 12 then none
  else some .core

/-- The time base as a unit's records give it. -/
def State.unitTime (s : State) (unit : Nat) : Nat := ((unitDomain unit).map s.now).getD s.time

/-- The write of a whole error record to the ring: write-through, as CTX 0 (R424). A ring in a device region is written on the
package port, and one at an undecoded address keeps nothing (R288, R289). -/
def State.recordWrite (s : State) (a : Nat) (bs : List Byte) : State × List Nat :=
  let line := a / 256 * 256
  let off := a % 256
  if s.region (localOf a) = .device then (s.send (.deviceWrite a bs), [])
  else if s.isMemory (localOf a) = false then (s, [])
  else s.wcPut { line := line, mask := byteMask off bs.length, data := leNat bs * 2 ^ (8 * off) }

/-- Whether a record joins an earlier one: its code, unit and address, within 1 ms (R425). -/
def ErrInfo.joins (e : ErrInfo) (t : Nat) (j : ErrJoin) : Bool :=
  j.code == e.code && j.unit == e.unit && j.index == e.index && j.addr == e.addr && decide (t < j.time + 1000000)

/-- The records that later ones may still join, once slot `slot` is written anew. -/
def State.openJoins (s : State) (t slot : Nat) : List ErrJoin := s.err.joins.filter fun j => decide (t < j.time + 1000000) && j.slot != slot

/-- A record of bytes is in slot `slot` of the ring: the tail advances, and the interrupt is raised (R424, R425, R474). -/
def State.recorded (s : State) (e : ErrInfo) (t slot next : Nat) (bytes : List Byte) : State :=
  { s with err := { s.err with
      tail := next
      overflow := false
      phase := if next = 0 then !s.err.phase else s.err.phase
      irq := s.err.irq ||| 1
      joins := s.openJoins t slot ++
        [{ code := e.code, unit := e.unit, index := e.index, addr := e.addr, time := t, slot := slot, count := e.count, bytes := bytes }] } }

/-- Write one error record: joined to one of the same code, unit and address within 1 ms, lost when recording is off or the
ring is full, else written at the tail with the interrupt raised (R424, R425, R474). Answers what its write discards or loses. -/
def State.recordOne (s : State) (e : ErrInfo) : State × List Nat :=
  let t := s.unitTime e.unit
  match s.err.joins.find? (e.joins t) with
  | some j =>
    let n := sat32 (j.count + e.count)
    let bytes := j.bytes.take 40 ++ leBytes 4 n ++ j.bytes.drop 44
    let s := { s with err := { s.err with joins := s.err.joins.map fun x => if x = j then { x with count := n, bytes := bytes } else x } }
    s.recordWrite (s.physOf (s.logBase + 64 * j.slot)) bytes
  | none =>
    let n := 2 ^ s.logLog2
    if s.logEn = false ∨ (s.err.tail + 1) % n = s.logHead % n then
      ({ s with err := { s.err with lost := sat16 (s.err.lost + 1), overflow := true } }.countEngine 24 1, [])
    else
      let slot := s.err.tail
      let bytes := e.bytes s.err.phase s.err.overflow t
      let r := s.recordWrite (s.physOf (s.logBase + 64 * slot)) bytes
      (r.1.recorded e t slot ((slot + 1) % n) bytes, r.2)

/-- Write an error record, and those of the writes that its own write makes drain and that are discarded or lost in turn (R294, R424). Each of
these ends an entry of a buffer, so the chain is no longer than the buffers hold. -/
def State.errorChain (s : State) (e : ErrInfo) (fuel : Nat) : State :=
  let (s, bad) := s.recordOne e
  match fuel with
  | 0 => s
  | fuel + 1 => bad.foldl (fun s a => s.errorChain (s.lossInfo a) fuel) s

/-- Write an error record (R424, R425). -/
def State.errorRecord (s : State) (e : ErrInfo) : State := s.errorChain e (s.wc.length + 1)

/-- The records of partial writes discarded (R294) and of writes lost with their port (R307). -/
def State.lossRecords (s : State) (bad : List Nat) : State := bad.foldl (fun s a => s.errorRecord (s.lossInfo a)) s

/-- Drain the entry of a line (R297), with the records of what is discarded or lost. -/
def State.drain (s : State) (line : Nat) : State :=
  let (s, bad) := s.startDrain line
  s.lossRecords bad

/-- A write of bytes of one line on its way to memory, with the records of what its drains discard or lose. -/
def State.wcWrite (s : State) (w : LineWrite) : State :=
  let (s, bad) := s.wcPut w
  s.lossRecords bad

/-- Writes that waited are issued, the oldest first, where they now may (R297, R300). -/
def State.unpark (s : State) (es : List WcEntry) : State :=
  match es with
  | [] => s
  | e :: rest =>
    let t := { s with wc := s.wc.erase e }
    if lineParked (s.wc.takeWhile fun x => decide (x ≠ e)) e.line = false ∧ t.wcMay e.toWrite = true then
      let (u, bad) := t.wcEnter e.toWrite
      (u.lossRecords bad).unpark rest
    else s.unpark rest

/-- Every write that waits is tried again. -/
def State.unparkAll (s : State) : State := s.unpark (s.wc.filter (·.parked))

/-- Bytes of one line on their way to memory. -/
def State.wcBytes (s : State) (pa : Nat) (bs : List Byte) (part : Nat) (ws : List Waiter) (holder : Option Nat := none) : State :=
  let off := pa % 256
  s.wcWrite { line := pa / 256 * 256, mask := byteMask off bs.length, data := leNat bs * 2 ^ (8 * off), part := part, waiters := ws, holder := holder }

/-- A sector as an entry that has not drained leaves it (R296, R427). -/
def WcEntry.over (e : WcEntry) (k : Nat) (d : Option Sector) : Option Sector :=
  let mask := bitsOf e.mask.toNat (64 * k + 63) (64 * k)
  let new := leBytes 64 (bitsOf e.data.toNat (512 * k + 511) (512 * k))
  if bitOf e.poison.toNat k then none
  else if mask = 0 then d
  else if mask = 2 ^ 64 - 1 then some (sectorOf new)
  else d.map fun d => sectorOf (mergeBytes mask (sectorBytes d) new)

/-- The sector at a local address as memory and the writes on their way to it hold it: none when it is lost (R427). -/
def State.memSector (s : State) (a : Nat) : Option Sector :=
  let line := s.physOf (a / 256 * 256)
  let base := if s.poison.contains (a / 64) then none else some (rawSector s.mem a)
  (s.wc.filter fun e => e.line == line && !e.draining).foldl (fun d e => e.over (a % 256 / 64) d) base

end Sys2Proof.Machine
end

