-- ==== Sys2Proof/Machine/Cache.lean ====
section
/-! DEFINITION. The row cache: sets, banks and tags (R251 to R254), lookup and replacement (R255, R261 to R263), write attributes
(R265 to R267), mirrors (R273, R274), and the coherent view of memory. -/

namespace Sys2Proof.Machine

/-! ## Sets, banks, tags (R252, R253) -/

/-- The line number of a local address (R252). -/
def lineNo (a : Nat) : Nat := localOf a / 256

/-- The set and the tag of a line number (R252). -/
def tagOf (l : Nat) : Nat := l / 2 ^ 21 % 2 ^ 21
def setOf (l : Nat) : Nat := Nat.xor (l % 2 ^ 21) (tagOf l)

/-- The line number that a set and a tag name (R252). -/
def lineFrom (set tag : Nat) : Nat := tag * 2 ^ 21 + Nat.xor set tag

/-- The bank group of a set (R253). -/
def groupOf (set : Nat) : Nat :=
  Nat.xor (Nat.xor (Nat.xor (bitsOf set 3 0) (bitsOf set 11 8)) (bitsOf set 19 16)) (bit1 (bitOf set 20) * 8)

/-- The bank of a way of a set (R253). -/
def bankOf (set way : Nat) : Nat := 4 * groupOf set + way / 4

/-- The mirror set (R253). -/
def mirrorSet (set : Nat) : Nat := Nat.xor set 0x100000

/-- A way as the state holds it; the default is invalid. -/
def State.way (s : State) (set w : Nat) : Way := sget {} s.rc.ways (16 * set + w)
def State.setWay (s : State) (set w : Nat) (x : Way) : State :=
  { s with rc := { s.rc with ways := sput {} s.rc.ways (16 * set + w) x } }

/-- Whether a way is disabled by map-out (R277). -/
def State.wayOut (s : State) (set w : Nat) : Bool := bitOf s.rc.out.toNat (bankOf set w)

/-- The sixteen ways. -/
def ways16 : List Nat := [0, 1, 2, 3, 4, 5, 6, 7, 8, 9, 10, 11, 12, 13, 14, 15]

/-- A way with SV = 0 and MIR = 0 is invalid (R254); one reserved by a fill is locked, not free. -/
def Way.invalid (x : Way) : Bool := !x.mir && x.sv == 0 && !x.lock

/-- The primary way that holds a line, whatever its class (R255). -/
def State.lookup (s : State) (a : Nat) : Option Nat :=
  let set := setOf (lineNo a)
  ways16.find? fun w =>
    let x := s.way set w
    !x.mir && !x.invalid && x.tag == tagOf (lineNo a)

/-- The way of `m(s)` that mirrors a primary way (R273). -/
def State.mirrorOf (s : State) (set w : Nat) : Option Nat :=
  ways16.find? fun m =>
    let x := s.way (mirrorSet set) m
    x.mir && x.pway == w && x.tag == (s.way set w).tag

/-- Sector data of a way. -/
def Way.sector (x : Way) (k : Nat) : Sector := x.data.getD k 0
def Way.putSector (x : Way) (k : Nat) (d : Sector) : Way := { x with data := x.data.setIfInBounds k d }

/-! ## Replacement (R261 to R263) -/

/-- Point the tree away from the path to leaf `n` (R262). -/
def plruTouch (p n fuel : Nat) : Nat :=
  match fuel with
  | 0 => p
  | fuel + 1 =>
    if n ≤ 1 then p
    else
      let parent := n / 2
      let b := if n = 2 * parent then 1 else 0
      let cleared := p - bit1 (bitOf p (parent - 1)) * 2 ^ (parent - 1)
      plruTouch (cleared + b * 2 ^ (parent - 1)) parent fuel

/-- Whether a leaf below node `n` is an allowed way (R262). -/
def hasAllowed (n allowed : Nat) : Bool :=
  ways16.any fun w => bitOf allowed w && ((16 + w == n) || ((16 + w) / 2 == n) || ((16 + w) / 4 == n) || ((16 + w) / 8 == n))

/-- The victim of tree pseudo-LRU from node `n` (R262). -/
def plruVictim (p allowed n fuel : Nat) : Nat :=
  match fuel with
  | 0 => n - 16
  | fuel + 1 =>
    if 16 ≤ n then n - 16
    else
      let pref := 2 * n + bit1 (bitOf p (n - 1))
      plruVictim p allowed (if hasAllowed pref allowed then pref else Nat.xor pref 1) fuel

/-- One step of a group's LFSR (R263). -/
def lfsrStep (x : Nat) : Nat := if x % 2 = 1 then Nat.xor (x / 2) 0x80200003 else x / 2

/-- The first allowed way at or after `c`, cyclically (R263). -/
def lfsrPick (c allowed fuel : Nat) : Nat :=
  match fuel with
  | 0 => c
  | fuel + 1 => if bitOf allowed c then c else lfsrPick ((c + 1) % 16) allowed fuel

/-- The way is touched in its set's tree, in both modes (R262). -/
def State.touch (s : State) (set w : Nat) : State :=
  let p := (sget 0 s.rc.plru set).toNat
  { s with rc := { s.rc with plru := sput 0 s.rc.plru set (BitVec.ofNat 16 (plruTouch p (16 + w) 5)) } }

/-- The way chosen among `allowed` (not empty) by the replacement mode (R262, R263). -/
def State.replace (s : State) (set allowed : Nat) : State × Nat :=
  if s.replLfsr then
    let g := groupOf set
    if h : g < 16 then
      let x := lfsrStep (s.rc.lfsr[g]).toNat
      ({ s with rc := { s.rc with lfsr := s.rc.lfsr.set g (BitVec.ofNat 32 x) } }, lfsrPick (x % 16) allowed 16)
    else (s, 0)
  else (s, plruVictim (sget 0 s.rc.plru set).toNat allowed 1 4)

/-- The mask of the ways that satisfy a test. -/
def wayMask (f : Nat → Bool) : Nat := ways16.foldl (fun acc w => if f w then acc + 2 ^ w else acc) 0

/-- The candidates of a miss: allowed, enabled, not locked, no mirror line (R261). -/
def State.candidates (s : State) (set mask : Nat) : Nat :=
  wayMask fun w => bitOf mask w && !s.wayOut set w && !(s.way set w).lock && !(s.way set w).mir

/-- The victim of a miss (R261): the lowest invalid candidate, else by the replacement mode; none when there is none. -/
def State.victim (s : State) (set mask : Nat) : State × Option Nat :=
  let c := s.candidates set mask
  if c = 0 then (s, none)
  else
    match ways16.find? (fun w => bitOf c w && (s.way set w).invalid) with
    | some w => (s, some w)
    | none =>
      let (s, w) := s.replace set c
      (s, some w)

/-- Whether a class has no allowed way that is in service in a set: the access is no-allocate (R259). -/
def State.noWays (s : State) (set mask : Nat) : Bool := wayMask (fun w => bitOf mask w && !s.wayOut set w) == 0

/-! ## Cleaning and eviction (R257, R268, R273) -/

/-- The acknowledgement of the oldest drained entry of a line: its sources are told; a line that has become clean is deregistered once nothing
of it is on its way and it has not been registered again; and the writes that waited for its tag or entry go on (R22, R268, R297, R298). -/
def State.wcAck (s : State) (line : Nat) : State :=
  match s.wc.find? (fun e => e.line == line && e.draining) with
  | none => s
  | some e =>
    let s := ({ s with wc := s.wc.erase e }).notifyAll e.waiters
    let held := match s.lookup (localOf line) with
      | some w => (s.way (setOf (lineNo line)) w).reg
      | none => false
    let s := if e.deregister && !held && !(s.wc.any fun x => x.line == line && x.deregister) then s.send (.deregister line) else s
    s.unparkAll

/-- The writes of a line that wait are issued whatever tokens, tags and entries are free, for a step that may not go on before them (log entry
94). -/
def State.forceLine (s : State) (line : Nat) : State :=
  (s.wc.filter fun e => e.parked && e.line == line).foldl (fun s e => ({ s with wc := s.wc.erase e } : State).wcMerge e.toWrite) s

/-- What is on its way to memory of a line gets there, and is acknowledged, before a read of the line within the same step (R297, R298). -/
def State.settleLine (s : State) (line : Nat) : State :=
  let s := if s.wc.any (·.waits line) then s.drain line else s
  foldN ((s.wc.filter fun e => e.line == line && e.draining).length) s fun s _ => s.wcAck line

/-- Free a mirror line. -/
def State.freeMirror (s : State) (set w : Nat) : State :=
  match s.mirrorOf set w with
  | some m => s.setWay (mirrorSet set) m {}
  | none => s

/-- The dirty sectors of a way go to the write-combining buffer; the line becomes clean, its mirror is freed, and an OWN line
is deregistered once its drain is acknowledged (R257, R268, R273, R298). -/
def State.cleanWay (s : State) (set w part : Nat) : State :=
  let x := s.way set w
  if x.mir ∨ x.sd = 0 then s
  else
    let line := s.physOf (lineFrom set x.tag * 256)
    let mask := (List.range 4).foldl (fun acc k => if bitOf x.sd.toNat k then acc + (2 ^ 64 - 1) * 2 ^ (64 * k) else acc) 0
    let data := (List.range 4).foldl (fun acc k => acc + (x.sector k).toNat * 2 ^ (512 * k)) 0
    let s := s.freeMirror set w
    let s := s.setWay set w { x with sd := 0, reg := x.reg && x.shared }
    s.wcWrite { line := line, mask := mask, data := data, part := part, dereg := x.reg && !x.shared }

/-- A way is emptied: dirty data is cleaned first; a SHARED line is deregistered at eviction (R257, R268). -/
def State.evict (s : State) (set w part : Nat) : State :=
  let s := s.cleanWay set w part
  let x := s.way set w
  let s := if !x.mir && x.reg then s.send (.deregister (s.physOf (lineFrom set x.tag * 256))) else s
  s.setWay set w {}

/-! ## Mirrors (R273, R274) -/

/-- The primary of a mirror line is cleaned by writing its dirty sectors to memory (R274). -/
def State.cleanPrimaryOf (s : State) (set m part : Nat) : State :=
  s.cleanWay (mirrorSet set) (s.way set m).pway part

/-- Choose a way for a mirror line in set `set` by the preferences of R274, and empty it. -/
def State.mirrorPlace (s : State) (set part : Nat) : State × Option Nat :=
  let c := wayMask fun w => bitOf s.mirrorMask w && !s.wayOut set w && !(s.way set w).lock
  let inv := wayMask fun w => bitOf c w && (s.way set w).invalid
  let cl := wayMask fun w => bitOf c w && !(s.way set w).mir && !(s.way set w).invalid && (s.way set w).sd == 0
  let mi := wayMask fun w => bitOf c w && (s.way set w).mir
  let di := wayMask fun w => bitOf c w && !(s.way set w).mir && (s.way set w).sd != 0
  if inv ≠ 0 then
    let (s, w) := s.replace set inv
    (s, some w)
  else if cl ≠ 0 then
    let (s, w) := s.replace set cl
    (s.evict set w part, some w)
  else if mi ≠ 0 then
    let (s, w) := s.replace set mi
    ((s.cleanPrimaryOf set w part).setWay set w {}, some w)
  else if di ≠ 0 then
    let (s, w) := s.replace set di
    (s.evict set w part, some w)
  else (s, none)

/-- The mirror of a primary way holds copies of its dirty sectors: created, or updated, each a write to a line of its set (R262, R273). A
primary with no place for a mirror is cleaned at once (log entry 9); a mirror in a bank that is out gives way to a new one (R277). -/
def State.mirrorWay (s : State) (set w part : Nat) : State :=
  let x := s.way set w
  let copy : Way := { cls := x.cls, pway := w, mir := true, sd := x.sd, sv := x.sd, tag := x.tag, data := x.data }
  let held := (s.mirrorOf set w).filter fun m => !s.wayOut (mirrorSet set) m
  match held with
  | some m => (s.setWay (mirrorSet set) m copy).touch (mirrorSet set) m
  | none =>
    let s := s.freeMirror set w
    let (s, place) := s.mirrorPlace (mirrorSet set) part
    match place with
    | some m => (s.setWay (mirrorSet set) m copy).touch (mirrorSet set) m
    | none => s.cleanWay set w part

/-! ## The coherent view of memory -/

/-- A sector as a write leaves it that waits for a way of its set: it comes before any later read of the line (R257, R266). -/
def Blocked.over (b : Blocked) (a : Nat) (d : Option Sector) : Option Sector :=
  match b with
  | .alloc _ _ _ => d
  | .write pa bs _ =>
    let off := localOf pa
    let lo := max off a
    let hi := min (off + bs.length) (a + 64)
    if lo < hi then
      let part := (bs.drop (lo - off)).take (hi - lo)
      if hi - lo = 64 then some (sectorOf part) else d.map fun d => sectorPut d (lo - a) part
    else d

/-- Whether a write to a line waits (R257). -/
def Blocked.holds (b : Blocked) (line : Nat) : Bool :=
  match b with
  | .alloc _ _ _ => false
  | .write pa _ _ => pa / 256 == line

/-- The sector at a physical address of this engine as a read sees it: the row cache, then the write-combining buffers, then
memory, with the writes that wait at the set; none when its data is lost (R255, R257, R298, R427). -/
def State.viewSector (s : State) (pa : Nat) : Option Sector :=
  let a := localOf pa / 64 * 64
  let held := match s.lookup a with
    | some w =>
      let x := s.way (setOf (lineNo a)) w
      if bitOf x.sv.toNat (a % 256 / 64) then some (x.sector (a % 256 / 64)) else s.memSector a
    | none => s.memSector a
  s.rc.blocked.foldl (fun d b => b.over a d) held

/-- Consecutive sectors as bytes, `n` of them from a sector address. -/
def State.viewSectors (s : State) (pa n : Nat) : Option (List Byte) :=
  match n with
  | 0 => some []
  | n + 1 =>
    match s.viewSector pa, s.viewSectors (pa + 64) n with
    | some d, some rest => some (sectorBytes d ++ rest)
    | _, _ => none

/-- `n` bytes at a physical address of this engine, as a read sees them. -/
def State.view (s : State) (pa n : Nat) : Option (List Byte) :=
  if n = 0 then some []
  else (s.viewSectors (pa / 64 * 64) ((pa % 64 + n + 63) / 64)).map fun bs => (bs.drop (pa % 64)).take n

/-- A little-endian number at a physical address. -/
def State.viewNat (s : State) (pa n : Nat) : Option Nat := (s.view pa n).map leNat

/-! ## Accesses -/

/-- The engine's own write-through accesses as CTX 0 (R424, R208). -/
def Access.firmware : Access := { wattr := 1 }

/-- Reserve and fill a way for a read miss in one step: the victim is emptied and the sectors of `mask` that are sound are
read from memory (R256, R257, R265, R268). While every allowed way is locked, the allocation waits (R257). -/
def State.allocRead (s : State) (pa mask : Nat) (acc : Access) : State :=
  let a := localOf pa
  let set := setOf (lineNo a)
  let cm := s.classMask acc.cls
  if s.noWays set cm then s
  else
    let (s, v) := s.victim set cm
    match v with
    | none => { s with rc := { s.rc with blocked := s.rc.blocked ++ [.alloc pa mask acc] } }
    | some w =>
      let s := s.evict set w acc.part
      let line := a / 256 * 256
      let got := (List.range 4).foldl (fun x k =>
          if bitOf mask k then
            match s.memSector (line + 64 * k) with
            | some d => { (Way.putSector x k d) with sv := x.sv ||| BitVec.ofNat 4 (2 ^ k) }
            | none => x
          else x) ({ cls := acc.cls, tag := tagOf (lineNo a), shared := acc.shared, reg := acc.shared } : Way)
      if got.sv = 0 then s
      else
        let s := (s.setWay set w got).touch set w
        if acc.shared then s.send (.register (s.physOf line)) else s

/-- Bytes of a line read from memory within a step: what is on its way there gets there first, and the bytes are charged and counted (R297,
R298, R299, R442). -/
def State.readMem (s : State) (pa n part : Nat) : State :=
  let s := s.settleLine (s.physOf (localOf pa / 256 * 256))
  (s.chargeTo part (bucketOf (s.targetOf pa) false) n).moved (s.targetOf pa) n

/-- The missing sectors of `mask` are read into a way that holds the line, unless map-out has disabled it (R255, R277). -/
def State.fillMissing (s : State) (set w line mask : Nat) : State :=
  if s.wayOut set w then s
  else
    s.setWay set w ((List.range 4).foldl (fun x k =>
      if bitOf mask k && !bitOf x.sv.toNat k then
        match s.memSector (line + 64 * k) with
        | some d => { (Way.putSector x k d) with sv := x.sv ||| BitVec.ofNat 4 (2 ^ k) }
        | none => x
      else x) (s.way set w))

/-- The effect of a read of the sectors of `mask` of one line on the cache: a hit touches its way, a sector miss fills the
missing sectors, a miss allocates unless the access is no-allocate; an access of a class with no way in service in the set is counted
(R255, R259, R265). -/
def State.noteRead (s : State) (pa mask : Nat) (acc : Access) : State :=
  let a := localOf pa
  let set := setOf (lineNo a)
  let s := if s.noWays set (s.classMask acc.cls) then s.countEngine acc.cls 1 else s
  match s.lookup a with
  | some w =>
    let missed := popCount mask 4 - popCount (Nat.land mask (s.way set w).sv.toNat) 4
    let s := if missed = 0 then s else (s.readMem pa (64 * missed) acc.part).fillMissing set w (a / 256 * 256) mask
    (s.touch set w).unitWork (20 + groupOf set) (popCount mask 4)
  | none =>
    let s := s.readMem pa (64 * popCount mask 4) acc.part
    if acc.wattr = 2 then s else s.allocRead pa mask acc

/-- The lines of a byte range with the sectors it needs. -/
def linesOf (pa n : Nat) : List (Nat × Nat) :=
  if n = 0 then []
  else (List.range ((pa % 256 + n + 255) / 256)).map fun i =>
    let line := pa / 256 * 256 + 256 * i
    let lo := if pa ≤ line then 0 else (pa - line) / 64
    let hi := if line + 256 ≤ pa + n then 3 else (pa + n - 1 - line) / 64
    (line, ((List.range 4).filter fun k => decide (lo ≤ k) && decide (k ≤ hi)).foldl (fun acc k => acc + 2 ^ k) 0)

/-- The record of an uncorrectable read of local memory (R426; log entry 60). -/
def State.readError (s : State) (e : ErrInfo) (pa : Nat) : State :=
  if localOf pa < 2 ^ 40 then s.errorRecord { e with code := 0x0007, unit := 3, index := (s.poolMap (localOf pa)).1, addr := pa }
  else s.errorRecord { e with code := 0x0008, unit := 4, index := (localOf pa - 2 ^ 44) / 2 ^ 40 / 2, addr := pa }

/-- The sectors of a byte range whose data is lost. -/
def State.lostSectors (s : State) (pa n : Nat) : List Nat :=
  ((List.range ((pa % 64 + n + 63) / 64)).map fun i => pa / 64 * 64 + 64 * i).filter fun a => (s.viewSector a).isNone

/-- A read through the row cache: the bytes seen, the cache's own changes, and the record of each sector that is lost (R426). -/
def State.load (s : State) (pa n : Nat) (acc : Access) : State × Option (List Byte) :=
  let r := s.view pa n
  let t := (linesOf pa n).foldl (fun s l => s.noteRead l.1 l.2 acc) s
  match r with
  | some _ => (t, r)
  | none => ((s.lostSectors pa n).foldl (fun s a => s.readError { acc.ue with ctx := acc.ctx } a) t, none)

/-- Write bytes into the present copy of a line: valid sectors only; a dirty line's mirror follows (R265, R273). -/
def State.updatePresent (s : State) (a : Nat) (bs : List Byte) (part : Nat) : State :=
  let set := setOf (lineNo a)
  match s.lookup a with
  | none => s
  | some w =>
    let x := s.way set w
    let off := a % 256
    let x' := (List.range 4).foldl (fun x k =>
        if bitOf x.sv.toNat k then
          let lo := max off (64 * k)
          let hi := min (off + bs.length) (64 * k + 64)
          if lo < hi then x.putSector k (sectorPut (x.sector k) (lo - 64 * k) ((bs.drop (lo - off)).take (hi - lo))) else x
        else x) x
    let s := (s.setWay set w x').touch set w
    if x'.sd ≠ 0 then s.mirrorWay set w part else s

/-- A write-through or no-allocate write of bytes within one line: the present line is updated and the write goes to memory,
which acknowledges it (R265). -/
def State.writeThrough (s : State) (pa : Nat) (bs : List Byte) (acc : Access) : State :=
  (s.updatePresent (localOf pa) bs acc.part).wcBytes pa bs acc.part [acc.waiter] acc.holder

/-- Sectors of `x` touched by bytes at `off`: written whole or merged with what the sector held, each made valid and dirty. A partial sector
that cannot be filled takes nothing, and the answer says that bytes were not merged (R266, R427). -/
def State.mergeInto (s : State) (x : Way) (line off : Nat) (bs : List Byte) (ks : List Nat) : Way × Bool :=
  match ks with
  | [] => (x, true)
  | k :: rest =>
    let lo := max off (64 * k)
    let hi := min (off + bs.length) (64 * k + 64)
    if lo < hi then
      let part := (bs.drop (lo - off)).take (hi - lo)
      let old := if bitOf x.sv.toNat k then some (x.sector k) else if hi - lo = 64 then some 0 else s.memSector (line + 64 * k)
      match old with
      | none => ((s.mergeInto x line off bs rest).1, false)
      | some d =>
        let x := x.putSector k (sectorPut d (lo - 64 * k) part)
        s.mergeInto { x with sv := x.sv ||| BitVec.ofNat 4 (2 ^ k), sd := x.sd ||| BitVec.ofNat 4 (2 ^ k) } line off bs rest
    else s.mergeInto x line off bs rest

/-- The partial sectors that a write of bytes at `off` must first fill: a mask (R266). -/
def fillsFor (x : Way) (off n : Nat) : Nat :=
  ([0, 1, 2, 3] : List Nat).foldl (fun acc k =>
    let lo := max off (64 * k)
    let hi := min (off + n) (64 * k + 64)
    if lo < hi ∧ hi - lo < 64 ∧ bitOf x.sv.toNat k = false then acc + 2 ^ k else acc) 0

/-- Who waits for a write is told now, or once its line's registration has been accepted (R267). -/
def State.tellWriter (s : State) (line : Nat) (w : Waiter) : State :=
  if s.rc.regs.any (fun r => r.line == line) then
    { s with rc := { s.rc with regs := s.rc.regs.map fun r => if r.line == line then { r with waiters := r.waiters ++ [w] } else r } }
  else s.notifyWrite w

/-- A line that is dirty for the first time is registered (R267, R268). -/
def State.registerWay (s : State) (set w line : Nat) : State :=
  let x := s.way set w
  if x.sd ≠ 0 ∧ x.reg = false then
    let s := (s.setWay set w { x with reg := true }).send (.register line)
    { s with rc := { s.rc with regs := s.rc.regs ++ [{ line := line, waiters := [] }] } }
  else s

/-- Bytes are merged into a way that holds a line, or has been chosen for it: the sectors become valid and dirty, the mirror follows, and a line
dirty for the first time is registered before its source is told (R266 to R268, R273). In a way that map-out has disabled the write goes on
to memory too (R277). -/
def State.writeWay (s : State) (set w : Nat) (pa : Nat) (bs : List Byte) (acc : Access) : State × Bool :=
  let line := s.physOf (localOf pa / 256 * 256)
  let x := s.way set w
  let need := fillsFor x (pa % 256) bs.length
  let s := if need = 0 then s else s.readMem pa (64 * popCount need 4) acc.part
  let (x', ok) := s.mergeInto x (localOf pa / 256 * 256) (pa % 256) bs [0, 1, 2, 3]
  if x'.sv = 0 then ((s.setWay set w {}).tellWriter line acc.waiter, ok)
  else
    let s := ((s.setWay set w { x' with lock := false }).touch set w).mirrorWay set w acc.part
    let s := if s.wayOut set w then s.wcBytes pa bs acc.part [] acc.holder else s
    ((s.registerWay set w line).tellWriter line acc.waiter, ok)

/-- An access waits behind those that wait already (R257). -/
def State.block (s : State) (b : Blocked) : State := { s with rc := { s.rc with blocked := s.rc.blocked ++ [b] } }

/-- Whether a fill into a way is pending for a line (R257). -/
def State.fillPending (s : State) (line : Nat) : Bool := s.rc.fills.any fun f => f.line == line && f.way.isSome

/-- Whether an access to a line comes after one that waits: operations on one line are applied in their order (R257). -/
def State.lineBlocked (s : State) (pa : Nat) : Bool := s.rc.blocked.any (·.holds (pa / 256))

/-- A write-back write of bytes within one line (R265 to R268, R273): the line is allocated if it is absent, and its bytes are merged. A class
with no way in service in the set writes it as no-allocate (R259); while every allowed way is locked, the write waits (R257). Answers whether
every byte was merged (R427). -/
def State.writeBack (s : State) (pa : Nat) (bs : List Byte) (acc : Access) : State × Bool :=
  let a := localOf pa
  let set := setOf (lineNo a)
  let cm := s.classMask acc.cls
  if s.noWays set cm then ((s.countEngine acc.cls 1).writeThrough pa bs acc, true)
  else
    match s.lookup a with
    | some w => s.writeWay set w pa bs acc
    | none =>
      let (s, v) := s.victim set cm
      match v with
      | some w =>
        ((s.evict set w acc.part).setWay set w { cls := acc.cls, tag := tagOf (lineNo a), shared := acc.shared, lock := true }).writeWay set w pa bs acc
      | none => (s.block (.write pa bs acc), true)

/-- A write of bytes within one line by its segment's attribute; a SHARED line's WB is treated as WT. A write to a way with a pending fill
waits for the fill to end (R257, R265, R268). -/
def State.storeLine (s : State) (pa : Nat) (bs : List Byte) (acc : Access) : State × Bool :=
  if s.fillPending (pa / 256 * 256) ∨ s.lineBlocked pa then (s.block (.write pa bs acc), true)
  else if acc.wattr = 0 ∧ acc.shared = false then s.writeBack pa bs acc
  else (s.writeThrough pa bs acc, true)

/-- Accesses that waited for a way are tried again in their order, once each (R257). -/
def State.retryBlocked (s : State) (bs : List Blocked) : State :=
  match bs with
  | [] => s
  | .write pa b acc :: rest => (s.storeLine pa b acc).1.retryBlocked rest
  | .alloc pa mask acc :: rest => ((if (s.lookup (localOf pa)).isSome then s else s.allocRead pa mask acc)).retryBlocked rest

/-- A way has been unlocked: what waited for one goes on. -/
def State.wayFreed (s : State) : State :=
  if s.rc.blocked = [] then s else ({ s with rc := { s.rc with blocked := [] } } : State).retryBlocked s.rc.blocked

/-- A byte range cut at line boundaries. -/
def splitLines (pa : Nat) (bs : List Byte) (fuel : Nat) : List (Nat × List Byte) :=
  match fuel with
  | 0 => []
  | fuel + 1 =>
    if bs = [] then []
    else
      let n := 256 - pa % 256
      (pa, bs.take n) :: splitLines (pa + n) (bs.drop n) fuel

/-- The pieces of a write, one per line. -/
def pieces (pa : Nat) (bs : List Byte) : List (Nat × List Byte) := splitLines pa bs (bs.length / 256 + 2)

/-- Write bytes at a physical address of this engine through the row cache. -/
def State.store (s : State) (pa : Nat) (bs : List Byte) (acc : Access) : State × Bool :=
  (pieces pa bs).foldl (fun r p =>
    let (s, ok) := r.1.storeLine p.1 p.2 acc
    (s, r.2 && ok)) (s, true)

/-- A write of CTX 0 to an undecoded address is answered with an error, and recorded (R289, R426). -/
def State.undecoded (s : State) (pa : Nat) : State := s.errorRecord { code := 0x0017, addr := pa }

/-- Write the engine's own structure as CTX 0, write-through; a write to a device region leaves on the package port (R208, R288, R289, R424). -/
def State.storeFirmware (s : State) (pa : Nat) (bs : List Byte) : State :=
  match s.region (localOf pa) with
  | .device => s.send (.deviceWrite pa bs)
  | .undecoded => s.undecoded pa
  | _ => (s.store pa bs Access.firmware).1

/-- Read the engine's own structure as CTX 0: what a device answers is free (log entry 96), and a read of an undecoded address is answered with
an error, and recorded (R288, R289). -/
def State.loadFirmware (s : State) (pa n : Nat) (acc : Access) : State × Option (List Byte) :=
  match s.region (localOf pa) with
  | .device => ({ s with fresh := s.fresh + n }, some (openBytes s.fresh n))
  | .undecoded => (s.undecoded pa, none)
  | _ => s.load pa n acc

/-- Mark sectors of local memory lost (R427): whole-sector poisoned writes; `dereg` when their line has become clean (R268). -/
def State.poisonSector (s : State) (a : Nat) (dereg : Bool := false) : State :=
  s.wcWrite { line := s.physOf (a / 256 * 256), mask := 0, data := 0, pois := BitVec.ofNat 4 (2 ^ (a % 256 / 64)), dereg := dereg }

end Sys2Proof.Machine
end

