-- ==== Sys2Proof/Machine/Waits.lean ====
section
/-! DEFINITION. The grant check (R309), the wait table and the trace ring (R450 to R454). -/

namespace Sys2Proof.Machine

/-- The port that serves a local address, by the number of its grant cache: 32 + n for capacity port n (R309). -/
def State.grantPort (s : State) (a : Nat) : Nat :=
  match s.targetOf (s.physOf a) with
  | .channel n => n
  | .capacity n => 32 + n
  | .remote _ => 0

/-- The entry of a local address that its port has cached (R309). -/
def State.grantHit (s : State) (a : Nat) : Option Nat :=
  ((sget [] s.grantCache (s.grantPort a)).find? fun e => e.1 == grantIndex a).map (·.2)

/-- The address of a grant entry (R308). -/
def State.grantAt (s : State) (a : Nat) : Nat := s.physOf (s.grantBase + 4 * grantIndex a)

/-- The grant entry of a local address, as its port has it or reads it: none when it cannot be read (R308, R309, R430). -/
def State.grantEntry (s : State) (a : Nat) : Option Nat :=
  match s.grantHit a with
  | some e => some e
  | none => if s.isMemory (localOf (s.grantAt a)) then s.viewNat (s.grantAt a) 4 else none

/-- The access of a port to the grant table: CTX 0's, class WALK (R258, R309). -/
def grantAccess : Access := { cls := 1, wattr := 1, ue := { code := 0x0007, action := 13 } }

/-- A port that misses the grant entry of an address reads it through the row cache and keeps it; a full cache replaces an entry chosen freely
(R309; log entry 5). A table at an undecoded address is answered with an error (R289). -/
def State.fetchGrant (s : State) (ctx a : Nat) : State :=
  if ctx = 0 ∨ (s.grantHit a).isSome = true then s
  else if s.isMemory (localOf (s.grantAt a)) = false then s.undecoded (s.grantAt a)
  else
    match s.viewNat (s.grantAt a) 4 with
    | none => s
    | some e =>
      let s := s.noteRead (s.grantAt a) (2 ^ (s.grantAt a % 256 / 64)) grantAccess
      let l := sget [] s.grantCache (s.grantPort a)
      let l := if l.length < 4096 then l ++ [(grantIndex a, e)] else l.set (s.freeNat % 4096) (grantIndex a, e)
      { s.took with grantCache := sput [] s.grantCache (s.grantPort a) l }

/-- Plinth invalidates the grant caches of all ports, before it replies to a change of the table (R309). -/
def State.dropGrants (s : State) : State := { s with grantCache := [] }

/-- The memory-side check of an access to local memory (R309). -/
def State.granted (s : State) (ctx a : Nat) (write : Bool) : Bool :=
  ctx == 0 ||
    match s.grantEntry a with
    | some e => grantAllows e ctx (s.groupsOf ctx) write
    | none => false

/-- Plinth rewrites an unreadable part of the grant table from its own copy: the sector that holds the entry of `a` (R430). -/
def State.repairGrant (s : State) (a : Nat) : State :=
  if s.grantEntry a = none then
    let i := grantIndex a / 16 * 16
    let bs := ((List.range 16).map fun k => leBytes 4 (sget 0 s.grants (i + k))).flatten
    let s := s.readError { code := 0x0007, action := 13 } (s.physOf (s.grantBase + 4 * i))
    (s.storeFirmware (s.physOf (s.grantBase + 4 * i)) bs).dropGrants
  else s

/-- A request refused by the memory-side check does not reach memory and is counted for its context; Plinth rewrites an entry that cannot be
read (R309, R430, R446). -/
def State.denied (s : State) (ctx a : Nat) : State := (s.repairGrant a).countCtx ctx 11 1

/-- A number not in use below `n`, chosen freely (log entry 5). -/
def State.freePick (s : State) (used : List Nat) (n : Nat) : State × Option Nat :=
  let unused := (List.range n).filter fun i => !used.contains i
  match unused with
  | [] => (s, none)
  | x :: _ => (s.took, some (unused.getD (s.freeNat % unused.length) x))

/-! ## The trace ring -/

/-- The 64 bytes of a trace record (R452). -/
def traceBytes (w : Wait) (phase timeout : Bool) (dur : Nat) : List Byte :=
  leBytes 1 w.typ ++ leBytes 1 (bit1 phase + 2 * bit1 timeout) ++ zeros 6 ++ leBytes 8 w.start ++ leBytes 8 dur ++
    leBytes 8 w.waiter ++ leBytes 8 w.holder ++ leBytes 8 w.object ++ leBytes 8 w.detail ++ zeros 8

/-- The slots of the trace ring. -/
def State.traceSize (s : State) : Nat := 2 ^ s.trace.log2

/-- Whether the ring has no free slot: the tail is one slot behind the head (R454; log entry 10). -/
def State.traceFull (s : State) : Bool := (s.trace.tail + 1) % s.traceSize == s.trace.head % s.traceSize

/-- A record is dropped and counted (R451, R454). -/
def State.traceDrop (s : State) (t : Nat) : State :=
  { s with trace := { s.trace with
      lost := sat32 (s.trace.lost + 1)
      lossFirst := if s.trace.lossCount = 0 then t else s.trace.lossFirst
      lossLast := t
      lossCount := s.trace.lossCount + 1 } }.countEngine 25 1

/-- The next slot of the ring is written (R450). -/
def State.traceNext (s : State) (next : Nat) : State :=
  { s with trace := { s.trace with tail := next, phase := if next = 0 then !s.trace.phase else s.trace.phase } }

/-- Write one record into the next slot as the owner's context, write-through (R450, R451). -/
def State.tracePut (s : State) (w : Wait) (timeout : Bool) (dur : Nat) : State :=
  let slot := s.trace.tail
  let pa := s.trace.pages.getD (slot / 64) 0 + slot % 64 * 64
  if s.isLocal pa = false ∨ s.isMemory (localOf pa) = false then s.traceDrop (s.now .core)
  else
  let s := s.fetchGrant s.trace.ctx (localOf pa)
  if s.granted s.trace.ctx (localOf pa) true = false then (s.denied s.trace.ctx (localOf pa)).traceDrop (s.now .core)
  else
    let next := (slot + 1) % s.traceSize
    let acc : Access := { ctx := s.trace.ctx, part := s.partOf s.trace.ctx, wattr := 1 }
    (s.store pa (traceBytes w s.trace.phase timeout dur) acc).1.traceNext next

/-- A LOSS record precedes the first record after a gap (R454). -/
def State.traceLoss (s : State) : State :=
  if s.trace.lossCount = 0 ∨ s.traceFull = true then s
  else
    let w : Wait := { typ := 7, start := s.trace.lossFirst, waiter := 0, holder := 0, object := 0, detail := s.trace.lossCount }
    let s' := s.tracePut w false (s.trace.lossLast - s.trace.lossFirst)
    { s' with trace := { s'.trace with lossCount := 0 } }

/-- Write a trace record, or drop it when the ring has no free slot (R454). -/
def State.traceWrite (s : State) (w : Wait) (timeout : Bool) (dur : Nat) : State :=
  let s := s.traceLoss
  if s.traceFull then s.traceDrop (s.now .core) else s.tracePut w timeout dur

/-! ## The wait table -/

/-- A wait opens: tracked while the table of 4,096 entries has room (R450). -/
def State.openWait (s : State) (typ waiter holder object detail : Nat) : State :=
  if s.trace.waits.length < 4096 then
    { s with trace := { s.trace with waits := s.trace.waits ++
      [{ typ := typ, start := s.now .core, waiter := waiter, holder := holder, object := object, detail := detail }] } }
  else s.countEngine 26 1

/-- A tracked wait ends: its record is written when tracing is enabled, its type selected and it lasted MIN_NS (R450). The
holder and detail known at the end replace those at the start where given. -/
def State.closeWait (s : State) (typ waiter : Nat) (timeout : Bool) (holder detail : Option Nat) : State :=
  match s.trace.waits.find? (fun w => w.typ == typ && w.waiter == waiter) with
  | none => s
  | some w =>
    let s := { s with trace := { s.trace with waits := s.trace.waits.erase w } }
    let dur := s.now .core - w.start
    let w := { w with holder := holder.getD w.holder, detail := detail.getD w.detail }
    if s.trace.en && bitOf s.trace.types typ && decide (s.trace.minNs ≤ dur) then s.traceWrite w timeout dur else s

/-- Every open wait of a waiter ends (a command or stream that is aborted). -/
def State.dropWaits (s : State) (waiter : Nat) (timeout : Bool) : State :=
  ([1, 2, 3, 4, 5, 6] : List Nat).foldl (fun s t => s.closeWait t waiter timeout none none) s

/-- Whether a wait of a kind is open for a waiter. -/
def State.waiting (s : State) (typ waiter : Nat) : Bool := s.trace.waits.any fun w => w.typ == typ && w.waiter == waiter

end Sys2Proof.Machine
end

