-- ==== Sys2Proof/Machine/Readers.lean ====
section
/-! DEFINITION. Reading commands and the epochs they read at (R187, R192, R197 to R204): which may begin, which are held, and the order in
which the commands of a queue start (R30, R339). -/

namespace Sys2Proof.Machine

/-! ## What a command names -/

/-- The value of a row slot: TABLE[n] of the command, none where unused (R98, R346). -/
def slotOf (n : Nat) : Option Nat := if n = 0xFFFF then none else some n

/-- The bag block of a job, as read at acceptance (R346). -/
def Job.bag (j : Job) : BagBlock := if j.block = [] then {} else bagBlock j.block

/-- The table slots T0 to T3 of a command (R346). -/
def Job.slots (j : Job) : List (Option Nat) := some (pktObj j.pkt) :: j.bag.tables.map slotOf

/-- The tables a command names, each once. -/
def Job.tables (j : Job) : List Nat := j.slots.reduceOption.dedup

/-- The epoch of a table set as a number. -/
def State.epochOf (s : State) (h : Nat) : Nat := ((s.tset? h).map (·.epoch)).getD 0

/-- The epochs that a command reads its sets at (R198). -/
def State.epochsOf (s : State) (sets : List Nat) : List (Nat × Nat) := sets.map fun h => (h, s.epochOf h)

/-- Epoch `a` is at or after epoch `b`, modulo 2^32 (R186). -/
def epochReached (a b : Nat) : Bool := decide ((a % 2 ^ 32 + 2 ^ 32 - b % 2 ^ 32) % 2 ^ 32 < 2 ^ 31)

/-- The minimum epoch of each table set that a gather names one for (R200, R346). -/
def State.minEpochs (s : State) (j : Job) : List (Nat × Nat) :=
  if flMinEpoch j.pkt then
    (j.slots.zip j.bag.minEpoch).filterMap fun e => (e.1.bind s.table?).map fun t => (t.tset, e.2)
  else []

/-- The sets of the tables of a bag command (R199, R347). -/
def State.bagSets (s : State) (j : Job) : List Nat := (j.tables.filterMap fun t => (s.table? t).map (·.tset)).dedup

/-- The table set that a stage reads its weights at: that of a bound weight set (R201, R222). -/
def State.stageSets (s : State) (j : Job) (i : Nat) : List Nat :=
  match s.stageWset j i with
  | some w => if w.bound then [w.tset] else []
  | none => []

/-! ## Starting (R30, R339) -/

/-- Earlier commands of the same queue that are still in progress. -/
def State.earlier (s : State) (j : Job) : List Job :=
  s.jobs.filter fun k => k.id.ctx == j.id.ctx && k.id.queue == j.id.queue && decide (k.order < j.order)

/-- Whether a command may start: in SEQ order within its queue, and an ORDERED one only after every earlier status record
(R339). -/
def State.mayStart (s : State) (j : Job) : Bool :=
  j.parsed && (s.earlier j).all (·.began) && (!flOrdered j.pkt || (s.earlier j).isEmpty)

/-- A command that may not start yet waits; an ORDERED one waits on the command before it (R452). -/
def State.orderedWait (s : State) (j : Job) : State :=
  if flOrdered j.pkt ∧ s.waiting 4 (agentCmd j.id) = false then
    match (s.earlier j).getLast? with
    | some k => s.openWait 4 (agentCmd j.id) (agentCmd k.id) 0 2
    | none => s
  else s

/-- A command starts (R339). -/
def State.begin (s : State) (c : CmdId) : State :=
  (s.closeWait 4 (agentCmd c) false none none).updJob c fun j => { j with began := true, phase := .running }

/-- A command that has not been dealt to a slice, an array or a handler has not started (R339). -/
def State.notStarted (s : State) (c : CmdId) (phase : Phase) : State := s.updJob c fun j => { j with began := false, phase := phase }

/-! ## Whether a reading command may begin (R192, R197 to R200, R204) -/

/-- Whether a set in this state lets reading commands begin (R187). -/
def TsState.open (t : TsState) : Bool := t == .opened || t == .pending

/-- A set of no table set is as one without a state: TORN. -/
def State.setState (s : State) (h : Nat) : TsState := ((s.tset? h).map (·.st)).getD .torn

/-- Whether a set of a plan is TORN: no command that names it is served (R215). -/
def State.isTorn (s : State) (h : Nat) : Bool := (s.tset? h).any (·.st == .torn)

/-- The table sets of what a reading command begins next, which has not begun: a gather, a SNAPSHOT, or a layer of a chain (R192, R201);
none when nothing of it is to begin. -/
def State.nextSets (s : State) (j : Job) : Option (List Nat) :=
  let op := pktOpcode j.pkt
  if j.parsed = false ∨ j.phase = .finishing then none
  else if op = opSnapshot then (if j.epochs = [] then some [pktObj j.pkt] else none)
  else if op = opGather ∨ op = opGatherSeq ∨ op = opProject then
    match j.proj with
    | some p => if p.inLayer then none else some (s.stageSets j p.layer)
    | none =>
      if op = opProject then some (s.stageSets j 0)
      else if j.epochs = [] then some (s.bagSets j ++ if flFused j.pkt then s.stageSets j 0 else []).dedup
      else none
  else none

/-- The commands that read a set: begun, and not at the end of their reads (R192, R204). -/
def State.reading (s : State) (h : Nat) : List Job :=
  s.jobs.filter fun k => k.began && !k.readsEnded && k.phase != .finishing && k.epochs.any fun e => e.1 == h

/-- Commands that the parser accepted before DRAINING began, that may start, and that have not begun: they read at the epoch in force, and
DRAINING lasts until they have (R192, R197; DEDUCED: log entry 107). -/
def State.dueReaders (s : State) (h : Nat) : List Job :=
  s.jobs.filter fun k => k.promised.contains h && (s.nextSets k).isSome && s.mayStart { k with began := true }

/-- Whether a set holds a command: it is past PENDING, unless it is DRAINING and the command was accepted before; or the minimum epoch
that a gather names for it is not reached (R192, R197, R199, R200). -/
def State.holds (s : State) (j : Job) (h : Nat) : Bool :=
  let st := s.setState h
  (!(st.open || st == .torn) && !(st == .draining && j.promised.contains h)) ||
    (j.epochs == [] && (s.minEpochs j).any fun e => e.1 == h && !epochReached (s.epochOf h) e.2)

/-- The sets that hold a command. -/
def State.holders (s : State) (j : Job) : List Nat :=
  match s.nextSets j with
  | none => []
  | some sets => sets.filter (s.holds j)

/-- Whether a reading command may begin: it may; sixteen commands read one of its sets; sets hold it; or one of its sets is TORN (R192, R197,
R199, R200, R204). -/
inductive Gate where
  | go
  | full
  | held
  | torn
  deriving DecidableEq, Repr

/-- Whether a command may begin what it begins next. -/
def State.gate (s : State) (j : Job) : Gate :=
  match s.nextSets j with
  | none => .go
  | some sets =>
    if sets.any (fun h => s.setState h == .torn) then .torn
    else if s.holders j ≠ [] then .held
    else if sets.any (fun h => decide (16 ≤ (s.reading h).length)) then .full
    else .go

/-! ## Holds (R202, R203) -/

/-- Who holds readers of a set: the command of its window, or the set itself while a minimum epoch is awaited (R452). -/
def State.holderOf (s : State) (h : Nat) : Nat :=
  match (s.tset? h).bind (·.apply) with
  | some a => if (s.setState h).open then agentTset h else agentCmd a.cmd
  | none => agentTset h

/-- The sets that hold a command are now these: each set that has let go counts its hold time, and each new one a suspension (R203). -/
def State.holdSets (s : State) (j : Job) (now : List Nat) : State :=
  let s := (j.heldBy.filter fun e => !now.contains e.1).foldl (fun s e => s.countSet e.1 4 (s.time - e.2)) s
  let new := now.filter fun h => !(j.heldBy.any fun e => e.1 == h)
  let s := new.foldl (fun s h => s.countSet h 3 1) s
  s.updJob j.id fun j => { j with heldBy := (j.heldBy.filter fun e => now.contains e.1) ++ new.map fun h => (h, s.time) }

/-- The epoch that a held command awaits of a set: the end of its window, or the minimum epoch that is not reached (R200, R452). -/
def State.awaited (s : State) (j : Job) (h : Nat) : Nat :=
  match (s.minEpochs j).find? fun e => e.1 == h && !epochReached (s.epochOf h) e.2 with
  | some e => if (s.setState h).open then e.2 else s.epochOf h + 1
  | none => s.epochOf h + 1

/-- A command is held: a suspension of its context (R203, R452). -/
def State.startHold (s : State) (j : Job) (h : Nat) : State :=
  let c := j.id
  ((s.updJob c fun j => { j with heldSince := some s.time, wasHeld := true }).countCtx c.ctx 7 1).openWait 2 (agentCmd c) (s.holderOf h) h (s.awaited j h)

/-- A hold ends, and its time is counted (R203). -/
def State.endHold (s : State) (j : Job) (timeout : Bool) : State :=
  match j.heldSince with
  | none => s
  | some t =>
    let ns := s.time - t
    (((s.holdSets j []).updJob j.id fun j => { j with heldSince := none, holdNs := j.holdNs + ns }).countCtx j.id.ctx 8 ns).closeWait
      2 (agentCmd j.id) timeout none none

/-- The one set that a command is to read at the epoch in force, when it reads one (R197, R199). -/
def State.promise (s : State) (j : Job) : List Nat :=
  match s.nextSets j with
  | some [h] => if s.holds j h then [] else [h]
  | _ => []

/-- A command's holds follow the states of its sets. A hold that ends lets it read at the epoch now in force (R194, R197). -/
def State.rehold (s : State) (c : CmdId) : State :=
  match s.job? c with
  | none => s
  | some j =>
    match j.heldSince, s.holders j with
    | none, [] => s
    | none, h :: rest => (s.holdSets j (h :: rest)).startHold j h
    | some _, [] => (s.endHold j false).updJob c fun k => { k with promised := s.promise j }
    | some _, h :: rest => s.holdSets j (h :: rest)

/-- Every command's holds. -/
def State.reholdAll (s : State) : State := (s.jobs.map (·.id)).foldl State.rehold s

end Sys2Proof.Machine
end

