-- ==== Sys2Proof/Machine/Net.lean ====
section
/-! DEFINITION. Frames on the ports: traffic classes, credits, the retry buffer (R377 to R381), routes (R387), and frames that the
engine sends of its own. -/

namespace Sys2Proof.Machine

/-! ## Frame types (R378) -/

def ftCmd : Nat := 0x01
def ftStatus : Nat := 0x02
def ftRdReq : Nat := 0x03
def ftRdResp : Nat := 0x04
def ftWrReq : Nat := 0x05
def ftWrAck : Nat := 0x06
def ftCredit : Nat := 0x07
def ftAck : Nat := 0x08
def ftHello : Nat := 0x09
def ftLoss : Nat := 0x0A
def ftUnreachable : Nat := 0x0B
def ftJoinReq : Nat := 0x0C
def ftRegRd : Nat := 0x0D
def ftRegWr : Nat := 0x0E
def ftRegResp : Nat := 0x0F

/-- The traffic class of a type (R378). -/
def typeTc (t : Nat) : Nat :=
  if t = ftCmd ∨ t = ftStatus ∨ t = ftRegRd ∨ t = ftRegWr ∨ t = ftRegResp then 1
  else if t = ftRdReq ∨ t = ftWrReq then 2
  else if t = ftRdResp ∨ t = ftWrAck then 3
  else 0

/-- Frames of one link carry no LSEQ and are never replayed (R378). -/
def oneLink (t : Nat) : Bool := t == ftCredit || t == ftAck || t == ftHello

/-- The buffer of a frame at the partner: class and lane (R380). -/
def bufOf (tc : Nat) (vl : Bool) : Nat := 2 * (tc % 4) + bit1 vl

/-- Bytes of a frame that a buffer holds: transport header and payload (R377, R380; log entry 11). -/
def frameBytes (f : Frame) : Nat := 32 + f.payload.length

/-- Credits of a whole frame, in units of 64 B (R380). -/
def frameCredits (f : Frame) : Nat := ceilDiv (frameBytes f) 64

def Port.got (x : Port) (b : Nat) : Nat := x.creditGot.getD b 0
def Port.used (x : Port) (b : Nat) : Nat := x.creditUsed.getD b 0

/-- Free credit of a buffer: 64 KiB, less what is used, plus what has been returned (R380). -/
def Port.free (x : Port) (b : Nat) : Nat := 1024 + x.got b - x.used b

/-- A port that carries routed traffic (R382). -/
def Port.carries (x : Port) : Bool := x.st == .up || x.st == .degraded

/-- Whether a port sends a routed frame now: a HELD port sends those of the control class alone (R382, R386). -/
def Port.sends (x : Port) (f : Frame) : Bool := x.carries || (x.st == .held && f.tc == 0)

/-- A frame put on the wire. -/
def Port.emit (x : Port) (f : Frame) (t : Nat) : Port := { x with wire := x.wire ++ [f], lastTx := t }

/-- Bytes held in the retry buffer (R381). -/
def Port.retryBytes (x : Port) : Nat := (x.retry.map frameBytes).foldl (· + ·) 0

/-- Send the waiting routed frames that have credit and room, in order within each class; a class that lacks credit holds only
its own frames (R380, R381). Answers the frames that still wait. -/
def Port.pump (x : Port) (t : Nat) (ws : List Frame) (blocked : List Nat) : Port × List Frame :=
  match ws with
  | [] => (x, [])
  | f :: rest =>
    let b := bufOf f.tc f.vl
    if blocked.contains b then
      let (x, left) := x.pump t rest blocked
      (x, f :: left)
    else if x.sends f && decide (frameCredits f ≤ x.free b) && decide (x.retryBytes + frameBytes f ≤ 2 ^ 18) then
      let g := { f with lseq := x.txSeq, lack := x.rxSeq }
      let x := { x with retry := x.retry ++ [g], txSeq := (x.txSeq + 1) % 2 ^ 16, creditUsed := x.creditUsed.setIfInBounds b (x.used b + frameCredits f) }
      (x.emit g t).pump t rest blocked
    else
      let (x, left) := x.pump t rest (b :: blocked)
      (x, f :: left)

/-- Bytes of a frame on the link: Ethernet header, transport header, payload and FCS (R375, R376). -/
def linkBytes (f : Frame) : Nat := 50 + f.payload.length

/-- The MAC address of a port of a node: 02-5E-02-hh-ll-0n (R376). -/
def macOf (node port : Nat) : Nat := 0x025E02000000 + node % 2 ^ 16 * 2 ^ 8 + port

/-- The Ethernet header of a frame sent on a port: its own address, the partner's once it is known, and the EtherType of FB_ETHERTYPE
(R376). -/
def State.stamp (s : State) (p : Fin 8) (f : Frame) : Frame :=
  let n := (s.fport p).nbr
  { f with
    smac := macOf s.ownNode p.val
    dmac := if f.typ = ftHello ∨ n.valid = false then 0x0180C200000E else macOf (if n.assigned then n.node else 0) n.port
    etype := s.etherType }

/-- The frames put on a port's wire since it was as `x` get their Ethernet headers, and WORK counts their bytes (R376, R442). -/
def State.sent (s : State) (p : Fin 8) (x : Port) : State :=
  match (s.fport p).wire.drop x.wire.length with
  | [] => s
  | new =>
    (s.updFport p fun y => { y with wire := x.wire ++ new.map (s.stamp p) }).unitWork (76 + p.val) ((new.map linkBytes).foldl (· + ·) 0)

/-- Who waits for a frame of the engine's own to be sent: the stream or the command of its remote request (R380, R452). -/
def State.frameWaiter (s : State) (f : Frame) : Option Nat :=
  if f.typ = ftRdReq ∨ f.typ = ftWrReq then
    if f.hopIdx = 1 ∧ f.src = s.ownNode then
      (s.fab.remote.find? fun r => r.tag == f.tag).map fun r =>
        match r.mem with
        | some m => agentStream m.stream
        | none => agentCmd r.cmd
    else none
  else none

/-- Waits for credit on a port, before and after its frames went out: those of frames still held open, and those of frames sent end (R380,
R381, R452). -/
def State.creditWaits (s : State) (p : Fin 8) (old new : List Frame) : State :=
  let held := new.filterMap fun f => (s.frameWaiter f).map fun w => (w, f)
  let s := (old.filterMap s.frameWaiter).foldl (fun s w =>
    if held.any (fun e => e.1 == w) then s else s.closeWait 5 w false none none) s
  if (s.fport p).carries then
    held.foldl (fun s e =>
      if s.waiting 5 e.1 then s else s.openWait 5 e.1 (agentPort p.val) (e.2.tc + 4 * bit1 e.2.vl) (frameCredits e.2)) s
  else s

/-- Credits of a received frame are freed as it leaves its buffer (R380; log entry 51). -/
def Port.freeCredit (x : Port) (f : Frame) : Port :=
  let b := bufOf (typeTc f.typ) f.vl
  { x with freed := x.freed.setIfInBounds b (x.freed.getD b 0 + frameCredits f) }

def State.freeFrame (s : State) (p : Fin 8) (f : Frame) : State := s.updFport p fun x => x.freeCredit f

/-- A forwarded frame leaves the buffer of the port it came in on, as it leaves the queue of its output port (R380). -/
def State.leaveBuffer (s : State) (out : Nat) (f : Frame) : State :=
  match allPorts.findSome? fun q => ((s.fport q).held.find? fun e => e.1 == out && e.2.1 == f).map fun e => (q, e) with
  | some (q, e) => (s.updFport q fun x => { x with held := x.held.erase e }).freeFrame q e.2.2
  | none => s

/-- The waiting frames of a port go out as far as they can. -/
def State.pumpPort (s : State) (p : Fin 8) : State :=
  let x := s.fport p
  let (x', left) := x.pump s.time x.waiting []
  let s := ((s.setFport p { x' with waiting := left }).sent p x).creditWaits p x.waiting left
  (x.waiting.diff left).foldl (fun s f => s.leaveBuffer p.val f) s

/-- A received frame waits on an output port, in the buffer of the port it came in on until it is sent (R380, R387). -/
def State.passOn (s : State) (p out : Fin 8) (f g : Frame) : State :=
  ((s.updFport p fun x => { x with held := x.held ++ [(out.val, g, f)] }).queueFrame out g).pumpPort out

def State.pumpAll (s : State) : State := allPorts.foldl State.pumpPort s

/-- Frames that no port could send yet are tried again. -/
def State.pumpWaiting (s : State) : State := if allPorts.all fun p => (s.fport p).waiting.isEmpty then s else s.pumpAll

/-- A control frame of one link, sent at once on a trained port (R378). -/
def State.sendControl (s : State) (p : Fin 8) (f : Frame) : State :=
  (s.updFport p fun x => x.emit { f with lack := x.rxSeq, src := s.ownNode } s.time).sent p (s.fport p)

/-! ## Routes (R387) -/

/-- The port of a route byte, its DATELINE bit, and the byte with RET written (R387). -/
def routePort (b : Nat) : Nat := bitsOf b 2 0
def routeDateline (b : Nat) : Bool := bitOf b 3
def routeWithRet (b p : Nat) : Nat := b % 16 + p % 8 * 16
def routeRet (b : Nat) : Nat := bitsOf b 6 4

/-- Ports by number. -/
def State.portAt (s : State) (n : Nat) : Port := if h : n < 8 then s.fab.ports[n] else {}

/-- The valid routes to a destination that may be used now: first port UP or DEGRADED, not marked unusable, with their index
and the free credit of the frame's class (R387, R388). -/
def State.usableRoutes (s : State) (dst tc : Nat) : List (Nat × Route × Nat) :=
  let e : RouteEntry := sget {} s.fab.routes dst
  (e.routes.zipIdx.filterMap fun (r, i) =>
    let p := routePort (r.bytes.getD 0 0)
    if r.valid && decide (r.bytes ≠ []) && (s.portAt p).carries &&
        !(s.fab.unusable.any fun u => u.1 == dst && u.2.1 == i && decide (s.time < u.2.2 + 1000000)) then
      some (i, r, (s.portAt p).free (bufOf tc false))
    else none)

/-- The route of most free credit, ties to the lowest index (R387). -/
def bestRoute (l : List (Nat × Route × Nat)) : Option (Nat × Route) :=
  match l with
  | [] => none
  | (i, r, c) :: rest =>
    match bestRoute rest, rest.foldl (fun m x => max m x.2.2) 0 with
    | some b, m => if m ≤ c then some (i, r) else some b
    | none, _ => some (i, r)

/-- Whether a valid route to a node exists (R391, R394). -/
def State.hasRoute (s : State) (dst : Nat) : Bool := (sget ({} : RouteEntry) s.fab.routes dst).routes.any (·.valid)

/-- A route of six bytes, filled up with zeros. -/
def padRoute (bs : List Nat) : List Nat := (bs ++ [0, 0, 0, 0, 0, 0]).take 6

/-- Send a routed frame of the engine by its route table: none where no route can be used (R387). The first route byte is the
engine's own output port, and the frame starts on VL 0 (log entry 12). -/
def State.sendRouted (s : State) (f : Frame) : Option State :=
  match bestRoute (s.usableRoutes f.dst f.tc) with
  | none => none
  | some (_, r) =>
    let b := r.bytes.getD 0 0
    let p := routePort b
    if h : p < 8 then
      let g := { f with hops := r.bytes.length, hopIdx := 1, vl := false, route := padRoute r.bytes, src := s.ownNode }
      some ((s.queueFrame ⟨p, h⟩ g).pumpPort ⟨p, h⟩)
    else none

/-- Send a frame back along a reversed route: the first port is the one the frame came in on, and the frame is delivered at the
route's end whatever its DST (R388, R390; log entry 12). -/
def State.sendBack (s : State) (port : Nat) (back : List Nat) (f : Frame) : State :=
  if h : port < 8 then
    let g := { f with direct := true, hops := back.length + 1, hopIdx := 1, route := padRoute (port :: back), src := s.ownNode }
    (s.queueFrame ⟨port, h⟩ g).pumpPort ⟨port, h⟩
  else s

/-- The RET fields that forwarding engines wrote into a frame, the last first: its way home after the port it came in on (R387,
R388). Byte 0 is the source's own hop. -/
def returnPath (f : Frame) : List Nat := (((f.route.take f.hopIdx).drop 1).map routeRet).reverse

end Sys2Proof.Machine
end

