-- ==== Sys2Proof/Machine/Xlat.lean ====
section
/-! DEFINITION. Translation: segments (R310, R311), page-table walks (R312 to R315), TLBs (R316, R317), and faults raised and
served (R319 to R321). -/

namespace Sys2Proof.Machine

/-! ## Segments (R310, R311) -/

/-- Address bits of a page, by PSIZE (R310, R312). -/
def pageBits (psize : Nat) : Nat := if psize = 0 then 16 else if psize = 1 then 21 else 30

/-- Levels of a segment's page table (R312). -/
def levelsOf (g : Segment) : Nat := max 1 (ceilDiv (clog2 g.size - pageBits g.psize) 9)

/-- The page number of an address of a segment (R312). -/
def pageNo (g : Segment) (va : Nat) : Nat := (va - g.vbase) / 2 ^ pageBits g.psize

/-- The valid segment of a context that contains an address (R311). -/
def State.segOf (s : State) (ctx va : Nat) : Option (Nat × Segment) :=
  match s.context? ctx with
  | none => none
  | some c => (c.segs.toList.zipIdx.find? fun (g, _) => g.valid && decide (g.vbase ≤ va) && decide (va < g.vbase + g.size)).map
      fun (g, i) => (i, g)

/-! ## Walks (R312 to R315) -/

/-- How a walk through the tables ends, before its leaf is checked. -/
inductive LeafRes where
  | leaf (e : Nat)
  | notPresent
  | error
  deriving DecidableEq, Repr

/-- Read one entry per level from the table at a local address down to the leaf: V is checked first, then the reserved bits of a
pointer and that it names the pool (R314, R315). -/
def State.walkTables (s : State) (table n level : Nat) : LeafRes :=
  match s.viewNat (s.physOf (table + 8 * bitsOf n (9 * level + 8) (9 * level))) 8 with
  | none => .error
  | some e =>
    if bitOf e 0 = false then .notPresent
    else
      match level with
      | 0 => .leaf e
      | j + 1 =>
        let next := e / 2 ^ 12 * 2 ^ 12
        if bitsOf e 11 1 ≠ 0 ∨ s.isLocal next = false ∨ ¬localOf next < 2 ^ 40 then .error
        else s.walkTables (localOf next) n j

/-- The lines of table entries a walk reads, for the row cache (class WALK, R318). -/
def State.walkReads (s : State) (table n level : Nat) : List Nat :=
  let a := s.physOf (table + 8 * bitsOf n (9 * level + 8) (9 * level))
  match level with
  | 0 => [a]
  | j + 1 =>
    match s.viewNat a 8 with
    | some e => if bitOf e 0 then a :: s.walkReads (localOf (e / 2 ^ 12 * 2 ^ 12)) n j else [a]
    | none => [a]

/-- What a translation gives: a physical address with its segment and the leaf, a fault that can be replayed (type, R320), a
walk error, or PROTECTION with its reason (R311, R314, R315, R363). -/
inductive XRes where
  | ok (pa : Nat) (seg : Segment)
  | fault (typ seg page pa : Nat)
  | protection (reason : Nat)
  | walkError
  deriving DecidableEq, Repr

/-- Whether a leaf may name a local address: memory, or memory of an expander that is gone, whose accesses are those of a lost port (R288,
R305, R315). -/
def State.standsFor (s : State) (a : Nat) : Bool := s.isMemory a || s.goneExp a

/-- The rules a present leaf must keep (R314, R315). -/
def State.leafOk (s : State) (g : Segment) (e : Nat) : Bool :=
  let b := pageBits g.psize
  let pa := e / 2 ^ 12 * 2 ^ 12
  let a := localOf pa
  !bitOf e 11 && bitsOf e 7 3 == 0 && decide (bitsOf e 10 8 ≤ 4) && !bitOf e 2 && pa % 2 ^ b == 0 &&
    (if s.isLocal pa then s.standsFor a && s.standsFor (a + 2 ^ b - 1) && (!g.qlocal || s.inQuadRegion g.quad a (2 ^ b))
     else s.fab.assigned && g.remoteOk && !g.qlocal)

/-- A walk of a segment for an address (R312 to R315, R319). -/
def State.walk (s : State) (i : Nat) (g : Segment) (va : Nat) (write : Bool) : XRes × Option TlbEntry :=
  let n := pageNo g va
  let b := pageBits g.psize
  match s.walkTables g.root n (levelsOf g - 1) with
  | .error => (.walkError, none)
  | .notPresent => (.fault 1 i n 0, none)
  | .leaf e =>
    if s.leafOk g e = false then (.walkError, none)
    else if write && !bitOf e 1 then (.fault 2 i n 0, none)
    else
      let base := e / 2 ^ 12 * 2 ^ 12
      let k := bitsOf e 10 8
      let first := n / 2 ^ k * 2 ^ k
      let ent : TlbEntry := { ctx := 0, seg := i, page := first, addr := base - (n - first) * 2 ^ b, w := bitOf e 1, runLog2 := k }
      let pa := base + (va - g.vbase) % 2 ^ b
      if s.isLocal pa && s.onLostPort (localOf pa) then (.fault 3 i n pa, some ent) else (.ok pa g, some ent)

/-! ## TLBs (R316, R317) -/

/-- Whether an entry covers a page, with the permission needed. -/
def TlbEntry.covers (e : TlbEntry) (ctx seg n : Nat) (write : Bool) : Bool :=
  e.ctx == ctx && e.seg == seg && decide (e.page ≤ n) && decide (n < e.page + 2 ^ e.runLog2) && (!write || e.w)

/-- The second-level set of a page (R316). -/
def tlbSet (ctx seg n : Nat) : Nat := Config.tlbHash ctx seg (n / 16) % 2048

/-- The address an entry gives. -/
def TlbEntry.translate (e : TlbEntry) (g : Segment) (va : Nat) : Nat :=
  e.addr + (pageNo g va - e.page) * 2 ^ pageBits g.psize + (va - g.vbase) % 2 ^ pageBits g.psize

/-- An entry added to a TLB of `cap` entries; a full one replaces an entry chosen freely (R316; log entry 5). -/
def tlbAdd (l : List TlbEntry) (cap : Nat) (e : TlbEntry) (pick : Nat) : List TlbEntry :=
  if l.length < cap then l ++ [e] else l.set (pick % cap) e

/-- An entry filled into the second level (R316). -/
def State.tlb2Fill (s : State) (e : TlbEntry) : State :=
  let k := tlbSet e.ctx e.seg e.page
  { s.took with tlb2 := sput [] s.tlb2 k (tlbAdd (sget [] s.tlb2 k) 8 e s.freeNat) }

/-- An entry filled into a slice's first level (R316). -/
def State.tlb1Fill (s : State) (slice : Nat) (e : TlbEntry) : State :=
  (s.took).updSlice slice fun x => { x with tlb := tlbAdd x.tlb 256 e s.freeNat }

/-- A translation held in the second level. -/
def State.tlb2Hit (s : State) (ctx seg n : Nat) (write : Bool) : Option TlbEntry :=
  (sget [] s.tlb2 (tlbSet ctx seg n)).find? fun e => e.covers ctx seg n write

/-- A translated address is judged: PORT_LOST when it lies on a lost capacity port (R307, R319). -/
def State.landed (s : State) (i : Nat) (g : Segment) (va pa : Nat) : XRes :=
  if s.isLocal pa && s.onLostPort (localOf pa) then .fault 3 i (pageNo g va) pa else .ok pa g

/-- The segment checks that come before any translation (R311). -/
def State.segCheck (s : State) (ctx va : Nat) (write : Bool) : Option (Nat × Segment) × XRes :=
  match s.segOf ctx va with
  | none => (none, .protection 0x54)
  | some (i, g) => if write && g.wattr == 3 then (none, .protection 0x56) else (some (i, g), .walkError)

/-- The note in the row cache of a walk's reads, and the record of one that is lost (R318, R426, R430). -/
def State.noteWalk (s : State) (g : Segment) (va : Nat) : State :=
  let reads := s.walkReads g.root (pageNo g va) (levelsOf g - 1)
  let t := reads.foldl (fun s a => s.noteRead a (2 ^ (a % 256 / 64)) { cls := 1, shared := true, wattr := 3 }) s
  (reads.flatMap fun a => s.lostSectors a 8).foldl (fun s a => s.readError { code := 0x0007, action := 11 } a) t

/-- Translate an address for a requester that waits in place: second-level TLB, else a walk, which fills it (R311, R316, R318).
CTX 0 addresses are physical (R311). -/
def State.xlate (s : State) (ctx va : Nat) (write : Bool) : State × XRes :=
  if ctx = 0 then (s, .ok va {})
  else
    match s.segCheck ctx va write with
    | (none, r) => (s, r)
    | (some (i, g), _) =>
      match s.tlb2Hit ctx i (pageNo g va) write with
      | some e => (s, s.landed i g va (e.translate g va))
      | none =>
        let (r, ent) := s.walk i g va write
        let s := s.noteWalk g va
        match ent with
        | some e => (s.tlb2Fill { e with ctx := ctx }, r)
        | none => (s, r)

/-! ## Faults (R319 to R321) -/

/-- The fault that a requester raises: the fields of its record (R320), and who waits. -/
structure FaultReq where
  typ : Nat
  source : Nat
  ctx : Nat
  seg : Nat
  page : Nat
  va : Nat
  write : Bool
  gen : Nat := 0
  whereIs : Nat := 0xFFFF
  pa : Nat := 0
  cmdSeq : Nat := 0
  joiner : XWaiter
  deriving DecidableEq, Repr

/-- Whether two faults are of one (CTX, segment, page, type) (R319). -/
def FaultSlot.same (f : FaultSlot) (r : FaultReq) : Bool :=
  f.ctx == r.ctx && f.seg == r.seg && f.page == r.page && f.typ == r.typ

/-- A requester joins an outstanding fault: counted while the record is not yet written (R319). -/
def FaultSlot.join (f : FaultSlot) (w : XWaiter) : FaultSlot :=
  if f.joiners.contains w then f
  else { f with joiners := f.joiners ++ [w], count := if f.posted = none then sat32 (f.count + 1) else f.count }

/-- The agent that waits on a fault, for the wait table (R452). -/
def XWaiter.agent (w : XWaiter) : Nat :=
  match w with
  | .operand k | .rowRef k => agentStream k
  | .job c => agentCmd c
  | .apply h | .sweep h => agentTset h
  | .fetchQueue _ => agentFirmware 0
  | .prefetch => 0

/-- A fault is raised: it joins an outstanding one of its kind, or takes a slot, or waits for a slot (R319). -/
def State.raiseFault (s : State) (r : FaultReq) : State :=
  let fresh (slot reuse : Nat) : FaultSlot :=
    { slot := slot, reuse := reuse, typ := r.typ, source := r.source, ctx := r.ctx, seg := r.seg, page := r.page, va := r.va,
      write := r.write, time := s.now .core, gen := r.gen, whereIs := r.whereIs, pa := r.pa, count := 1, cmdSeq := r.cmdSeq,
      joiners := [r.joiner] }
  let wait (s : State) (fid : Nat) : State :=
    if s.waiting 6 r.joiner.agent then s else s.openWait 6 r.joiner.agent (agentMemMgr fid) r.va fid
  if s.faults.any (fun f => f.same r) then
    let s := { s with faults := s.faults.map fun (f : FaultSlot) => if f.same r then f.join r.joiner else f }
    match s.faults.find? (fun f => f.same r) with
    | some f => wait s (f.slot + 1024 * f.reuse)
    | none => s
  else if s.faultsWaiting.any (fun f => f.same r) then
    { s with faultsWaiting := s.faultsWaiting.map fun (f : FaultSlot) => if f.same r then f.join r.joiner else f }
  else
    match s.freePick (s.faults.map (·.slot)) 1024 with
    | (s', some slot) =>
      let reuse := sget 0 s'.reuse slot
      wait { s' with faults := s'.faults ++ [fresh slot reuse] } (slot + 1024 * reuse)
    | (s', none) => { s' with faultsWaiting := s'.faultsWaiting ++ [fresh 1024 0] }

/-- A fault slot is freed under a new reuse count of six bits; a fault that waits for a slot takes it (R319, R320, R321). -/
def State.freeFault (s : State) (slot : Nat) : State :=
  let reuse := (sget 0 s.reuse slot + 1) % 64
  let s := { s with faults := s.faults.filter (fun f => f.slot ≠ slot), reuse := sput 0 s.reuse slot reuse }
  match s.faultsWaiting with
  | [] => s
  | f :: rest => { s with faultsWaiting := rest, faults := s.faults ++ [{ f with slot := slot, reuse := reuse }] }

/-- Whether a requester waits in place for the service of a fault (R319). -/
def State.faultWait (s : State) (w : XWaiter) : Bool := (s.faults ++ s.faultsWaiting).any fun (f : FaultSlot) => f.joiners.contains w

/-- A waiter leaves every fault it waits on (its work item was aborted or has migrated, R113, R321). -/
def State.leaveFaults (s : State) (w : XWaiter) : State :=
  { s with
    faults := s.faults.map fun f => { f with joiners := f.joiners.erase w }
    faultsWaiting := (s.faultsWaiting.map fun f => { f with joiners := f.joiners.erase w })
    walks := s.walks.map fun x => { x with joiners := x.joiners.erase w } }

/-! ## Page access counters (R326, R327) -/

/-- The address of a frame's access count (R326). -/
def State.countAddr (s : State) (frame : Nat) : Nat := s.physOf (s.countBase + 2 * frame)

/-- The frame of a capacity-tier address, in the order of R308, expander 0 first (R326). -/
def frameOf (a : Nat) : Nat := grantIndex a - 524288

/-- HOT_PAGE: a record of a frame whose count reached the threshold, which needs no reply (R320, R327). -/
def State.hotPage (s : State) (frame n : Nat) : State :=
  let f : FaultSlot :=
    { slot := 1024, reuse := 0, typ := 8, source := 6, ctx := 0, seg := 0, page := 0, va := 0, write := false, time := s.now .cap, gen := 0,
      whereIs := 0xFFFF, pa := s.physOf (2 ^ 44 + frame / 524288 * 2 ^ 40 + frame % 524288 * 2 ^ 21), count := n, cmdSeq := 0, joiners := [] }
  match s.freePick (s.faults.map (·.slot)) 1024 with
  | (s', some slot) => { s' with faults := s'.faults ++ [{ f with slot := slot, reuse := sget 0 s'.reuse slot }] }
  | (s', none) => { s' with faultsWaiting := s'.faultsWaiting ++ [f] }

/-- A frame's count as memory holds it; one that cannot be read counts as 0, with its record (R326, R430). -/
def State.readCount (s : State) (frame : Nat) : State × Nat :=
  match s.loadFirmware (s.countAddr frame) 2 { Access.firmware with ue := { code := 0x0007, action := 12 } } with
  | (s, some b) => (s, leNat b)
  | (s, none) => (s, 0)

/-- The counts that a port has merged and not written. -/
def State.portCounts (s : State) (n : Nat) : List (Nat × Nat) := sget [] s.countCache n
def State.setPortCounts (s : State) (n : Nat) (l : List (Nat × Nat)) : State := { s with countCache := sput [] s.countCache n l }

/-- The count of a frame at its port: merged there, or read from memory, for which a full cache of 1,024 gives up an entry chosen freely
(R326; log entry 5). -/
def State.mergedCount (s : State) (n frame : Nat) : State × Nat :=
  match (s.portCounts n).find? fun e => e.1 == frame with
  | some e => (s, e.2)
  | none =>
    let l := s.portCounts n
    if l.length < 1024 then s.readCount frame
    else
      let out := l.getD (s.freeNat % 1024) (0, 0)
      ((s.took.setPortCounts n (l.erase out)).storeFirmware (s.countAddr out.1) (leBytes 2 out.2)).readCount frame

/-- A sampled access to a frame behind a capacity port adds one to its count; the count that reaches the threshold is marked, and reported
(R326, R327). -/
def State.countAccess (s : State) (a : Nat) : State :=
  match s.region a with
  | .expander e =>
    if s.hotEn = false then s
    else if s.freeNat % 2 ^ s.hotShift ≠ 0 then s.took
    else
      let frame := frameOf a
      let (s, v) := s.took.mergedCount (e / 2) frame
      let n := min 0x7FFF (v % 2 ^ 15 + 1)
      let hot := !bitOf v 15 && decide (s.hotThr ≤ n)
      let v' := n + 2 ^ 15 * bit1 (bitOf v 15 || hot)
      let s := s.setPortCounts (e / 2) ((s.portCounts (e / 2)).filter (fun x => x.1 ≠ frame) ++ [(frame, v')])
      if hot then s.hotPage frame n else s
  | _ => s

/-- Whether a read of a byte range goes past the row cache. -/
def State.readsMemory (s : State) (pa n : Nat) : Bool :=
  (linesOf pa n).any fun l =>
    match s.lookup (localOf l.1) with
    | some w => Nat.land l.2 (s.way (setOf (lineNo l.1)) w).sv.toNat != l.2
    | none => true

/-- A read through the row cache by a requester of the engine: one that reaches a capacity port is an access to its frame (R326). -/
def State.loadCounted (s : State) (pa n : Nat) (acc : Access) : State × Option (List Byte) :=
  let far := s.readsMemory pa n
  let (s, r) := s.load pa n acc
  (if far then s.countAccess (localOf pa) else s, r)

end Sys2Proof.Machine
end

