-- ==== Sys2Proof/Machine/Jobs.lean ====
section
/-! DEFINITION. Commands in progress: their reads and writes of memory (R311, R319, R325, R478), their status records (R355 to
R360), how they start (R339) and how they end. -/

namespace Sys2Proof.Machine

/-! ## Reads for a command -/

/-- No command: what the engine writes of itself. -/
def noCmd : CmdId := ⟨0, 0, 0⟩

/-- What a read of memory for a command gives: the bytes; an uncorrectable error at an address; an end of the command with a
status; or a wait (a fault to be served, or a remote request without its answer). -/
inductive Rd where
  | ok (bs : List Byte)
  | bad (pa : Nat)
  | stop (st : Nat) (d : ErrDetail)
  | wait
  deriving DecidableEq, Repr

/-- The translation context, partition and class of accesses to a structure (R258, R299, R478). -/
structure Space where
  ctx : Nat
  part : Nat
  cls : Nat := 0
  source : Nat := 0
  /-- written through to memory whatever the segment's attribute (R208) -/
  through : Bool := false
  /-- whose write tags its writes take (R22, R218) -/
  holder : Option Nat := none
  /-- what the record of an uncorrectable error names (R424; log entry 60) -/
  ue : ErrInfo := { code := 0x0007, action := 11 }
  deriving DecidableEq, Repr

/-- Accesses of a command to its own operands, outputs and rings (R478). -/
def State.cmdSpace (s : State) (c : CmdId) : Space := { ctx := c.ctx, part := s.partOf c.ctx }

/-- Attributes of an access through a segment; staging lines are WB and OWN (R272). -/
def Space.access (x : Space) (g : Segment) (w : Waiter) : Access :=
  { ctx := x.ctx, part := x.part, wattr := if x.through then 1 else if x.cls = 4 then 0 else g.wattr, shared := x.cls != 4 && g.coh, cls := x.cls, waiter := w,
    holder := x.holder, ue := x.ue }

/-- A remote request leaves for another node, for one 256 B line, with a free tag (R325, R379): none when the line or the tags
are taken, or no route can be used; an engine without a node identifier sends none (R475). A write makes what commands have read of the
line stale. -/
def State.remoteSend (s : State) (c : CmdId) (ctx pa n : Nat) (data : Option (List Byte)) (holder : Option Nat := none) : Option State :=
  let line := pa / 256 * 256
  if s.fab.assigned = false ∨ s.tagFree holder = false ∨ s.fab.remote.any (fun r => r.addr / 256 * 256 == line) = true then none
  else
    match s.freePick (s.fab.remote.map (·.tag)) 4096 with
    | (_, none) => none
    | (s', some tag) =>
      let f : Frame := { typ := if data = none then ftRdReq else ftWrReq, tc := 2, dst := pa / 2 ^ 50, len := n, ctx := ctx,
                         tag := tag, addr := pa, payload := data.getD [] }
      let r : RemoteReq := { tag := tag, node := pa / 2 ^ 50, addr := pa, len := n, isWrite := data ≠ none, sentAt := s.time,
                             cmd := c, ctx := ctx, mem := none, holder := holder }
      let stale := fun (j : Job) => { j with remote := j.remote.filter fun e => e.1 ≠ line }
      let s' := if data = none then s'
        else { s' with jobs := s'.jobs.map stale, fab := { s'.fab with sweepGot := s'.fab.sweepGot.filter fun e => e.1 ≠ line } }
      ({ s' with fab := { s'.fab with remote := s'.fab.remote ++ [r] } } : State).sendRouted f

/-- Whether a route to another node's memory can be used at all. -/
def State.reachable (s : State) (pa : Nat) : Bool := s.fab.assigned && decide (s.usableRoutes (pa / 2 ^ 50) 2 ≠ [])

/-- What a command, or the sweeps of sketches, which no command makes, hold of the answers to their remote reads. -/
def State.answersOf (s : State) (c : CmdId) : List (Nat × RemoteAnswer) :=
  if c = noCmd then s.fab.sweepGot else ((s.job? c).map (·.remote)).getD []

/-- An answer to a remote read is kept for its command, or for the sweeps. -/
def State.keepAnswer (s : State) (c : CmdId) (line : Nat) (a : RemoteAnswer) : State :=
  if c = noCmd then { s with fab := { s.fab with sweepGot := s.fab.sweepGot ++ [(line, a)] } }
  else s.updJob c fun j => { j with remote := j.remote ++ [(line, a)] }

/-- The answer of a remote read that is already there, for one line. -/
def remoteBytes (l : List (Nat × RemoteAnswer)) (pa n : Nat) : Option Rd :=
  match l.find? fun r => r.1 == pa / 256 * 256 with
  | none => none
  | some (_, .poison) => some (.bad pa)
  | some (_, .status st) => some (.stop st (if st = stProtection then reason 0x55 else { value := pa }))
  | some (_, .data bs) => some (.ok ((bs.drop (pa % 256)).take n))

/-- Read bytes of one line at a physical address for a command (R309, R325, R379). -/
def State.readPhys (s : State) (c : CmdId) (acc : Access) (pa n : Nat) : State × Rd :=
  if s.isLocal pa then
    let s := s.fetchGrant acc.ctx (localOf pa)
    if s.granted acc.ctx (localOf pa) false = false then (s.denied acc.ctx (localOf pa), .stop stProtection (reason 0x55))
    else
      let (s, r) := s.loadCounted pa n acc
      match r with
      | some bs => (s, .ok bs)
      | none => (s, .bad pa)
  else
    match remoteBytes (s.answersOf c) pa n with
    | some r => (s, r)
    | none =>
      if s.fab.remote.any (fun r => r.addr / 256 * 256 == pa / 256 * 256) then (s, .wait)
      else if s.reachable pa = false then (s, .stop stAborted {})
      else
        match s.remoteSend c acc.ctx (pa / 256 * 256) 256 none with
        | some s' => (s', .wait)
        | none => (s, .wait)

/-- The generation and place of the requester that a fault record names (R320). -/
structure Who where
  joiner : XWaiter
  gen : Nat := 0
  whereIs : Nat := 0xFFFF
  cmdSeq : Nat := 0
  deriving DecidableEq, Repr

def State.whoJob (_s : State) (c : CmdId) : Who := { joiner := .job c, cmdSeq := c.seq }

/-- Raise the fault of a translation (R319). -/
def State.faultFor (s : State) (x : Space) (w : Who) (va : Nat) (write : Bool) (typ seg page pa : Nat) : State :=
  s.raiseFault { typ := typ, source := x.source, ctx := x.ctx, seg := seg, page := page, va := va, write := write, gen := w.gen,
                 whereIs := w.whereIs, pa := pa, cmdSeq := w.cmdSeq, joiner := w.joiner }

/-- The answer that a fault of an apply window, of pass 1 of a scatter, or of a LOAD_PLAN has already had: a status (R116, R183, R185, R321,
R480). -/
def State.answerFor (s : State) (w : XWaiter) (seg page typ : Nat) : Option Nat :=
  match w with
  | .apply h => (((s.tset? h).bind (·.apply)).bind fun a =>
      a.answers.find? fun e => e.1 == seg && e.2.1 == page && e.2.2.1 == typ).map fun e => e.2.2.2
  | .job c => ((s.job? c).bind fun j =>
      j.answers.find? fun e => e.1 == seg && e.2.1 == page && e.2.2.1 == typ).map fun e => e.2.2.2
  | _ => none

/-- Read bytes of one line at a virtual address for a command. -/
def State.readLine (s : State) (c : CmdId) (x : Space) (w : Who) (va n : Nat) : State × Rd :=
  let (s, r) := s.xlate x.ctx va false
  match r with
  | .ok pa g => s.readPhys c (x.access g .none) pa n
  | .fault typ seg page pa =>
    match s.answerFor w.joiner seg page typ with
    | some st => (s, .stop st { object := 0xFFFF, value := va })
    | none => (s.faultFor x w va false typ seg page pa, .wait)
  | .protection why => (s, .stop stProtection (reason why))
  | .walkError => (s, .stop stWalkError { value := va, object := 0xFFFF })

/-- Read a byte range for a command, line by line in ascending order. -/
def State.readLines (s : State) (c : CmdId) (x : Space) (w : Who) (ls : List (Nat × Nat)) (acc : List Byte) : State × Rd :=
  match ls with
  | [] => (s, .ok acc)
  | (va, n) :: rest =>
    match s.readLine c x w va n with
    | (s, .ok bs) => s.readLines c x w rest (acc ++ bs)
    | r => r

/-- A byte range cut at line boundaries: addresses and lengths. -/
def lineRanges (va n fuel : Nat) : List (Nat × Nat) :=
  match fuel with
  | 0 => []
  | fuel + 1 =>
    if n = 0 then []
    else
      let k := min n (256 - va % 256)
      (va, k) :: lineRanges (va + k) (n - k) fuel

/-- Read `n` bytes at a virtual address for a command. -/
def State.readVa (s : State) (c : CmdId) (x : Space) (w : Who) (va n : Nat) : State × Rd :=
  s.readLines c x w (lineRanges va n (n / 256 + 2)) []

/-- Read bytes of an operand: in line, or referenced in the command's context (R342), with the accesses of a space. -/
def State.readOperandAs (s : State) (c : CmdId) (x : Space) (p : List Byte) (d off n : Nat) : State × Rd :=
  match desc d with
  | .inline base len => (s, .ok (inlineBytes p base len off n))
  | .ref va => s.readVa c x (s.whoJob c) (va + off) n
  | .imm v => (s, .ok ((leBytes 4 v ++ zeros n).drop off |>.take n))
  | .none => (s, .ok (zeros n))

/-- As a command reads its operands (class CMD). -/
def State.readOperand (s : State) (c : CmdId) (p : List Byte) (d off n : Nat) : State × Rd := s.readOperandAs c (s.cmdSpace c) p d off n

/-! ## Writes for a command -/

/-- An output of a space that waits (R319). -/
def Space.out (x : Space) (va : Nat) (bs : List Byte) : PendingOut := { va := va, bytes := bs, cls := x.cls, source := x.source, holder := x.holder }

/-- The words of a line that a remote write carries: whole ones, so the rest of a word that it covers in part is read first (R378;
DEDUCED: log entry 111). -/
def State.remoteSpan (s : State) (c : CmdId) (acc : Access) (pa : Nat) (bs : List Byte) : State × Except Rd (Nat × List Byte) :=
  let lo := pa / 4 * 4
  let hi := roundUp (pa + bs.length) 4
  if lo = pa ∧ hi = pa + bs.length then (s, .ok (pa, bs))
  else
    match s.readPhys c acc lo (hi - lo) with
    | (s, .ok old) => (s, .ok (lo, old.take (pa - lo) ++ bs ++ old.drop (pa - lo + bs.length)))
    | (s, r) => (s, .error r)

/-- A write of one line of another node's memory for a command, its acknowledgement awaited: it leaves, waits as an output, or ends the
command (R29, R325, R379, R387). -/
def State.writeRemote (s : State) (c : CmdId) (x : Space) (acc : Access) (va pa : Nat) (bs : List Byte) : State :=
  let later := fun (s : State) => s.updJob c fun j => { j with outs := j.outs ++ [x.out va bs] }
  if s.reachable pa = false then s.cause c stAborted { value := va }
  else
    match s.remoteSpan c acc pa bs with
    | (s, .error (.stop st d)) => s.cause c st d
    | (s, .error (.bad _)) => s.cause c stAborted { value := va }
    | (s, .error _) => later s
    | (s, .ok (at_, ws)) =>
      match s.remoteSend c x.ctx at_ ws.length (some ws) x.holder with
      | some s' => s'.updJob c fun j => { j with acks := j.acks + 1 }
      | none => later s

/-- Write bytes of one line at a virtual address for a command: the acknowledgement is awaited; a fault leaves the bytes
waiting (R29, R311, R319, R325). -/
def State.writeLine (s : State) (c : CmdId) (x : Space) (w : Who) (va : Nat) (bs : List Byte) : State :=
  let (s, r) := s.xlate x.ctx va true
  match r with
  | .protection why => s.cause c stProtection { reason := why, value := va }
  | .walkError => s.cause c stWalkError { value := va, object := 0xFFFF }
  | .fault typ seg page pa =>
    (s.faultFor x w va true typ seg page pa).updJob c fun j => { j with outs := j.outs ++ [x.out va bs] }
  | .ok pa g =>
    if s.isLocal pa then
      let s := s.fetchGrant x.ctx (localOf pa)
      if s.granted x.ctx (localOf pa) true = false then (s.denied x.ctx (localOf pa)).cause c stProtection { reason := 0x55, value := va }
      else
        let s := s.updJob c fun j => { j with acks := j.acks + 1 }
        (s.storeLine pa bs (x.access g (.job c x.ctx))).1
    else s.writeRemote c x (x.access g .none) va pa bs

/-- Write bytes at a virtual address for a command. -/
def State.writeVa (s : State) (c : CmdId) (x : Space) (va : Nat) (bs : List Byte) : State :=
  (pieces va bs).foldl (fun s p => s.writeLine c x (s.whoJob c) p.1 p.2) s

/-- Outputs that waited for a translation or a remote line are tried again. -/
def State.retryOuts (s : State) (c : CmdId) : State :=
  match s.job? c with
  | none => s
  | some j =>
    let s := s.updJob c fun j => { j with outs := [] }
    j.outs.foldl (fun s o => s.writeLine c { s.cmdSpace c with cls := o.cls, source := o.source, holder := o.holder } (s.whoJob c) o.va o.bytes) s

/-- Outputs that wait for a line of another node's memory are tried again once a request has ended (R379). -/
def State.retryRemote (s : State) : State :=
  (s.jobs.filter fun j => j.outs != [] && !s.faultWait (.job j.id)).foldl (fun s j => s.retryOuts j.id) s

/-! ## Status records (R355 to R360) -/

/-- The four parts of DETAIL as 20 bytes of five words (R356). -/
def wordsBytes (ws : List Nat) : List Byte := ((List.range 5).map fun i => leBytes 4 (sat32 (ws.getD i 0))).flatten

/-- DETAIL of form E (R356). -/
def formE (d : ErrDetail) : List Byte :=
  leBytes 2 d.reason ++ leBytes 2 d.object ++ leBytes 2 d.object2 ++ leBytes 2 d.index ++ leBytes 8 d.value ++ leBytes 4 (sat32 d.limit)

/-- DETAIL of form G (R356). -/
def formG (j : Job) : List Byte := leBytes 4 (sat32 j.value0) ++ leBytes 8 j.value1 ++ leBytes 8 j.value2

/-- The detail of a completed command: form E for a status of 0x0100 or above, else its opcode's form (R343, R356). -/
def Job.detail (j : Job) (st : Nat) (d : ErrDetail) : List Byte :=
  if 0x100 ≤ st then formE d else if j.words = [] then formG j else wordsBytes j.words

/-- The 32 bytes of a status record (R355). -/
def Job.record (j : Job) (phase redirected : Bool) : List Byte :=
  let op := pktOpcode j.pkt
  let (st, d) := pickStatus op j.causes
  leBytes 4 j.id.seq ++ leBytes 2 st ++ leBytes 1 op ++
    leBytes 1 (bit1 phase + 2 * bit1 j.wasHeld + 4 * bit1 redirected) ++
    leBytes 4 (j.id.ctx + j.id.queue * 2 ^ 12 + min 16383 (j.holdNs / 1000) * 2 ^ 18) ++ j.detail st d

/-- The status of a command as it stands. -/
def Job.status (j : Job) : Nat := (pickStatus (pktOpcode j.pkt) j.causes).1

/-- How the write of a status record ends: written, not possible at this address (R360), or waiting for a fault. -/
inductive RecRes where
  | done
  | refused
  | wait
  deriving DecidableEq, Repr

/-- Write a status record at a virtual address of the command's context. -/
def State.recordAt (s : State) (c : CmdId) (va : Nat) (bs : List Byte) : State × RecRes :=
  let x := s.cmdSpace c
  let (s, r) := s.xlate x.ctx va true
  match r with
  | .protection _ => (s, .refused)
  | .walkError => (s, .refused)
  | .fault typ seg page pa => (s.faultFor x (s.whoJob c) va true typ seg page pa, .wait)
  | .ok pa g =>
    if s.isLocal pa then
      let s := s.fetchGrant x.ctx (localOf pa)
      if s.granted x.ctx (localOf pa) true then ((s.store pa bs (x.access g .none)).1, .done) else (s.denied x.ctx (localOf pa), .refused)
    else
      match s.remoteSend c x.ctx pa bs.length (some bs) with
      | some s' => (s', .done)
      | none => if s.reachable pa then (s, .wait) else (s, .refused)

/-- The record of a command goes to its queue's own destination: the completion ring, or a STATUS frame (R337, R360, R390). -/
def State.recordOwn (s : State) (j : Job) (redirected : Bool) : State × RecRes :=
  match j.dest with
  | .ring i =>
    match s.ring? i with
    | none => (s, .done)
    | some q =>
      let n := 2 ^ q.log2Entries
      let k := q.completed
      let bs := j.record (k / n % 2 == 0) redirected
      let (s, r) := s.recordAt j.id (q.cqBase + 32 * (k % n)) bs
      match r with
      | .wait => (s, .wait)
      | _ => (s.updRing i fun q => { q with completed := q.completed + 1 }, .done)
  | .fabric o =>
    if s.fab.st = .isolated then (s, .done)
    else
      let f : Frame := { typ := ftStatus, tc := 1, dst := o.node, len := 32, ctx := j.id.ctx, payload := j.record true redirected }
      if s.hasRoute o.node then (((s.sendRouted f).getD s), .done) else (s.sendBack o.port o.back f, .done)

/-- The status record of a command is written (R355, R360). -/
def State.writeStatus (s : State) (j : Job) : State × RecRes :=
  let va := pktReply j.pkt
  if j.recordLost then (s, .done)
  else if va = 0 ∨ j.redirect = true then s.recordOwn j j.redirect
  else
    match s.recordAt j.id va (j.record true false) with
    | (s, .refused) => s.recordOwn j true
    | r => r

/-! ## Closing a sort window (R125, R126) -/

/-- Insert by target and address (R126). -/
def State.insertReq (s : State) (r : MissReq) (l : List MissReq) : List MissReq :=
  match l with
  | [] => [r]
  | x :: rest =>
    let a := targetKey (s.targetOf r.line)
    let b := targetKey (s.targetOf x.line)
    if a < b ∨ (a = b ∧ r.line < x.line) then r :: x :: rest else x :: s.insertReq r rest

/-- One request per line, from the lowest to the highest sector asked for (R126). -/
def mergeReqs (l acc : List MissReq) : List MissReq :=
  match l with
  | [] => acc
  | r :: rest =>
    if acc.any (fun x => x.line == r.line && x.direct == r.direct) then
      mergeReqs rest (acc.map fun x => if x.line = r.line ∧ x.direct = r.direct then { x with lo := min x.lo r.lo, hi := max x.hi r.hi } else x)
    else mergeReqs rest (acc ++ [r])

/-- The requests of a closed window, merged and ordered (R126). -/
def State.windowReqs (s : State) (l : List MissReq) : List MissReq := (mergeReqs l []).foldl (fun l r => s.insertReq r l) []

/-- A window closes: its requests are merged, ordered and handed to issue (R125, R126). -/
def State.closeWindow (s : State) (k : Nat) : State :=
  let x := s.stream k
  s.setStream k { x with window := [], issue := x.issue ++ s.windowReqs x.window }

/-! ## Ending -/

/-- The counters of a completed command (R446). -/
def State.countDone (s : State) (j : Job) : State :=
  (s.countCtx j.id.ctx 0 1).countCtx j.id.ctx (1 + min 4 (statusClass j.status)) 1

/-- Items queued and running on a slice (R119). -/
def State.sliceLoad (s : State) (i : Nat) : Nat :=
  (s.slice i).dispatch.length + ((List.range 8).filter fun n => (s.stream (8 * i + n)).item ≠ none).length

/-- A slice that is left without work has not had work throughout the running interval (R121). -/
def State.noteIdle (s : State) (i : Nat) : State := if s.sliceLoad i = 0 then s.updSlice i fun x => { x with hadWork := false } else s

/-- The slice that a work item is queued or runs on. -/
def WorkItem.slice? (w : WorkItem) : Option Nat :=
  match w.place with
  | .queued n => some n
  | .running k => some (k / 8)
  | _ => none

/-- A stream stops, its command's work gone: the requests of an open window are issued, since other streams may have joined their fills. -/
def State.stopStream (s : State) (k : Nat) : State :=
  let x := s.stream k
  s.setStream k { x with
      st := .idle, item := none, queue := [], fetches := [], window := [], issue := x.issue ++ s.windowReqs x.window
      waitOperand := false, faulted := false, runningRun := false }
    |>.leaveFaults (.operand k) |>.leaveFaults (.rowRef k) |>.closeWait 6 (agentStream k) true none none

/-- The work items of a command leave the slices, and its streams stop (R119, R321). -/
def State.clearItems (s : State) (c : CmdId) : State :=
  let mine := s.items.filter fun w => w.cmd == c
  let ids := mine.map (·.id)
  let s := mine.foldl (fun s w =>
    match w.place with
    | .running k => s.stopStream k
    | _ => s) s
  let s := { s with
    items := s.items.filter fun w => w.cmd != c
    slices := s.slices.map fun e => (e.1, { e.2 with dispatch := e.2.dispatch.filter fun i => !ids.contains i }) }
  (mine.filterMap WorkItem.slice?).foldl State.noteIdle s

/-- The reads of a command of its table sets end: a drain notes who ended last (R192, R452). -/
def State.endReads (s : State) (c : CmdId) : State :=
  match s.job? c with
  | none => s
  | some j =>
    if j.readsEnded then s
    else
      let mine := fun (h : Nat) => j.began && j.epochs.any fun e => e.1 == h
      { s with tsets := s.tsets.map fun (e : Nat × TableSet) =>
          if mine e.1 ∧ e.2.st = TsState.draining then (e.1, { e.2 with apply := e.2.apply.map fun (a : ApplyJob) => { a with lastReader := agentCmd c } }) else e
      }.updJob c fun j => { j with readsEnded := true }

/-- A command ends: its items are gone, and it waits for its acknowledgements (R29). -/
def State.finish (s : State) (c : CmdId) : State :=
  ((s.clearItems c).endReads c).updJob c fun j => { j with phase := .finishing, began := true }

/-- The contributions of a scatter that fails are undone through the same path: their negations are queued as staging adds, and
adds not yet made are dropped (R176). -/
def ScatterJob.rollback (x : ScatterJob) : ScatterJob :=
  { x with
    rolling := true
    adds := x.done.map fun a => { a with vals := a.vals.map fun v => v.map (fun n => -n), occur := -a.occur, trunc := -a.trunc }
    done := [], heavyAdds := [] }

/-- A command fails with a status: outputs not yet written stay unwritten, and a scatter is rolled back (R115, R116, R176). -/
def State.fail (s : State) (c : CmdId) (st : Nat) (d : ErrDetail := {}) : State :=
  ((s.cause c st d).finish c).updJob c fun j =>
    { j with outs := [], scatter := j.scatter.map fun x => if x.rolling then x else x.rollback }

/-- A command completes with a status and no more to do. -/
def State.complete (s : State) (c : CmdId) (st : Nat := stOK) (d : ErrDetail := {}) : State :=
  if st = stOK then s.finish c else (s.cause c st d).finish c

/-- Whether a command that has ended may write its status record: every output acknowledged, every staging add made (R29,
R176). -/
def Job.settled (j : Job) : Bool :=
  j.phase == .finishing && j.acks == 0 && j.outs.isEmpty &&
    (match j.scatter with
     | some x => x.adds.isEmpty
     | none => true)

/-- A SNAPSHOT that completed OK is the image that poisoned rows are restored from (R429). -/
def State.noteSnap (s : State) (j : Job) : State :=
  if pktOpcode j.pkt = opSnapshot ∧ j.status = stOK then
    match desc (pktD0 j.pkt) with
    | .ref va => s.updTset (pktObj j.pkt) fun t => { t with lastSnap := some (va, j.value0) }
    | _ => s
  else s

/-- What else ends with a command: it leaves its table sets' reader lists, its remote requests and its waits. -/
def State.release (s : State) (c : CmdId) (timeout : Bool) : State :=
  let s := s.dropWaits (agentCmd c) timeout
  let s := s.leaveFaults (.job c)
  { s with tsets := s.tsets.map fun (e : Nat × TableSet) => (e.1, { e.2 with members := e.2.members.filter (· ≠ c) }) }.dropJob c

/-- The status record of a command is written once all is acknowledged, and the command is gone (R29, R355). -/
def State.settleJob (s : State) (c : CmdId) : State :=
  match s.job? c with
  | none => s
  | some j =>
    if j.settled ∧ s.faultWait (.job c) = false then
      match s.writeStatus j with
      | (s, .wait) => s
      | (s, _) => ((s.countDone j).noteSnap j).release c false
    else s

/-- What follows every event: holds start and end with the states of the table sets (R194, R203); every command that can write its status
record does, the oldest first (R337); and the feeder deals the arrays that are free (R243). -/
def State.settle (s : State) : State := ((s.jobs.map (·.id)).foldl State.settleJob s.reholdAll).pumpWaiting.dealTiles

/-- An event of the engine, after which commands that are done write their records. -/
def actS (s : State) (f : State → State) : Out := .next (if s.alive then (f s).settle else s)

/-- An event that occurs only when its condition holds; commands that are done then write their records. -/
def actSWhen (s : State) (cond : Bool) (f : State → State) : Out := .next (if s.alive && cond then (f s).settle else s)

end Sys2Proof.Machine
end

