-- ==== Sys2Proof/Machine/Boot.lean ====
section
/-! DEFINITION. Resets and boot (R398, R400 to R407): the image checks, the boot sequence, READY and the boot bounds. -/

namespace Sys2Proof.Machine

/-! ## Images (R400 to R402) -/

/-- The largest image, header included (R400). -/
def imageMax (kind : Nat) : Nat := if kind = 1 then 256 * 2 ^ 10 else 12 * 2 ^ 20

/-- The fields of an image header (R401). -/
def imgFlags (b : List Byte) : Nat := field b 6 2
def imgSvn (b : List Byte) : Nat := field b 8 4
def imgLength (b : List Byte) : Nat := field b 16 4
def imgKey (b : List Byte) : Nat := field b 24 1
def imgPubkey (b : List Byte) : List Byte := (b.drop 32).take 96
def imgSig (b : List Byte) : List Byte := (b.drop 128).take 96

/-- The signed bytes: bytes 0 to 127 of the header, then LENGTH bytes of code (R401). -/
def imgSigned (b : List Byte) : List Byte := b.take 128 ++ (b.drop 256).take (imgLength b)

/-- Rule 1 of R402. -/
def imgHeaderOk (kind : Nat) (b : List Byte) : Bool :=
  decide (256 ≤ b.length) && field b 0 4 == 0x5E02B007 && field b 4 1 == kind && field b 5 1 == 1 && bitsOf (imgFlags b) 15 1 == 0 &&
    zeroRange b 25 7 && zeroRange b 224 32 && decide (256 + imgLength b ≤ imageMax kind) && decide (256 + imgLength b ≤ b.length)

/-- Rule 2 of R402, its two parts: the key's digest is that of its slot, and the slot is not revoked. -/
def imgKeyOk (f : Fuses) (b : List Byte) : Bool :=
  decide (imgKey b < 4) && Config.sha384 (imgPubkey b) == f.keyDigests.getD (imgKey b) []
def imgRevoked (f : Fuses) (b : List Byte) : Bool := bitOf f.revoked.toNat (imgKey b)

/-- The fused minimum SVN of a kind. -/
def fuseSvn (f : Fuses) (kind : Nat) : Nat := if kind = 1 then f.plinthSvn else f.armSvn

/-- Rule 4 of R402. -/
def imgSigOk (b : List Byte) : Bool := Config.ecdsaVerify (imgPubkey b) (Config.sha384 (imgSigned b)) (imgSig b)

/-- Whether an image passes verification (R402). -/
def imgPasses (f : Fuses) (kind : Nat) (b : List Byte) : Bool :=
  imgHeaderOk kind b && imgKeyOk f b && !imgRevoked f b && decide (fuseSvn f kind ≤ imgSvn b) && imgSigOk b

/-- The failure code when the last copy fails (R407; log entry 13): a revoked Plinth slot and a low Plinth SVN have codes of
their own. -/
def imgFailCode (f : Fuses) (kind : Nat) (b : List Byte) : Nat :=
  if kind = 2 then 0x05
  else if imgHeaderOk 1 b && imgKeyOk f b && imgRevoked f b then 0x02
  else if imgHeaderOk 1 b && imgKeyOk f b && decide (imgSvn b < fuseSvn f 1) then 0x03
  else 0x01

/-- What the engine keeps of a verified image (R403, R412). -/
def runningImage (b : List Byte) : RunningImage :=
  { svn := imgSvn b, commit := bitOf (imgFlags b) 0, length := imgLength b,
    digest := Config.sha384 (b.take (256 + imgLength b)) }

/-! ## Stages (R404, R407, R421) -/

/-- The stage changes. -/
def State.setStage (s : State) (n : Nat) : State := { s with boot := { s.boot with stage := n, since := s.time } }

/-- Boot stops with a failure code; every fabric port is held with EN clear (R407). -/
def State.bootFail (s : State) (code : Nat) : State :=
  let s := { s with boot := { s.boot with stage := 6, fail := code, since := s.time } }
  allPorts.foldl (fun s p => s.updFport p fun x => { x with en := false, st := .down }) s

/-- The read time of an image at 400 MB/s, in ns (R405, R407). -/
def readNs (length : Nat) : Nat := length * 5 / 2

/-- The context that Plinth creates at boot, with its queue (R406). -/
def bootContext : Context := { part := 63, rights := 0x3F, timeoutMs := 10000, maxQueues := 64, srcMask := 0, resident := true }
def State.createBootContext (s : State) : State :=
  { s.setContext 4095 bootContext with fabqs := s.fabqs ++ [{ ctx := 4095, queue := 0, next := 0 }] }

/-- The cold reset (R398): every register, SRAM, fence and the time base as at reset; fuses and memory stay, and the model's own
queue and free values, and so do the levels at the shed pins (R417). An engine that was fenced rejoins with REJOIN set (R439; log entry 62). -/
def State.coldReset (s : State) : State :=
  { State.reset with pending := s.pending, fresh := s.fresh, mem := s.mem, poison := s.poison, fuses := s.fuses,
                     pw := { rawA := s.pw.rawA, rawB := s.pw.rawB }, fab := { rejoin := s.err.fenced || s.fab.rejoin } }

/-! ## The commands -/

/-- RESET_N: the package asserts RESET_N (R398). -/
def execResetN (s : State) : Out := .next s.coldReset

/-- RESET_N_RELEASE: the AON domain runs and the time base starts at 0 (R404); the shed filters start to time the levels at their pins (R417). -/
def execResetNRelease (s : State) : Out :=
  .next (if s.boot.held then
      { s with time := 0, boot := { s.boot with held := false }, pw := { s.pw with changedA := 0, changedB := 0 } }
    else s)

/-- CTL_PLL_LOCK: the Plinth core leaves reset in the boot ROM, which reads Plinth copy A (R404; log entry 14). -/
def execCtlPllLock (s : State) : Out :=
  actWhen s (!s.boot.ctlLocked && s.boot.stage == 0) fun s =>
    { s with boot := { s.boot with ctlLocked := true, stage := 1, since := s.time } }

/-- PLINTH_IMAGE_READ_DONE: the boot ROM has read and hashed a Plinth copy; Plinth runs when it passes (R400 to R402, R407). -/
def execPlinthImageReadDone (copyB readOk : Bool) (img : List Byte) (s : State) : Out :=
  actWhen s (s.boot.stage == 1 && copyB == s.boot.triedA) fun s =>
    if readOk = false then s.bootFail 0x04
    else if imgPasses s.fuses 1 img then
      let b := { s.boot with
        stage := 2, since := s.time, plinthCopyB := copyB, triedA := false, plinth := some (runningImage img)
        extraNs := s.boot.extraNs + (if copyB then readNs (imgLength img) else 0) }
      { s with boot := b, err := { s.err with beatPlinth := s.time } }
    else if copyB then s.bootFail (imgFailCode s.fuses 1 img)
    else { s with boot := { s.boot with triedA := true } }

/-- CORE_CACHE_PLL_LOCK: CORE and CACHE leave reset, the row cache boot scrub starts, and Plinth reads Armature copy A (R278,
R404). -/
def execCoreCachePllLock (s : State) : Out :=
  actWhen s (s.boot.stage == 2 && !s.boot.coreLocked) fun s =>
    { s with
      boot := { s.boot with coreLocked := true, stage := 3, since := s.time }
      clocks := (s.clocks.run .core s.time).run .cache s.time
      rc := { s.rc with scrubbing := true } }

/-- The LFSR of a bank group as SEED loads it; zero is replaced by 1 (R263). -/
def lfsrLoad (seed : BitVec 32) (g : Nat) : BitVec 32 :=
  let x := seed ^^^ BitVec.ofNat 32 g
  if x = 0 then 1 else x

/-- Every group's LFSR loaded (R263). -/
def State.loadLfsrs (s : State) : State :=
  { s with rc := { s.rc with lfsr := Vector.ofFn fun g => lfsrLoad s.lfsrSeed g.val } }

/-- BOOT_SCRUB_END: every word is zero, every tag clear, P clear and the LFSRs loaded; RC_CTL.READY is set (R278). -/
def execBootScrubEnd (s : State) : Out :=
  actWhen s s.rc.scrubbing fun s =>
    { s with rc := { s.rc with ways := [], plru := [], scrubbing := false } }.loadLfsrs

/-- ARMATURE_IMAGE_READ_DONE: Plinth has read and hashed an Armature copy; when it passes, Plinth creates CTX 4,095 and releases
CC0 to CC3 (R402, R404, R406, R407). -/
def execArmatureImageReadDone (copyB readOk : Bool) (img : List Byte) (s : State) : Out :=
  actWhen s (s.boot.stage == 3 && !s.rc.scrubbing && copyB == s.boot.triedA) fun s =>
    if readOk = false then s.bootFail 0x04
    else if imgPasses s.fuses 2 img then
      let s := { s with boot := { s.boot with
          stage := 4, since := s.time, armCopyB := copyB, triedA := false, arm := some (runningImage img), ccReleased := true
          extraNs := s.boot.extraNs + (if copyB then readNs (imgLength img) else 0) } }
      let s := { s with err := { s.err with beatCc := Vector.replicate 4 s.time, beatPlinth := s.time } }
      s.createBootContext
    else if copyB then s.bootFail (imgFailCode s.fuses 2 img)
    else { s with boot := { s.boot with triedA := true } }

/-- MEM_CAP_FAB_PLL_LOCK: the MEM PLLs lock; a CAP or FAB PLL that does not leaves its port DOWN and is counted (R404, R407). -/
def execMemCapFabPllLock (capNoLock fabNoLock : BitVec 8) (s : State) : Out :=
  actWhen s (s.boot.stage == 4 && !s.boot.memLocked) fun s =>
    let n := ((List.range 8).filter fun i => bitOf capNoLock.toNat i).length + ((List.range 8).filter fun i => bitOf fabNoLock.toNat i).length
    let cap := s.cap.mapIdx fun i (x : CapPort) => { x with noPll := bitOf capNoLock.toNat i }
    let ports := s.fab.ports.mapIdx fun i (x : Port) => { x with noPll := bitOf fabNoLock.toNat i }
    let clocks := ((s.clocks.run .mem s.time).run .cap s.time).run .fab s.time
    { s with boot := { s.boot with memLocked := true }, clocks := clocks, cap := cap, fab := { s.fab with ports := ports } }.countEngine 23 n

/-- POOL_READY: the package signals that the pool is ready, and MC0 to MC31 leave reset (R404). -/
def execPoolReady (s : State) : Out :=
  actWhen s (s.boot.stage == 4 && s.boot.memLocked && !s.boot.poolReady) fun s => { s with boot := { s.boot with poolReady := true } }

/-- The fused minimum rises to the SVN of a running image that has COMMIT_SVN set, and never falls (R403). -/
def svnCommit (fused : Nat) (img : Option RunningImage) : Nat :=
  match img with
  | some r => if r.commit then max fused r.svn else fused
  | none => fused

/-- READY: Armature initialisation ends (R404, R405); Plinth commits the SVNs (R403). -/
def execReady (s : State) : Out :=
  actWhen s (s.boot.stage == 4 && s.boot.poolReady) fun s =>
    { s with
      boot := { s.boot with stage := 5, since := s.time, readyUs := sat16 (s.time / 1000) }
      fuses := { s.fuses with plinthSvn := svnCommit s.fuses.plinthSvn s.boot.plinth, armSvn := svnCommit s.fuses.armSvn s.boot.arm } }

/-- Whether a boot bound of R407 has expired. -/
def State.boundExpired (s : State) (b : BootBound) : Bool :=
  decide (s.boot.stage < 5) &&
    match b with
    | .flashRead => s.boot.stage == 1 || s.boot.stage == 3
    | .poolReady => !s.boot.poolReady && decide (50000000 ≤ s.time)
    | .pllLock => decide (s.boot.since + 1000000 ≤ s.time) &&
        (!s.boot.ctlLocked || (s.boot.stage == 2 && !s.boot.coreLocked) || (s.boot.stage == 4 && !s.boot.memLocked))
    | .ready => decide (60000000 + s.boot.extraNs ≤ s.time)

/-- The failure code of a bound (R407). -/
def boundCode (b : BootBound) : Nat :=
  match b with
  | .flashRead => 0x04
  | .poolReady => 0x06
  | .pllLock => 0x07
  | .ready => 0x08

/-- BOOT_TIMEOUT: a boot bound expires, or a flash read fails (R407). -/
def execBootTimeout (b : BootBound) (s : State) : Out := actWhen s (s.boundExpired b) fun s => s.bootFail (boundCode b)

end Sys2Proof.Machine
end

