-- ==== Sys2Proof/Machine/Rows.lean ====
section
/-! DEFINITION. Tables as the engine reads them: copies and their addresses (R45, R67, R68), the promotion map and the filter (R66
to R69), the patina sketch (R73 to R76), and row values (R53, R55). -/

namespace Sys2Proof.Machine

/-! ## Copies (R45, R47, R67) -/

def TableDesc.fmtOf (d : TableDesc) (c : Copy) : Nat :=
  match c with
  | .cold => d.fmtCold
  | .warm _ => d.fmtWarm
  | .hot _ => d.fmtHot

/-- Elements coded in a copy: r coefficients of an LR row, else E. -/
def TableDesc.coded (d : TableDesc) (f : Nat) : Nat := if f = fcLR then lrRankOf d else d.elems

/-- Encoded bytes of a copy (R47). -/
def TableDesc.sizeOf (d : TableDesc) (c : Copy) : Nat := rowSize (d.fmtOf c) (d.coded (d.fmtOf c)) (groupSize d.group)

/-- The virtual address of a copy (R45, R67), computed in u64 arithmetic. -/
def TableDesc.vaOf (d : TableDesc) (c : Copy) (row : Nat) : Nat :=
  match c with
  | .cold => u64 (d.coldBase + row * d.coldStride)
  | .warm k => u64 (d.warmBase + k * d.warmStride)
  | .hot k => u64 (d.hotBase + k * d.hotStride)

def TableDesc.sideVa (d : TableDesc) (row : Nat) : Nat := u64 (d.sideBase + 16 * row)

/-- Whether the table has a warm or hot tier (R43). -/
def TableDesc.tiered (d : TableDesc) : Bool := d.warmSlots != 0 || d.hotSlots != 0

/-! ## The promotion map and the filter (R66 to R69) -/

/-- The primary and secondary buckets of a row (R66). -/
def TableDesc.buckets (d : TableDesc) (row : Nat) : Nat × Nat :=
  let h := pmHash d.table row
  let b := 2 ^ d.mapLog2
  let p := h % b
  let q := h / 2 ^ 32 % b
  (p, if q = p then Nat.xor q 1 else q)

def TableDesc.bucketVa (d : TableDesc) (j : Nat) : Nat := u64 (d.mapBase + 64 * j)

/-- The filter bits of a row in its table's region (R69). -/
def TableDesc.filterBits (d : TableDesc) (row : Nat) : List Nat :=
  let h := pmHash d.table row
  [h % 2 ^ d.filterLog2, h / 2 ^ 40 % 2 ^ d.filterLog2]

/-- Whether the filter reports a row absent (R69). -/
def Table.filterAbsent (t : Table) (row : Nat) : Bool :=
  t.desc.filterLog2 != 0 && (t.desc.filterBits row).any fun b => !t.filter.contains b

/-- An entry of a bucket (R67). -/
structure MapEntry where
  tier : Nat
  row : Nat
  slot : Nat
  widened : Bool
  ovf : Bool
  valid : Bool
  deriving DecidableEq, Repr

/-- Entry `k` of a bucket's 64 bytes. A TIER of 11, or a reserved bit that is set, makes it invalid (R68). -/
def mapEntry (b : List Byte) (k : Nat) : MapEntry :=
  let lo := field b (16 * k) 8
  let hi := field b (16 * k + 8) 8
  { tier := bitsOf lo 41 40, row := bitsOf lo 39 0, slot := bitsOf hi 35 0, widened := bitOf lo 42, ovf := bitOf lo 47
    valid := bitsOf lo 41 40 != 3 && bitsOf lo 63 48 == 0 && bitsOf lo 46 43 == 0 && bitsOf hi 63 36 == 0 }

/-- The bytes of an entry. -/
def MapEntry.bytes (e : MapEntry) : List Byte :=
  leBytes 8 (e.row + e.tier * 2 ^ 40 + bit1 e.widened * 2 ^ 42 + bit1 e.ovf * 2 ^ 47) ++ leBytes 8 e.slot

/-- What a bucket says of a row: the copy of a valid match; whether it holds an invalid entry; whether the row may be in the
secondary bucket (R68). -/
structure BucketSay where
  found : Option Copy
  entry : Option (Nat × MapEntry) := none
  invalid : Bool
  ovf : Bool
  deriving DecidableEq, Repr

def searchBucket (b : List Byte) (row : Nat) : BucketSay :=
  let es := [0, 1, 2, 3].map fun k => (k, mapEntry b k)
  let hit := es.find? fun e => e.2.valid && e.2.row == row && (e.2.tier == 1 || e.2.tier == 2)
  { found := hit.map fun e => if e.2.tier = 1 then .warm e.2.slot else .hot e.2.slot
    entry := hit
    invalid := es.any fun e => !e.2.valid
    ovf := (mapEntry b 0).ovf }

/-- An entry of a bucket replaced; OVF of entry 0 is kept (R67, R68). -/
def setEntry (b : List Byte) (k : Nat) (e : MapEntry) : List Byte :=
  let keep := if k = 0 then (mapEntry b 0).ovf else false
  b.take (16 * k) ++ { e with ovf := keep || e.ovf }.bytes ++ b.drop (16 * k + 16)

/-- OVF of a bucket written: bit 47 of entry 0's first word. -/
def setOvf (b : List Byte) (v : Bool) : List Byte := putField b 5 1 (field b 5 1 % 128 + 128 * bit1 v)

/-! ## The patina sketch (R73 to R76) -/

/-- The addresses of a row's four counters (R73). -/
def TableDesc.patinaVas (d : TableDesc) (row : Nat) : List Nat :=
  [0, 1, 2, 3].map fun j =>
    u64 (d.patinaBase + 2 * (j * 2 ^ d.patinaLog2 + pmHash d.table (Nat.xor row ((j + 1) * 2 ^ 48)) % 2 ^ d.patinaLog2))

/-- Whether a row is sampled in an epoch (R74). -/
def TableDesc.sampled (d : TableDesc) (row epoch : Nat) : Bool :=
  pmHash d.table (Nat.xor row (epoch * 2 ^ 40)) % 2 ^ d.sampleShift == 0

/-- The candidate list after an increment raised a row's estimate (R76): 64 rows of largest estimate. A row that is in the list takes its new
estimate in place; the entry replaced is the smallest, and among equal smallest ones that of the higher row number, so that the lower one
stays (DEDUCED: log entry 102). -/
def candAdd (l : List (Nat × Nat)) (row est : Nat) : List (Nat × Nat) :=
  if l.any (fun e => e.1 == row) then l.map fun e => if e.1 = row then (row, est) else e
  else if l.length < 64 then l ++ [(row, est)]
  else
    let worse := fun (a b : Nat × Nat) => decide (a.2 < b.2) || (a.2 == b.2 && decide (b.1 < a.1))
    match l with
    | [] => l
    | x :: rest =>
      let m := rest.foldl (fun m e => if worse e m then e else m) x
      if m.2 < est then (l.erase m) ++ [(row, est)] else l

/-! ## Row values (R53, R55, R241) -/

/-- The elements of a copy whose format is not LR, with its side entry (R53, R55). -/
def TableDesc.values (d : TableDesc) (f : Nat) (bytes : List Byte) (side : Option (List Byte)) : List Deq :=
  mergeSide d (deqRow f (groupSize d.group) d.elems d.coarse bytes) side

/-- Reads of a row that saturate or are not finite are counted (R53). -/
def State.countReads (s : State) (t : Nat) (l : List Deq) : State :=
  (s.countTable t 4 (l.filter (·.sat)).length).countTable t 5 (l.filter (·.bad)).length

/-- Whether a row's value can be encoded (R476): nothing in it is a NaN or an infinity. -/
def encodable (l : List Deq) : Bool := l.all fun x => !x.bad && f32Finite x.val

/-- ACTION of the record of an uncorrectable error in a table's structure: a map bucket is reconstructed, a sketch sector only counted,
staging aborts, and rows and optimiser state are poisoned (R428, R430; log entry 60). -/
def ueAction (cls : Nat) : Nat := if cls = 2 then 3 else if cls = 3 then 12 else if cls = 4 then 11 else 4

/-- The space of accesses to a table's structures: the owner's context, the issuing command's partition (R478, R299). -/
def State.tableSpace (s : State) (t : Table) (c : CmdId) (cls source : Nat) : Space :=
  { ctx := t.owner, part := s.partOf c.ctx, cls := cls, source := source
    ue := { code := 0x0007, action := ueAction cls, table := t.desc.table, tset := t.tset } }

/-- A space whose records name a row. -/
def Space.ofRow (x : Space) (row action : Nat) : Space := { x with ue := { x.ue with row := row, action := action } }

/-- The space of the feeder's reads of weights and bias (R218, R258, R320). -/
def State.weightSpace (s : State) (c : CmdId) (w : WeightSet) : Space := { ctx := w.owner, part := s.partOf c.ctx, cls := 6, source := 4, holder := some feederHolder }

/-- Bytes of a column tile of a weight set, as the feeder reads it (R220). -/
def State.readTile (s : State) (c : CmdId) (w : WeightSet) (t : Nat) : State × Rd :=
  s.readVa c (s.weightSpace c w) (s.whoJob c) (u64 (w.base + t * w.tileStride)) w.tileBytes

/-- The columns of a weight set from its tiles. -/
def columnsOf (w : WeightSet) (tiles : List (List Byte)) (n : Nat) : List (List OpGroup) :=
  (List.range n).map fun j => weightColumn w (tiles.getD (j / 128) []) (j % 128)

/-- The columns of one column tile of a weight set. -/
def tileColumns (w : WeightSet) (tile : List Byte) (t : Nat) : List (List OpGroup) :=
  (List.range (min 128 (w.n - 128 * t))).map (weightColumn w tile)

/-! ## Lost rows -/

/-- The owner of a table. -/
def State.ownerOf (s : State) (t : Nat) : Nat := ((s.table? t).map (·.owner)).getD 0

/-- The physical address of a row in a record: of its cold copy, or of its optimiser state; 0 when it has no translation (R424; log
entry 57). -/
def State.rowPa (s : State) (t row : Nat) (stateOnly : Bool) : Nat :=
  match s.table? t with
  | none => 0
  | some x =>
    let va := match x.opt, stateOnly with
      | some o, true => u64 (o.stateBase + row * o.stateStride)
      | _, _ => x.desc.vaOf .cold row
    match (s.xlate x.owner va false).2 with
    | .ok pa _ => pa
    | _ => 0

/-- A row whose data is lost (R428, R429): marked once, with record 0x001B. -/
def State.poisonRow (s : State) (t row : Nat) (stateOnly : Bool) : State :=
  if s.poisoned.any (fun p => p.table == t && p.row == row && (p.stateOnly == stateOnly || stateOnly)) then s
  else
    let set := ((s.table? t).map (·.tset)).getD 0xFFFF
    let snap := (s.tset? set).bind (·.lastSnap)
    let s := s.errorRecord { code := 0x001B, action := 4, ctx := s.ownerOf t, addr := s.rowPa t row stateOnly, table := t, tset := set, row := row,
                             detail := if snap = none then 1 else 0 }
    let p : PoisonedRow := { table := t, row := row, stateOnly := stateOnly, requestedAt := if snap = none then none else some s.time,
                             snapEpoch := (snap.map (·.2)).getD 0, stuck := snap = none }
    let s := { s with poisoned := (s.poisoned.filter fun p => !(p.table == t && p.row == row)) ++ [p] }
    match snap with
    | some (img, _) => s.send (.ckptRequest t row img)
    | none => s

/-- A row one of whose copies is to be re-encoded in the next window (R428). -/
def State.markRepair (s : State) (t row : Nat) (cold : Bool) : State :=
  s.updTable t fun x => if x.repairs.contains (row, cold) then x else { x with repairs := x.repairs ++ [(row, cold)] }

/-- A bucket to rebuild in the next window (R430). -/
def State.markBucket (s : State) (t j : Nat) : State :=
  s.updTable t fun x => if x.badBuckets.contains j then x else { x with badBuckets := x.badBuckets ++ [j] }

end Sys2Proof.Machine
end

