-- ==== Sys2Proof/WellFormed.lean ====
section
/-! DEFINITION. Which commands are well formed: every number fits the field the spec gives it. -/

namespace Sys2Proof

/-- A command's name: CTX of 12 bits, QUEUE of 6, SEQ of 32 (R340, R453). -/
def CmdId.wf (c : CmdId) : Bool := decide (c.ctx < 2 ^ 12) && decide (c.queue < 2 ^ 6) && decide (c.seq < 2 ^ 32)

/-- Legal operands: CHKS names a check and a width, POS a selector, and LOOP leaves zero the field its form does not use
(R90 rule 12, R93). -/
def SInstr.wf (i : SInstr) : Bool :=
  match i with
  | .chks _ width kind => width != 3 && kind != 0
  | .pos _ sel => sel != 3
  | .loop _ imm a count _ => if imm then a == 0 else count == 0
  | _ => true

/-- A register offset: a whole word inside the 16 MiB window (R7, R8). -/
def offsetWf (off : Nat) : Bool := decide (off < 2 ^ 24) && decide (off % 4 = 0)

/-- A frame: each header field within its width (R377). -/
def Frame.wf (f : Frame) : Bool :=
  decide (f.etype < 2 ^ 16) && decide (f.ver < 2 ^ 8) && decide (f.typ < 2 ^ 8) && decide (f.tc < 4) && decide (f.rstat < 16) &&
    decide (f.hops < 8) && decide (f.hopIdx < 8) && decide (f.dst < 2 ^ 16) && decide (f.src < 2 ^ 16) &&
    decide (f.route.length ≤ 6) && f.route.all (fun b => decide (b < 256)) && decide (f.len < 2 ^ 16) &&
    decide (f.lseq < 2 ^ 16) && decide (f.lack < 2 ^ 16) && decide (f.ctx < 2 ^ 16) && decide (f.tag < 2 ^ 16) &&
    decide (f.addr < 2 ^ 64)

/-- Well-formedness of a command. -/
def Instr.wf (i : Instr) : Bool :=
  match i with
  | .nop c | .gather c | .gatherSeq c | .scatterGrad c | .applyEpoch c | .project c | .loadPlan c | .unloadPlan c
  | .mapSegment c | .invalidate c | .contextCreate c | .contextDelete c | .queueCreate c | .queueDelete c | .grant c
  | .armWeights c | .promoList c | .expander c | .poolShare c | .attest c | .setNode c | .routeSet c | .routeClear c
  | .neighbours c | .shardSet c | .port c | .snapshot c | .restore c | .setEnvelope c | .queryCounters c | .traceCtl c
  | .waitGraph c | .drain c | .join c | .dbgNonce c | .dbgOpen c | .dbgClose c | .dbgRead c | .pass2Start c | .stagingAdd c
  | .heavyRowFlush c | .commandTimeout c | .layerStart c | .tileEnd (.cmd c) _ => c.wf
  | .enterDraining h | .enterWriting h | .enterCommitting h => decide (h < 2 ^ 16)
  | .walkComplete ctx _ _ => decide (ctx < 2 ^ 12)
  | .memoryWriteAck line _ | .wcEntryAge line | .readSnoop line | .invalidatingSnoop line
  | .coherenceRegistrationAccept line => decide (line < 2 ^ 64) && decide (line % 256 = 0)
  | .restoreTimeout t row | .checkpointServiceReply t row _ _ _ _ => decide (t < 2 ^ 16) && decide (row < 2 ^ 40)
  | .cmd _ f | .status _ f | .rdReq _ f | .rdResp _ f | .wrReq _ f | .wrAck _ f | .credit _ f | .ack _ f | .hello _ f
  | .loss _ f | .unreachable _ f | .joinReq _ f | .regRd _ f | .regWr _ f | .regResp _ f | .badFrame _ _ f => f.wf
  | .lowWordRead _ off | .highWordWrite _ off _ | .lowWordWrite _ off _ | .registerWrite _ off _ => offsetWf off
  | _ => true

end Sys2Proof
end

