-- ==== Sys2Proof/Machine/Isa.lean ====
section
/-! DEFINITION. The encodings of the stream instructions (R93), and the decoder of
image words. -/

namespace Sys2Proof.Machine

/-- Formats of R93. -/
def encRR (op d a b low : Nat) : BitVec 32 := BitVec.ofNat 32 (op * 2 ^ 26 + d * 2 ^ 22 + a * 2 ^ 18 + b * 2 ^ 14 + low)
def encRI (op d a imm : Nat) : BitVec 32 := BitVec.ofNat 32 (op * 2 ^ 26 + d * 2 ^ 22 + a * 2 ^ 18 + imm)
def encLI (op d imm : Nat) : BitVec 32 := BitVec.ofNat 32 (op * 2 ^ 26 + d * 2 ^ 22 + imm)
def encBR (op a b t : Nat) : BitVec 32 := BitVec.ofNat 32 (op * 2 ^ 26 + a * 2 ^ 22 + b * 2 ^ 18 + t)
def encLP (lc imm a count last : Nat) : BitVec 32 :=
  BitVec.ofNat 32 (0x28 * 2 ^ 26 + lc * 2 ^ 24 + imm * 2 ^ 23 + a * 2 ^ 19 + count * 2 ^ 6 + last)
def encPT (op d port chk : Nat) : BitVec 32 := BitVec.ofNat 32 (op * 2 ^ 26 + d * 2 ^ 22 + port * 2 ^ 20 + chk * 2 ^ 19)

/-- The word of a stream instruction (R93). -/
def encodeS (i : SInstr) : BitVec 32 :=
  match i with
  | .ldi d imm => encLI 0x01 d imm.toNat
  | .ldh d imm pos => encLI 0x02 d (pos.toNat * 2 ^ 20 + imm.toNat)
  | .mov d a => encRR 0x03 d a 0 0
  | .add d a b => encRR 0x08 d a b 0
  | .sub d a b => encRR 0x09 d a b 0
  | .mul d a b => encRR 0x0A d a b 0
  | .mulhu d a b => encRR 0x0B d a b 0
  | .and d a b => encRR 0x0C d a b 0
  | .or d a b => encRR 0x0D d a b 0
  | .xor d a b => encRR 0x0E d a b 0
  | .minu d a b => encRR 0x0F d a b 0
  | .shl d a b => encRR 0x10 d a b 0
  | .shr d a b => encRR 0x11 d a b 0
  | .addi d a imm => encRI 0x14 d a imm.toNat
  | .andi d a imm => encRI 0x15 d a imm.toNat
  | .shli d a sh => encRI 0x16 d a sh.toNat
  | .shri d a sh => encRI 0x17 d a sh.toNat
  | .hmul d a b sh => encRR 0x18 d a b sh.toNat
  | .hmix d a seed => encRI 0x19 d a seed.toNat
  | .cross d a b seed => encRR 0x1A d a b seed.toNat
  | .chks d width kind => encRR 0x1C d 0 0 (width.toNat * 2 ^ 4 + kind.toNat)
  | .chkr d a b => encRR 0x1D d a b 0
  | .ldx d port chk => encPT 0x20 d port (bit1 chk)
  | .ldw port => encPT 0x21 0 port 0
  | .len d => encPT 0x22 d 0 0
  | .pos d sel => encRR 0x23 d 0 0 sel.toNat
  | .loop lc imm a count last => encLP lc (bit1 imm) a count.toNat last.toNat
  | .beq a b t => encBR 0x29 a b t.toNat
  | .bne a b t => encBR 0x2A a b t.toNat
  | .bltu a b t => encBR 0x2B a b t.toNat
  | .bgeu a b t => encBR 0x2C a b t.toNat
  | .bv a t => encBR 0x2D a 0 t.toNat
  | .br t => encBR 0x2E 0 0 t.toNat
  | .emit a => encRR 0x30 a 0 0 0
  | .bagend t => encBR 0x31 0 0 t.toNat
  | .pref a => encRR 0x32 a 0 0 0
  | .run a => encRR 0x33 a 0 0 0
  | .mode a => encRR 0x38 a 0 0 0
  | .modet t => encRR 0x39 0 0 0 t.toNat
  | .stop => encRR 0x3F 0 0 0 0

/-- Fields of a word (R93). -/
def fD (w : BitVec 32) : Fin 16 := ⟨w.toNat / 2 ^ 22 % 16, Nat.mod_lt _ (by decide)⟩
def fA (w : BitVec 32) : Fin 16 := ⟨w.toNat / 2 ^ 18 % 16, Nat.mod_lt _ (by decide)⟩
def fB (w : BitVec 32) : Fin 16 := ⟨w.toNat / 2 ^ 14 % 16, Nat.mod_lt _ (by decide)⟩
def fPort (w : BitVec 32) : Fin 4 := ⟨w.toNat / 2 ^ 20 % 4, Nat.mod_lt _ (by decide)⟩
def fLpA (w : BitVec 32) : Fin 16 := ⟨w.toNat / 2 ^ 19 % 16, Nat.mod_lt _ (by decide)⟩
def fT (w : BitVec 32) : BitVec 6 := BitVec.ofNat 6 (w.toNat % 2 ^ 6)

/-- The instruction whose opcode and fields a word holds, reserved fields not yet judged. -/
def fieldsS (w : BitVec 32) : Option SInstr :=
  let d := fD w
  let a := fA w
  let b := fB w
  let t := fT w
  let imm18 := BitVec.ofNat 18 (w.toNat % 2 ^ 18)
  let seed := BitVec.ofNat 14 (w.toNat % 2 ^ 14)
  match w.toNat / 2 ^ 26 with
  | 0x01 => some (.ldi d (BitVec.ofNat 22 (w.toNat % 2 ^ 22)))
  | 0x02 => some (.ldh d (BitVec.ofNat 16 (w.toNat % 2 ^ 16)) (BitVec.ofNat 2 (w.toNat / 2 ^ 20 % 4)))
  | 0x03 => some (.mov d a)
  | 0x08 => some (.add d a b)
  | 0x09 => some (.sub d a b)
  | 0x0A => some (.mul d a b)
  | 0x0B => some (.mulhu d a b)
  | 0x0C => some (.and d a b)
  | 0x0D => some (.or d a b)
  | 0x0E => some (.xor d a b)
  | 0x0F => some (.minu d a b)
  | 0x10 => some (.shl d a b)
  | 0x11 => some (.shr d a b)
  | 0x14 => some (.addi d a imm18)
  | 0x15 => some (.andi d a imm18)
  | 0x16 => some (.shli d a t)
  | 0x17 => some (.shri d a t)
  | 0x18 => some (.hmul d a b t)
  | 0x19 => some (.hmix d a seed)
  | 0x1A => some (.cross d a b seed)
  | 0x1C => some (.chks d (BitVec.ofNat 2 (w.toNat / 2 ^ 4 % 4)) (BitVec.ofNat 2 (w.toNat % 4)))
  | 0x1D => some (.chkr d a b)
  | 0x20 => some (.ldx d (fPort w) (bitOf w.toNat 19))
  | 0x21 => some (.ldw (fPort w))
  | 0x22 => some (.len d)
  | 0x23 => some (.pos d (BitVec.ofNat 2 (w.toNat % 4)))
  | 0x28 =>
    let lc := w.toNat / 2 ^ 24 % 4
    if h : lc < 3 then some (.loop ⟨lc, h⟩ (bitOf w.toNat 23) (fLpA w) (BitVec.ofNat 13 (w.toNat / 2 ^ 6 % 2 ^ 13)) t) else none
  | 0x29 => some (.beq d a t)
  | 0x2A => some (.bne d a t)
  | 0x2B => some (.bltu d a t)
  | 0x2C => some (.bgeu d a t)
  | 0x2D => some (.bv d t)
  | 0x2E => some (.br t)
  | 0x30 => some (.emit d)
  | 0x31 => some (.bagend t)
  | 0x32 => some (.pref d)
  | 0x33 => some (.run d)
  | 0x38 => some (.mode d)
  | 0x39 => some (.modet (BitVec.ofNat 2 (w.toNat % 4)))
  | 0x3F => some .stop
  | _ => none

/-- The instruction of an image word: none when the opcode is not defined or a reserved field is not zero (R90 rules 1 and 12,
R93). A word is legal exactly when it is the encoding of a well-formed instruction. -/
def decodeS (w : BitVec 32) : Option SInstr :=
  match fieldsS w with
  | none => none
  | some i => if i.wf && encodeS i == w then some i else none

end Sys2Proof.Machine
end

