-- ==== Sys2Proof/Machine/StreamOps.lean ====
section
/-! DEFINITION. What a stream instruction does to the stream's architectural state and what it sends to the pointing stage (R79 to
R101, R107 to R109, R115). The rows of the instructions and the passes of a scatter share it. -/

namespace Sys2Proof.Machine

/-! ## Registers and void bits (R82, R83) -/

def Arch.reg (a : Arch) (i : Fin 16) : BitVec 64 := a.g[i]
def Arch.void (a : Arch) (i : Fin 16) : Bool := bitOf a.v.toNat i.val

/-- A void bit set or cleared. -/
def voidSet (v : BitVec 16) (i : Fin 16) (b : Bool) : BitVec 16 :=
  let m := BitVec.ofNat 16 (2 ^ i.val)
  if b then v ||| m else v &&& ~~~m

/-- Write Gd and Vd. -/
def Arch.put (a : Arch) (d : Fin 16) (x : BitVec 64) (void : Bool) : Arch := { a with g := a.g.set d x, v := voidSet a.v d void }

/-! ## Mixing functions (R94) -/

def mixRound (x : BitVec 64) : BitVec 64 :=
  let x := (x ^^^ (x >>> 32)) * 0xD2B74407B1CE6E93
  let x := (x ^^^ (x >>> 29)) * 0xCA5A826395121157
  x ^^^ (x >>> 32)

def hmixFn (a : BitVec 64) (seed : BitVec 14) : BitVec 64 := mixRound (a ^^^ (seed.zeroExtend 64 * 0x9F4A7C15B3E12D87))

def crossFn (a b : BitVec 64) (seed : BitVec 14) : BitVec 64 :=
  let r := (b <<< 27) ||| (b >>> 37)
  hmixFn (a ^^^ (r * 0xE7037ED1A0B428DB)) seed

/-! ## The mode word (R84) -/

def modeTsel (m : BitVec 32) : Nat := bitsOf m.toNat 27 26
def modeWeighted (m : BitVec 32) : Bool := bitOf m.toNat 25
def modeWfmt (m : BitVec 32) : Nat := bitsOf m.toNat 23 20
def modeWidth (m : BitVec 32) (p : Nat) : Nat := bitsOf m.toNat (3 * p + 1) (3 * p)
def modeSigned (m : BitVec 32) (p : Nat) : Bool := bitOf m.toNat (3 * p + 2)

/-- Entry width in bytes of a port. -/
def widthBytes (w : Nat) : Nat := if w = 0 then 2 else if w = 1 then 4 else 8

/-- A mode word with no reserved field set and no reserved value (R84, R115 detail 5). -/
def modeOk (m : BitVec 32) : Bool :=
  bitsOf m.toNat 31 28 == 0 && !bitOf m.toNat 24 && bitsOf m.toNat 19 12 == 0 && decide (modeWfmt m ≤ 2) &&
    modeWidth m 0 != 3 && modeWidth m 1 != 3 && modeWidth m 2 != 3 && modeWidth m 3 != 3

/-! ## Operand ports (R86, R87) -/

/-- What a program is bound to: its fan-out, its port uses, the bag offsets and the table slots of its command. -/
structure SEnv where
  fan : Nat := 1
  portUse : Nat := 0
  offs : List Nat := []
  /-- table number of slots 0 to 3; none for a slot the command leaves unused (R98) -/
  slots : List (Option Nat) := []
  src : Src := ⟨⟨0, 0, 0⟩, 0, 0⟩
  deriving DecidableEq, Repr

/-- PORT_USE of P1 to P3: 0 unused, 1 ENTRY, 2 BAG (R89). -/
def portUseOf (pu p : Nat) : Nat := bitsOf pu (2 * p - 1) (2 * p - 2)

/-- The entry that a load of a port reads, by its index in the operand: none when there is none (R86, R87). -/
def portIndex (env : SEnv) (a : Arch) (p : Nat) : Option Nat :=
  if p = 0 then (if a.entry < a.entryEnd then some (a.base + a.entry) else none)
  else if portUseOf env.portUse p = 1 then a.cur.map (a.base + ·)
  else if portUseOf env.portUse p = 2 then some a.bag
  else none

/-- The position change of a load of P0: the entry becomes current and the ordinal advances; at the end of the piece there is
no current entry (R80, R86, R87). -/
def Arch.afterLoad (a : Arch) (p : Nat) : Arch :=
  if p = 0 then
    if a.entry < a.entryEnd then { a with cur := some a.entry, k := 0, entry := a.entry + 1 } else { a with cur := none }
  else a

/-- All ones at an entry width. -/
def allOnes (bytes : Nat) : Nat := 2 ^ (8 * bytes) - 1

/-- An entry extended to 64 bits by SIGNED (R86). -/
def extendEntry (raw bytes : Nat) (sgn : Bool) : BitVec 64 :=
  if sgn && decide (2 ^ (8 * bytes - 1) ≤ raw) then BitVec.ofNat 64 (raw + (2 ^ 64 - 2 ^ (8 * bytes))) else BitVec.ofNat 64 raw

/-- The check of a load: all ones, or negative when SIGNED (R86). -/
def entryVoid (raw bytes : Nat) (sgn : Bool) : Bool := raw == allOnes bytes || (sgn && decide (2 ^ (8 * bytes - 1) ≤ raw))

/-- The weight formed from an entry as read (R86). -/
def weightOf (wfmt raw : Nat) : F32 :=
  if wfmt = 0 then BitVec.ofNat 32 raw
  else if wfmt = 1 then BitVec.ofNat 32 (raw % 2 ^ 16 * 2 ^ 16)
  else toF32 .nearest (h16Value raw)

/-! ## What an instruction sends -/

/-- How an instruction ends: it retires with a new state, sending items and perhaps ending the work item; or a program error
(R115). -/
inductive SOut where
  | retire (a : Arch) (items : List QItem) (ended : Bool)
  | error (detail : Nat)
  deriving DecidableEq, Repr

/-- The jump back or end of the loop that ends at instruction `i`, after its own effects (R96). -/
def loopEnd (a : Arch) (i : BitVec 6) (n : Nat) : Arch :=
  if h : n < 3 then
    let l := a.lc[n]
    if l.active && l.last == i then
      let c := l.count - 1
      if c ≠ 0 then { a with lc := a.lc.set n { l with count := c }, pc := l.start }
      else { a with lc := a.lc.set n { l with count := c, active := false } }
    else a
  else a

/-- Retire the instruction at PC: the next PC, and the loops that end here (R96). -/
def Arch.retire (a : Arch) : Arch :=
  let i := a.pc
  loopEnd (loopEnd (loopEnd { a with pc := i + 1 } i 0) i 1) i 2

/-- The effect of an instruction that only computes (R83, R93 to R95); others leave the registers. -/
def aluEff (env : SEnv) (i : SInstr) (r : Arch) : Arch :=
  match i with
  | .ldi d imm => r.put d (imm.signExtend 64) false
  | .ldh d imm pos =>
    let sh := 16 * pos.toNat
    { r with g := r.g.set d ((r.reg d &&& ~~~((0xFFFF : BitVec 64) <<< sh)) ||| (imm.zeroExtend 64 <<< sh)) }
  | .mov d a => r.put d (r.reg a) (r.void a)
  | .add d a b => r.put d (r.reg a + r.reg b) (r.void a || r.void b)
  | .sub d a b => r.put d (r.reg a - r.reg b) (r.void a || r.void b)
  | .mul d a b => r.put d (r.reg a * r.reg b) (r.void a || r.void b)
  | .mulhu d a b => r.put d (BitVec.ofNat 64 ((r.reg a).toNat * (r.reg b).toNat / 2 ^ 64)) (r.void a || r.void b)
  | .and d a b => r.put d (r.reg a &&& r.reg b) (r.void a || r.void b)
  | .or d a b => r.put d (r.reg a ||| r.reg b) (r.void a || r.void b)
  | .xor d a b => r.put d (r.reg a ^^^ r.reg b) (r.void a || r.void b)
  | .minu d a b => r.put d (if (r.reg a).toNat ≤ (r.reg b).toNat then r.reg a else r.reg b) (r.void a || r.void b)
  | .shl d a b => r.put d (r.reg a <<< ((r.reg b).toNat % 64)) (r.void a || r.void b)
  | .shr d a b => r.put d (r.reg a >>> ((r.reg b).toNat % 64)) (r.void a || r.void b)
  | .addi d a imm => r.put d (r.reg a + imm.signExtend 64) (r.void a)
  | .andi d a imm => r.put d (r.reg a &&& imm.zeroExtend 64) (r.void a)
  | .shli d a sh => r.put d (r.reg a <<< sh.toNat) (r.void a)
  | .shri d a sh => r.put d (r.reg a >>> sh.toNat) (r.void a)
  | .hmul d a b sh => r.put d ((r.reg a * r.reg b) >>> sh.toNat) (r.void a || r.void b)
  | .hmix d a seed => r.put d (hmixFn (r.reg a) seed) (r.void a)
  | .cross d a b seed => r.put d (crossFn (r.reg a) (r.reg b) seed) (r.void a || r.void b)
  | .chks d width kind =>
    let n := widthBytes width.toNat
    let low := (r.reg d).toNat % 2 ^ (8 * n)
    let hit := (bitOf kind.toNat 0 && low == allOnes n) || (bitOf kind.toNat 1 && bitOf (r.reg d).toNat (8 * n - 1))
    { r with v := voidSet r.v d (r.void d || hit) }
  | .chkr d a b =>
    { r with v := voidSet r.v d (r.void d || decide ((r.reg b).toNat ≤ (r.reg a).toNat) || r.void a || r.void b) }
  | .len d => r.put d (BitVec.ofNat 64 (r.entryEnd - r.entry)) false
  | .pos d sel =>
    r.put d (BitVec.ofNat 64
      (if sel = 0 then r.bag else if sel = 1 then r.entry
       else env.offs.getD (r.bag + 1) 0 - env.offs.getD r.bag 0)) false
  | .modet t => { r with mode := (r.mode &&& ~~~(0x0C000000 : BitVec 32)) ||| (t.zeroExtend 32 <<< 26) }
  | _ => r

/-- Start a hardware loop, or skip it when its count is 0 (R96). -/
def loopStart (a : Arch) (lc : Fin 3) (count : Nat) (last : BitVec 6) : Arch :=
  if count = 0 then { a with pc := last + 1 }
  else { a with lc := a.lc.set lc { count := BitVec.ofNat 32 count, start := a.pc + 1, last := last, active := true }, pc := a.pc + 1 }

/-- LDX of a port whose entry is `raw` (R86): none when there is no entry (R87). -/
def ldxEff (r : Arch) (d : Fin 16) (p : Nat) (chk : Bool) (raw : Option Nat) : Arch :=
  let n := widthBytes (modeWidth r.mode p)
  let sgn := modeSigned r.mode p
  let r' := r.afterLoad p
  match raw with
  | none => r'.put d (BitVec.ofNat 64 (2 ^ 64 - 1)) true
  | some x => r'.put d (extendEntry x n sgn) (chk && entryVoid x n sgn)

/-- LDW of a port (R86): an absent entry reads as all ones at the port's width. -/
def ldwEff (r : Arch) (p : Nat) (raw : Option Nat) : Arch :=
  let n := widthBytes (modeWidth r.mode p)
  { r.afterLoad p with w := weightOf (modeWfmt r.mode) (raw.getD (allOnes n)) }

/-- The reference that EMIT sends (R98). -/
def emitRef (env : SEnv) (r : Arch) (a : Fin 16) (e : Nat) : RowRef :=
  let slot := (env.slots.getD (modeTsel r.mode) none)
  { src := env.src, bag := r.bag, pos := e * env.fan + r.k, table := slot, row := (r.reg a).toNat,
    weight := if modeWeighted r.mode then r.w else 0x3F800000, valid := !r.void a && slot.isSome }

/-- The reference that RUN sends for one entry (R100). -/
def runRef (env : SEnv) (r : Arch) (a : Fin 16) (raw wraw : Nat) : RowRef :=
  let n := widthBytes (modeWidth r.mode 0)
  let sgn := modeSigned r.mode 0
  let slot := (env.slots.getD (modeTsel r.mode) none)
  { src := env.src, bag := r.bag, pos := r.entry * env.fan, table := slot, row := (extendEntry raw n sgn + r.reg a).toNat,
    weight := if modeWeighted r.mode then weightOf (modeWfmt r.mode) wraw else 0x3F800000
    valid := !r.void a && slot.isSome && !entryVoid raw n sgn, single := false }

/-- Whether RUN may run: WEIGHTED needs P1 as an ENTRY port (R100, R115 detail 7). -/
def runOk (env : SEnv) (r : Arch) : Bool := !modeWeighted r.mode || portUseOf env.portUse 1 == 1

/-- One entry of a RUN: its reference is emitted and the ordinal advances (R100, R109). -/
def runOne (env : SEnv) (r : Arch) (a : Fin 16) (raw wraw : Nat) : Arch × RowRef :=
  ({ r with entry := r.entry + 1 }, runRef env r a raw wraw)

/-- RUN retires when no entry is left (R100). -/
def runEnd (r : Arch) : Arch := { r with cur := none, w := 0x3F800000, pc := r.pc + 1 }

/-- The bag state when the stream moves to the next bag (R99, R114). -/
def nextBag (env : SEnv) (r : Arch) (t : BitVec 6) : Arch :=
  let b := r.bag + 1
  { r with bag := b, bagsLeft := r.bagsLeft - 1, entry := 0, cur := none, k := 0, base := env.offs.getD b 0
           entryEnd := env.offs.getD (b + 1) 0 - env.offs.getD b 0, pc := t }

/-- BAGEND (R99). -/
def bagendEff (env : SEnv) (r : Arch) (t : BitVec 6) : SOut :=
  if 1 < r.bagsLeft then .retire (nextBag env r t) [.bagEnd env.src r.bag] false
  else .retire { r with bagsLeft := 0 } [.bagEnd env.src r.bag] true

/-- STOP: the current bag and every later one are closed (R99). It does not stall on a full reference queue, as EMIT, RUN and BAGEND do: its marks
enter the queue at once (R104; DESIGN CHOICE: log entry 114). -/
def stopEff (env : SEnv) (r : Arch) : SOut :=
  .retire { r with bagsLeft := 0, bag := r.bag + (r.bagsLeft - 1) } ((List.range r.bagsLeft).map fun i => .bagEnd env.src (r.bag + i)) true

/-- EMIT (R98). -/
def emitEff (env : SEnv) (r : Arch) (a : Fin 16) : SOut :=
  match r.cur with
  | none => .error 2
  | some e => if r.k = env.fan then .error 1 else .retire { r with k := r.k + 1 }.retire [.ref (emitRef env r a e)] false

/-- MODE (R84, R115). -/
def modeEff (r : Arch) (a : Fin 16) : SOut :=
  let m := (r.reg a).truncate 32
  if modeOk m then .retire { r with mode := m }.retire [] false else .error 5

/-- LOOP (R96). -/
def loopEff (r : Arch) (lc : Fin 3) (imm : Bool) (a : Fin 16) (count : BitVec 13) (last : BitVec 6) : SOut :=
  if imm then .retire (loopStart r lc count.toNat last) [] false
  else if r.void a ∨ 2 ^ 32 ≤ (r.reg a).toNat then .error 4
  else .retire (loopStart r lc (r.reg a).toNat last) [] false

/-- A branch (R97). -/
def branchEff (r : Arch) (taken : Bool) (t : BitVec 6) : SOut := .retire { r with pc := if taken then t else r.pc + 1 } [] false

/-- Whether a branch is taken (R93). -/
def branchTaken (r : Arch) (i : SInstr) : Bool :=
  match i with
  | .beq a b _ => r.reg a == r.reg b
  | .bne a b _ => r.reg a != r.reg b
  | .bltu a b _ => decide ((r.reg a).toNat < (r.reg b).toNat)
  | .bgeu a b _ => decide ((r.reg b).toNat ≤ (r.reg a).toNat)
  | .bv a _ => r.void a
  | .br _ => true
  | _ => false

/-- What an instruction that reads no port does (R93). RUN is not here: it goes entry by entry. -/
def plainEff (env : SEnv) (i : SInstr) (r : Arch) : SOut :=
  match i with
  | .loop lc imm a count last => loopEff r lc imm a count last
  | .beq _ _ t | .bne _ _ t | .bltu _ _ t | .bgeu _ _ t | .bv _ t | .br t => branchEff r (branchTaken r i) t
  | .emit a => emitEff env r a
  | .bagend t => bagendEff env r t
  | .stop => stopEff env r
  | .mode a => modeEff r a
  | i => .retire (aluEff env i r).retire [] false

/-- Whether an instruction ends the run of instructions counted by the budget (R115, detail 3). -/
def resetsBudget (i : SInstr) : Bool :=
  match i with
  | .ldx _ p _ => p == 0
  | .ldw p => p == 0
  | .emit _ => true
  | .run _ => true
  | .bagend _ => true
  | _ => false

/-- The state of a stream at the start of a work item (R85, R114). -/
def startArch (env : SEnv) (cmd : CmdId) (handle gen : Nat) (mode0 : BitVec 32) (sc : List Nat) (firstBag bags : Nat)
    (piece : Option (Nat × Nat)) : Arch :=
  let base := env.offs.getD firstBag 0
  let len := env.offs.getD (firstBag + 1) 0 - base
  { g := Vector.ofFn fun i => if i.val < 8 then 0 else BitVec.ofNat 64 (sc.getD (i.val - 8) 0)
    v := 0, w := 0x3F800000, mode := mode0, bag := firstBag, bagsLeft := bags
    entry := (piece.map (·.1)).getD 0, entryEnd := (piece.map (·.2)).getD len, base := base
    gen := gen, handle := handle, cmd := cmd }

end Sys2Proof.Machine
end

