-- ==== Sys2Proof/Machine/Issue.lean ====
section
/-! DEFINITION. Streams at work: their translations (R88, R316 to R319), operand loads (R86), halts (R105, R106, R110), the sort window
(R125, R126), and the end of work items and gathers (R99, R115, R131). -/

namespace Sys2Proof.Machine

/-! ## Work items and streams -/

/-- The environment of a program of a command (R79, R89). -/
def Job.env (j : Job) (fan portUse : Nat) (src : Src) : SEnv :=
  { fan := fan, portUse := portUse, offs := j.offs, slots := j.slots, src := src }

/-- The descriptor of a port (R342, R343, R346). -/
def Job.portDesc (j : Job) (p : Nat) : Nat := if p = 0 then pktD0 j.pkt else j.bag.ports.getD (p - 1) 0

/-- The job and the environment of the work item on a stream. -/
def State.streamEnv (s : State) (k : Nat) : Option (Job × SEnv) :=
  let x := s.stream k
  match x.item with
  | none => none
  | some i =>
    (s.job? x.arch.cmd).map fun j => (j, j.env (2 ^ x.fanLog2) x.portUse.toNat ⟨x.arch.cmd, i, x.arch.gen⟩)

/-- Work items that cover a bag of a command (R78, R133). -/
def State.covering (s : State) (c : CmdId) (b : Nat) : List WorkItem :=
  s.items.filter fun w => decide (w.cmd = c) && decide (w.firstBag ≤ b) && decide (b < w.firstBag + w.bags)

/-! ## Translation for a stream (R316 to R319) -/

/-- How a stream's translation stands: an address, a wait for a walk, a fault, or an end of the work item. -/
inductive SX where
  | ok (pa : Nat) (g : Segment)
  | walking
  | fault (typ seg page pa : Nat)
  | stop (st why : Nat)
  deriving DecidableEq, Repr

/-- A walk is started or joined (R318). -/
def State.startWalk (s : State) (ctx seg page va : Nat) (w : XWaiter) : State :=
  if s.walks.any (fun x => x.ctx == ctx && x.seg == seg && x.page == page) then
    { s with walks := s.walks.map fun x =>
        if x.ctx = ctx ∧ x.seg = seg ∧ x.page = page ∧ x.joiners.contains w = false then { x with joiners := x.joiners ++ [w] } else x }
  else { s with walks := s.walks ++ [{ ctx := ctx, seg := seg, page := page, write := false, va := va, joiners := [w] }] }

/-- A landed translation as a stream meets it. -/
def sxOf (r : XRes) : SX :=
  match r with
  | .ok pa g => .ok pa g
  | .fault typ seg page pa => .fault typ seg page pa
  | .protection why => .stop stProtection why
  | .walkError => .stop stWalkError 0

/-- Translate a read of a stream: first level, second level, else a walk that the stream waits for (R316, R318). -/
def State.sxlate (s : State) (k ctx va : Nat) (w : XWaiter) : State × SX :=
  match s.segCheck ctx va false with
  | (none, r) => (s, sxOf r)
  | (some (i, g), _) =>
    let n := pageNo g va
    match (s.slice (k / 8)).tlb.find? (fun e => e.covers ctx i n false) with
    | some e => (s, sxOf (s.landed i g va (e.translate g va)))
    | none =>
      match s.tlb2Hit ctx i n false with
      | some e => (s.tlb1Fill (k / 8) e, sxOf (s.landed i g va (e.translate g va)))
      | none => (s.startWalk ctx i n va w, .walking)

/-- The fault record of a stream (R320): source 0 for an operand, 1 for a row reference. -/
def State.streamFault (s : State) (k source ctx va typ seg page pa : Nat) (w : XWaiter) : State :=
  let x := s.stream k
  s.raiseFault { typ := typ, source := source, ctx := ctx, seg := seg, page := page, va := va, write := false, gen := x.arch.gen,
                 whereIs := k / 8 * 16 + k % 8, pa := pa, cmdSeq := x.arch.cmd.seq, joiner := w }

/-! ## The sort window (R125, R126) -/

/-- AGE_NS of a slice (R128). -/
def State.sortAge (s : State) (slice : Nat) : Nat := min 4096 (s.regf (0x100C0 + 0x1000 * slice) 12 0)

/-- The sector requests of a miss enter their stream's window, or are issued at once when no window is held; the window closes when it holds
512, or while the stream's references wait on a fault (R125). -/
def State.addMiss (s : State) (k : Nat) (rs : List MissReq) : State :=
  let x := s.stream k
  let age := if x.window = [] then s.sortAge (k / 8) else x.windowAge
  let at_ := if x.window = [] then s.time else x.windowAt
  let s := s.setStream k { x with window := x.window ++ rs, windowAge := age, windowAt := at_ }
  if age = 0 ∨ 512 ≤ x.window.length + rs.length ∨ x.faulted = true then s.closeWindow k else s

/-! ## The state of a stream -/

def State.setStreamSt (s : State) (k : Nat) (st : StreamState) : State := s.updStream k fun x => { x with st := st }

/-- The instruction at PC, as held in the program store (R91). -/
def Stream.word (x : Stream) : BitVec 32 := x.prog.getD x.arch.pc.toNat 0

/-- Whether the word at PC sends to the reference queue: EMIT, RUN or BAGEND (R104, R110). -/
def Stream.atSend (x : Stream) : Bool :=
  let op := x.word.toNat / 2 ^ 26
  op == 0x30 || op == 0x31 || op == 0x33

/-- A reference of the stream meets a fault: its references are held, and a stream already stalled at a full queue halts
(R110). -/
def State.holdRefs (s : State) (k : Nat) : State :=
  let x := s.stream k
  let halted := x.atSend && decide (32 ≤ x.queue.length) && x.st == .running
  (s.setStream k { x with faulted := true, st := if halted then .halted else if x.st = .running then .held else x.st }).closeWindow k

/-- What an item leaves in the lanes is taken back (R113, R434): its entries in bags that are not done. -/
def BagAcc.without (b : BagAcc) (i : Nat) : BagAcc :=
  { leaves := b.leaves.filter (·.item ≠ i), kept := b.kept.filter (·.1 ≠ i), ended := b.ended.filter (· ≠ i),
    drops := b.drops.filter (· ≠ i), recon := b.recon.filter (· ≠ i), poison := b.poison.filter (·.1 ≠ i) }

/-- Take an item's entries out of the bags of its command that are not done. -/
def State.rollItem (s : State) (c : CmdId) (i : Nat) : State :=
  s.updJob c fun j => { j with bags := j.bags.map fun e => if j.bagsDone.contains e.1 then e else (e.1, e.2.without i) }

/-- Fetches of a stream that are given up no longer wait for reads (R113). -/
def State.dropFetchers (s : State) (k : Nat) (gone : Nat → Bool) : State :=
  let out := fun (w : Joiner) => w.stream == k && gone w.fetch
  let fills := s.rc.fills.map fun (f : Fill) => { f with joiners := f.joiners.filter fun w => !out w }
  let s := { s with rc := { s.rc with fills := fills, direct := s.rc.direct.filter fun e => !out e.2 } }
  s.updSlice (k / 8) fun x => { x with reqs := x.reqs.filter fun r => !out r.who }

/-- Nothing of a stream waits for fills (R113). -/
def State.dropJoiners (s : State) (k : Nat) : State := s.dropFetchers k fun _ => true

/-- A stream is emptied: its queue, fetches and windows are discarded. Memory requests that have no other use are dropped; those of
fills that others joined keep their place in the issue list. -/
def State.clearStream (s : State) (k : Nat) : State :=
  let x := s.stream k
  let s := ((s.dropJoiners k).leaveFaults (.operand k)).leaveFaults (.rowRef k)
  let s := s.closeWait 6 (agentStream k) true none none
  s.setStream k { issue := x.issue ++ s.windowReqs x.window }

/-- An item that has ended and whose references and rows are all through is done; its slice's work ends with it (R78, R121). -/
def State.drainItem (s : State) (k : Nat) : State :=
  let x := s.stream k
  match x.item with
  | none => s
  | some i =>
    if x.st = .idle ∧ x.queue = [] ∧ x.fetches = [] then
      ((s.updItem i fun w => { w with place := .done, committed := none, pending := none }).setStream k { x with item := none }).noteIdle (k / 8)
    else s

/-! ## Operand loads (R86 to R88) -/

/-- What a load of a port finds: the entry as read, a wait, a halt, or an end of the work item. -/
inductive PR where
  | ok (raw : Option Nat)
  | walking
  | halt
  | stop (st : Nat) (d : ErrDetail)
  deriving DecidableEq, Repr

/-- Read the entry of a port (R86, R342): in line, or from memory in the command's context. -/
def State.portRead (s : State) (k : Nat) (j : Job) (env : SEnv) (a : Arch) (p : Nat) : State × PR :=
  match portIndex env a p with
  | none => (s, .ok none)
  | some i =>
    let n := widthBytes (modeWidth a.mode p)
    match desc (j.portDesc p) with
    | .inline base len => (s, .ok (some (leNat (inlineBytes j.pkt base len (i * n) n))))
    | .ref va0 =>
      let va := va0 + i * n
      let ctx := j.id.ctx
      match s.sxlate k ctx va (.operand k) with
      | (s, .walking) => (s, .walking)
      | (s, .fault typ seg page pa) => (s.streamFault k 0 ctx va typ seg page pa (.operand k), .halt)
      | (s, .stop st why) => (s, .stop st { reason := why, value := va, object := 0xFFFF })
      | (s, .ok pa g) =>
        match s.readPhys j.id ((s.cmdSpace j.id).access g .none) pa n with
        | (s, .ok bs) => (s, .ok (some (leNat bs)))
        | (s, .bad _) => (s, .stop stAborted { value := va })
        | (s, .stop st d) => (s, .stop st d)
        | (s, .wait) => (s, .walking)
    | _ => (s, .ok (some (allOnes n)))

/-! ## The end of a gather -/

/-- The end of a gather that is not fused: its counts and its status (R131, R148, R356). -/
def State.endGather (s : State) (c : CmdId) : State :=
  match s.job? c with
  | none => s
  | some j =>
    let t0 := (s.table? (pktObj j.pkt)).map (·.tset)
    let epoch := match j.epochs.find? (fun e => some e.1 == t0) with
      | some e => e.2
      | none => 0
    let s := s.updJob c fun j =>
      { j with words := [j.drops, j.trunc, sat16 j.clamp + 2 ^ 16 * sat16 j.recon, j.empty, epoch] }
    let s := if j.drops = 0 ∧ j.empty = 0 then s else s.cause c stDrops
    let s := if j.clamp = 0 then s else s.cause c stClamped
    (s.endReads c).finish c

/-- A gather whose items are done and whose bags are formed ends; a fused one goes on with its projection (R131, R233). -/
def State.checkGather (s : State) (c : CmdId) : State :=
  match s.job? c with
  | none => s
  | some j =>
    if j.phase = .running ∧ s.itemsDone c = true ∧ j.bagsAll = true ∧ flFused j.pkt = false then s.endGather c else s

/-- Something of a work item has left its stream: the item may be done, and its command may end (R78, R131). -/
def State.itemOut (s : State) (k : Nat) (c : CmdId) : State := (s.drainItem k).checkGather c

/-- The bag of a queue element. -/
def QItem.bag (q : QItem) : Nat :=
  match q with
  | .ref r => r.bag
  | .bagEnd _ b => b

/-- The bag of the oldest element of a stream's queue. -/
def State.frontBag (s : State) (k : Nat) : Nat :=
  match (s.stream k).queue with
  | q :: _ => q.bag
  | [] => (s.stream k).arch.bag

/-- A work item is aborted with a status from bag `b` on: these bags produce no output. The bags before it are closed: what they have
queued and fetched goes on to the lanes; and the command's other items go on (R99, R115, R116; log entry 54). -/
def State.abortFrom (s : State) (k b : Nat) (st : Nat) (d : ErrDetail) : State :=
  let x := s.stream k
  match x.item with
  | none => s
  | some i =>
    let c := x.arch.cmd
    let s := s.cause c st d
    let s := match s.item? i with
      | none => s
      | some w => s.updJob c fun j =>
          { j with bagsLost := j.bagsLost ++ ((List.range w.bags).map (· + w.firstBag)).filter fun n =>
              decide (b ≤ n) && !j.bagsDone.contains n && !j.bagsLost.contains n }
    let queue := x.queue.filter fun q => decide (q.bag < b)
    let gone := (x.fetches.filter fun (f : Fetch) => decide (b ≤ f.ref.bag)).map (·.id)
    let s := (s.dropFetchers k fun n => gone.contains n).leaveFaults (.operand k)
    let s := if x.faulted ∧ queue ≠ [] then s else (s.leaveFaults (.rowRef k)).closeWait 6 (agentStream k) true none none
    let s := s.updStream k fun x =>
      { x with
        st := .idle, queue := queue, fetches := x.fetches.filter fun (f : Fetch) => decide (f.ref.bag < b)
        waitOperand := false, runningRun := false, faulted := x.faulted && queue != [] }
    (s.closeWindow k).itemOut k c

/-- A work item is aborted at the bag that its stream has open (R115, R116). -/
def State.abortItem (s : State) (k : Nat) (st : Nat) (d : ErrDetail) : State := s.abortFrom k (s.stream k).arch.bag st d

/-- A work item is aborted at the oldest element of its stream's queue (R116). -/
def State.abortFront (s : State) (k : Nat) (st : Nat) (d : ErrDetail) : State := s.abortFrom k (s.frontBag k) st d

/-! ## Checkpoints (R112, R432) -/

/-- The pending checkpoint of an item commits when every bag before it is formed. -/
def State.commitCheckpoints (s : State) (c : CmdId) : State :=
  match s.job? c with
  | none => s
  | some j =>
    { s with items := s.items.map fun (w : WorkItem) =>
        if w.cmd = c then
          match w.pending with
          | some p => if (List.range (p.bag - w.firstBag)).all (fun i => j.bagsDone.contains (w.firstBag + i) || j.bagsLost.contains (w.firstBag + i))
              then { w with committed := some p, pending := none } else w
          | none => w
        else w }

/-! ## Issue (R103 to R105) -/

/-- Whether a stream may issue the instruction at its PC, and it is the one given (R103). -/
def State.issuable (s : State) (k : Nat) (i : SInstr) : Bool :=
  let x := s.stream k
  x.item != none && (x.st == .running || x.st == .held) && !x.waitOperand && !(s.slice (k / 8)).lost && x.word == encodeS i

/-- The architectural result of an instruction on its stream: state, references, the budget, and the end of the item. -/
def State.applyOut (s : State) (k : Nat) (i : SInstr) (o : SOut) : State :=
  let x := s.stream k
  match o with
  | .error d => s.abortItem k stProgram { reason := d, value := x.arch.bag }
  | .retire a items ended =>
    let budget := if resetsBudget i then 0 else x.budget + 1
    if 65536 ≤ budget then s.abortItem k stProgram { reason := 3, value := x.arch.bag }
    else
      let refs := (items.filter fun q => match q with
        | .ref _ => true
        | .bagEnd _ _ => false).length
      let s := if refs = 0 then s else s.streamWork k refs
      if ended then
        (s.setStream k { x with arch := a, queue := x.queue ++ items, budget := budget, st := .idle, runningRun := false }).closeWindow k
      else
        let s := s.setStream k { x with arch := a, queue := x.queue ++ items, budget := budget, runningRun := false }
        match i, x.item with
        | .bagend _, some it => (s.updItem it fun w => { w with pending := some a }).commitCheckpoints a.cmd
        | _, _ => s

/-- An instruction that reads no port and sends nothing. -/
def State.issuePlain (s : State) (k : Nat) (i : SInstr) : State :=
  match s.streamEnv k with
  | none => s
  | some (_, env) => if s.issuable k i then s.applyOut k i (plainEff env i (s.stream k).arch) else s

/-- EMIT and BAGEND: they stall while the queue is full, and halt while references are held (R104, R110). -/
def State.issueSend (s : State) (k : Nat) (i : SInstr) : State :=
  match s.streamEnv k with
  | none => s
  | some (_, env) =>
    let x := s.stream k
    if s.issuable k i then
      if x.faulted then (s.setStreamSt k .halted).closeWindow k
      else if 32 ≤ x.queue.length then s
      else s.applyOut k i (plainEff env i x.arch)
    else s

/-- A load: the port's entry, or a wait, a halt, or an end of the item (R86 to R88, R116). -/
def State.issueLoad (s : State) (k : Nat) (i : SInstr) (p : Nat) (eff : Arch → Option Nat → Arch) : State :=
  match s.streamEnv k with
  | none => s
  | some (j, env) =>
    let x := s.stream k
    if s.issuable k i then
      match s.portRead k j env x.arch p with
      | (s, .ok raw) => s.applyOut k i (.retire (eff x.arch raw).retire [] false)
      | (s, .walking) => s.updStream k fun x => { x with waitOperand := (s.walks.any fun w => w.joiners.contains (.operand k)) }
      | (s, .halt) => (s.setStreamSt k .halted).closeWindow k
      | (s, .stop st d) => s.abortItem k st d
    else s

/-- The ports whose WIDTH a mode change alters (R108). -/
def changedPorts (a b : BitVec 32) : List Nat := [0, 1, 2, 3].filter fun p => modeWidth a p != modeWidth b p

/-- The refill of the ports of a changed mode: the entry at each port's ordinal is read under the new mode (R108). -/
def State.refillPorts (s : State) (k : Nat) (j : Job) (env : SEnv) (a : Arch) (ps : List Nat) : State × PR :=
  match ps with
  | [] => (s, .ok none)
  | p :: rest =>
    if p ≠ 0 ∧ portUseOf env.portUse p = 0 then s.refillPorts k j env a rest
    else
      match s.portRead k j env a p with
      | (s, .ok _) => s.refillPorts k j env a rest
      | r => r

/-- MODE (R84, R108, R115). -/
def State.issueMode (s : State) (k : Nat) (i : SInstr) (ra : Fin 16) : State :=
  match s.streamEnv k with
  | none => s
  | some (j, env) =>
    let x := s.stream k
    if s.issuable k i then
      match modeEff x.arch ra with
      | .error d => s.applyOut k i (.error d)
      | .retire a items e =>
        match s.refillPorts k j env { x.arch with mode := a.mode } (changedPorts x.arch.mode a.mode) with
        | (s, .ok _) => s.applyOut k i (.retire a items e)
        | (s, .walking) => s.updStream k fun x => { x with waitOperand := (s.walks.any fun w => w.joiners.contains (.operand k)) }
        | (s, .halt) => (s.setStreamSt k .halted).closeWindow k
        | (s, .stop st d) => s.abortItem k st d
    else s

/-- Entries of a RUN, up to the room in the queue: each emits its reference (R100, R109). -/
def State.runLoop (s : State) (k : Nat) (j : Job) (env : SEnv) (ra : Fin 16) (fuel : Nat) : State :=
  match fuel with
  | 0 => s
  | fuel + 1 =>
    let x := s.stream k
    let a := x.arch
    if a.entry < a.entryEnd then
      if 32 ≤ x.queue.length then s
      else
        match s.portRead k j env a 0 with
        | (s, .ok raw) =>
          let (s, w) := if modeWeighted a.mode then s.portRead k j env { a with cur := some a.entry } 1 else (s, .ok (some 0))
          match w with
          | .ok wraw =>
            let ones := allOnes (widthBytes (modeWidth a.mode 1))
            let (a', r) := runOne env a ra (raw.getD 0) (wraw.getD ones)
            let x := s.stream k
            ((s.setStream k { x with arch := a', queue := x.queue ++ [.ref r], runningRun := true }).streamWork k 1).runLoop k j env ra fuel
          | .walking => s.updStream k fun x => { x with waitOperand := (s.walks.any fun w => w.joiners.contains (.operand k)) }
          | .halt => (s.setStreamSt k .halted).closeWindow k
          | .stop st d => s.abortItem k st d
        | (s, .walking) => s.updStream k fun x => { x with waitOperand := (s.walks.any fun w => w.joiners.contains (.operand k)) }
        | (s, .halt) => (s.setStreamSt k .halted).closeWindow k
        | (s, .stop st d) => s.abortItem k st d
    else s.setStream k { x with arch := runEnd a, runningRun := false, budget := 0 }

/-- RUN (R100, R109, R110, R115). -/
def State.issueRun (s : State) (k : Nat) (ra : Fin 16) : State :=
  match s.streamEnv k with
  | none => s
  | some (j, env) =>
    let x := s.stream k
    if s.issuable k (.run ra) then
      if x.faulted then (s.setStreamSt k .halted).closeWindow k
      else if runOk env x.arch = false then s.applyOut k (.run ra) (.error 7)
      else s.runLoop k j env ra 33
    else s

end Sys2Proof.Machine
end

