-- ==== Sys2Proof/Machine/Pool.lean ====
section
/-! DEFINITION. Pooling: contributions (R130), the canonical tree (R132 to R134), the modes (R137 to R141), deterministic pooling
(R142 to R144), output conversion (R146) and the outputs of a bag. -/

namespace Sys2Proof.Machine

/-! ## The canonical tree (R132) -/

/-- The canonical sum of the leaves at positions [lo, lo + 2^h), none when all are absent. -/
def canonTree (ls : List (Nat × F32)) (lo h : Nat) : Option F32 :=
  match h with
  | 0 => (ls.head?).map (·.2)
  | h + 1 =>
    if ls = [] then none
    else
      let mid := lo + 2 ^ h
      match canonTree (ls.filter fun e => decide (e.1 < mid)) lo h, canonTree (ls.filter fun e => decide (mid ≤ e.1)) mid h with
      | none, b => b
      | a, none => a
      | some a, some b => some (addOdd a b)

/-! ## Values of an element -/

/-- A contribution of one element: position, table, exact-or-not value, and its F32 (R130). -/
structure Contrib where
  pos : Nat
  table : Nat
  val : F32
  exact : FVal
  deriving DecidableEq, Repr

/-- The contribution of a leaf to element `i` (R130): in WSUM the product, rounded to odd in floating pooling. -/
def contribOf (wsum : Bool) (l : Leaf) (i : Nat) : Contrib :=
  let v := l.vals.getD i 0
  let x := if wsum then (f32Value l.weight).mul (f32Value v) else f32Value v
  { pos := l.pos, table := l.table, val := if wsum then toF32 .odd x else v, exact := x }

/-- Rank of MAX and TOPK: NaN above every number, +∞ above every finite number, −0 equal to +0 (R138). -/
def rankBelow (a b : FVal) : Bool :=
  match a, b with
  | .nan, _ => false
  | _, .nan => true
  | .inf n, .inf m => n && !m
  | .inf n, .fin _ => n
  | .fin _, .inf m => !m
  | .fin x, .fin y => x.lt y

/-- Insert a contribution by descending rank; among equal ranks the lower position stands first (R138, R139). -/
def rankInsert (c : Contrib) (l : List Contrib) : List Contrib :=
  match l with
  | [] => [c]
  | x :: rest => if rankBelow x.exact c.exact || (!rankBelow c.exact x.exact && decide (c.pos < x.pos)) then c :: x :: rest else x :: rankInsert c rest

/-- The k highest contributions (R139). -/
def topK (k : Nat) (l : List Contrib) : List Contrib := (l.foldl (fun acc c => rankInsert c acc) []).take k

/-- An element as it is before output conversion: a value, or an X64 sum kept exact; its position where the mode has one; and the
table a non-finite or clamped output counts against. -/
structure Elem where
  val : FVal
  f32 : Option F32 := none
  sum : Option Int := none
  pos : Nat := 0xFFFFFFFF
  table : Option Nat := none
  deriving DecidableEq, Repr

/-- Plus zero. -/
def elemZero : Elem := { val := .fin .zero, f32 := some 0 }

/-- The table of the lowest position whose contribution is not finite (R134). -/
def badTable (l : List Contrib) : Option Nat :=
  (l.filter fun c => !c.exact.isFin).foldl (fun (m : Option (Nat × Nat)) c =>
    match m with
    | some (p, t) => if c.pos < p then some (c.pos, c.table) else some (p, t)
    | none => some (c.pos, c.table)) none |>.map (·.2)

/-- The table of the lowest kept position (R62). -/
def lowTable (l : List Contrib) : Option Nat :=
  l.foldl (fun (m : Option (Nat × Nat)) c =>
    match m with
    | some (p, t) => if c.pos < p then some (c.pos, c.table) else some (p, t)
    | none => some (c.pos, c.table)) none |>.map (·.2)

/-- x ÷ √n, exact enough for one rounding (R137). -/
def rsqrtOf (x : FVal) (n : Nat) : FVal :=
  match x with
  | .fin a => .fin { (Exact.sqrt ((a.mul a).abs.div (.ofNat n))) with neg := a.neg }
  | v => v

/-- The value of an element in SUM, MEAN, WSUM and RSQRT with floating pooling (R137). `h` is the height of the tree. -/
def floatElem (mode h : Nat) (l : List Contrib) : Elem :=
  match canonTree (l.map fun c => (c.pos, c.val)) 0 h with
  | none => elemZero
  | some s =>
    let v := f32Value s
    let n := l.length
    let r := if mode = 1 then toF32 .odd (v.div (.fin (.ofNat n))) else if mode = 6 then toF32 .odd (rsqrtOf v n) else s
    { val := f32Value r, f32 := some r, table := lowTable l }

/-! ## Deterministic pooling (R142 to R144) -/

/-- An aligned contribution: its integer, whether it was clamped, whether a non-zero value was truncated to 0; none when it is not
finite (R142). -/
def alignX64 (t : Int) (v : FVal) : Option Int × Bool × Bool :=
  match v with
  | .fin x =>
    let y := x.mul (.pow2 (39 - t))
    if 2 ^ 39 * y.den ≤ y.num then (some (if x.neg then -(2 ^ 39 - 1) else 2 ^ 39 - 1), true, false)
    else
      let q := roundInt .zero y
      (some q, false, q == 0 && !x.isZero)
  | _ => (none, false, false)

/-- S × 2^(T − 39) (R143). -/
def x64Value (t s : Int) : Exact := (Exact.ofInt s).mul (.pow2 (t - 39))

/-- The sum of aligned values; none when one is not finite. -/
def sumAligned (l : List (Option Int)) : Option Int :=
  l.foldl (fun a x => match a, x with
    | some a, some x => some (a + x)
    | _, _ => none) (some 0)

/-- The value of an element with deterministic pooling, and its clamped and truncated contributions (R142 to R144). -/
def detElem (mode : Nat) (t : Int) (l : List Contrib) : Elem × Nat × Nat :=
  let al := l.map fun c => alignX64 t c.exact
  let clamp := (al.filter (·.2.1)).length
  let trunc := (al.filter (·.2.2)).length
  match sumAligned (al.map (·.1)) with
  | none => ({ val := .nan, f32 := some f32NaN, table := lowTable l }, clamp, trunc)
  | some s =>
    let v : FVal := .fin (x64Value t s)
    let n := l.length
    let r := if n = 0 then .fin .zero else if mode = 1 then v.div (.fin (.ofNat n)) else if mode = 6 then rsqrtOf v n else v
    ({ val := r, f32 := some (toF32 .odd r), sum := some s, table := lowTable l }, clamp, trunc)

/-! ## Output conversion (R146) -/

/-- Bytes of an output element. -/
def outWidth (f : Nat) : Nat := if f = 0 then 4 else if f = 9 then 8 else 2

/-- The canonical quiet NaN of an output format, or the X64 NaN (R144, R146). -/
def outNaN (f : Nat) : Nat := if f = 0 then 0x7FC00000 else if f = 1 then 0x7FC0 else if f = 2 then 0x7E00 else 0x8000000000000000

/-- An element converted to an output format toward zero, and whether it was clamped (R62, R146). -/
def convertOut (f : Nat) (e : Elem) : Nat × Bool :=
  if f = 9 then
    match e.sum with
    | some s => ((s % 2 ^ 64).toNat, false)
    | none => (match e.val with
      | .fin _ => 0
      | _ => outNaN 9, false)
  else
    match e.val with
    | .nan => (outNaN f, false)
    | .inf n => (if f = 0 then (if n then 0xFF800000 else 0x7F800000) else if f = 1 then (if n then 0xFF80 else 0x7F80) else if n then 0xFC00 else 0x7C00, false)
    | .fin x => (if f = 0 then fmtF32 else if f = 1 then fmtB16 else fmtH16).round .zero x

/-! ## The outputs of a bag -/

/-- The pooled result of a bag: elements in the order of R141, positions where the mode has them, mask words, counts. -/
structure BagOut where
  elems : List Elem
  posns : List Nat := []
  mask : List Nat := []
  clamp : Nat := 0
  trunc : Nat := 0
  /-- table of each element that is not finite before output conversion (R134) -/
  bad : List Nat := []
  deriving DecidableEq, Repr

/-- Bit `p` of the mask of a CONCAT bag, packed in words (R140). -/
def maskWords (kept : List Nat) (len : Nat) : List Nat :=
  (List.range (ceilDiv len 32)).map fun w => (kept.filter fun p => p / 32 == w).dedup.foldl (fun a p => a + 2 ^ (p % 32)) 0

/-- What a command asks of its bags. -/
structure PoolSpec where
  mode : Nat
  k : Nat := 1
  elems : Nat
  det : Bool := false
  winT : Int := 0
  deriving DecidableEq, Repr

/-- Pool a bag of `len` positions (R132, R137 to R143). -/
def poolBag (p : PoolSpec) (len : Nat) (leaves : List Leaf) (kept : List Nat) : BagOut :=
  let contribs := fun i => leaves.map fun l => contribOf (p.mode == 3) l i
  let elems := List.range p.elems
  if p.mode = 5 then
    let out := (List.range len).map fun pos =>
      match leaves.find? (·.pos == pos) with
      | some l => elems.map fun i =>
          let v := l.vals.getD i 0
          ({ val := f32Value v, f32 := some v, table := some l.table } : Elem)
      | none => elems.map fun _ => elemZero
    let es := out.flatten
    { elems := es, mask := maskWords kept len, bad := (es.filter fun e => !e.val.isFin).filterMap (·.table) }
  else if p.mode = 2 ∨ p.mode = 4 then
    let k := if p.mode = 2 then 1 else p.k
    let cols := elems.map fun i => topK k (contribs i)
    let slots := (List.range k).map fun j => cols.map fun c =>
      match (c.drop j).head? with
      | some x => ({ val := x.exact, f32 := some x.val, pos := x.pos, table := some x.table } : Elem)
      | none => elemZero
    let es := slots.flatten
    { elems := es, posns := es.map (·.pos)
      bad := ((List.range k).map fun j => (cols.zip elems).filterMap fun (c, i) =>
        match (c.drop j).head? with
        | some x => if x.exact.isFin then none else badTable (contribs i)
        | none => none).flatten }
  else if p.det then
    let rs := elems.map fun i => detElem p.mode p.winT (contribs i)
    { elems := rs.map (·.1), clamp := (rs.map (·.2.1)).foldl (· + ·) 0, trunc := (rs.map (·.2.2)).foldl (· + ·) 0
      bad := (rs.zip elems).filterMap fun (r, i) => if r.1.val.isFin then none else badTable (contribs i) }
  else
    let h := clog2 len
    let rs := elems.map fun i => floatElem p.mode h (contribs i)
    { elems := rs, bad := (rs.zip elems).filterMap fun (r, i) => if r.val.isFin then none else badTable (contribs i) }

/-- The value bytes of a bag in an output format, with the table of each clamped element (R62, R146). -/
def outBytes (f : Nat) (es : List Elem) : List Byte × List Nat :=
  let cs := es.map fun e => (convertOut f e, e.table)
  ((cs.map fun c => leBytes (outWidth f) c.1.1).flatten, cs.filterMap fun c => if c.1.2 then c.2 else none)

/-! ## Bags of a job -/

/-- Elements per row of a command's tables (R149): those of T0. -/
def State.elemsOf (s : State) (j : Job) : Nat := ((s.table? (pktObj j.pkt)).map (·.desc.elems)).getD 1

/-- Positions of the longest bag (R346). -/
def Job.longest (j : Job) : Nat := (List.range (j.offs.length - 1)).foldl (fun m b => max m (j.bagLen b)) 0

/-- The pooling that a gather asks for (R137, R345, R346). -/
def State.poolSpec (s : State) (j : Job) : PoolSpec :=
  let mode := opMode j.pkt
  { mode := mode, k := opKm1 j.pkt + 1, elems := s.elemsOf j
    det := flDeterministic j.pkt && (mode == 0 || mode == 1 || mode == 3 || mode == 6), winT := j.bag.winT }

/-- Entries of one bag's value area (R141, R346). -/
def State.bagEntries (s : State) (j : Job) : Nat :=
  let e := s.elemsOf j
  let mode := opMode j.pkt
  if mode = 4 then (opKm1 j.pkt + 1) * e else if mode = 5 then j.longest * e else e

/-- The address of bag `b` in an area: its stride, or packed (R346). -/
def areaAt (base stride packed b : Nat) : Nat := base + b * (if stride = 0 then packed else stride)

/-- The virtual address a descriptor names. -/
def refVa (d : Nat) : Option Nat :=
  match desc d with
  | .ref va => some va
  | _ => none

/-- The slice whose write tags the outputs of a bag take: that of a stream that runs a work item of it (R22, R133; log entry 8). -/
def State.bagHolder (s : State) (c : CmdId) (b : Nat) : Option Nat :=
  (s.covering c b).findSome? fun w => match w.place with
    | .running k => some (k / 8)
    | _ => none

/-- Write an output at the address of a descriptor, if it names one. -/
def State.outArea (s : State) (c : CmdId) (d stride packed b : Nat) (bs : List Byte) : State :=
  match refVa d with
  | some va => s.writeVa c { s.cmdSpace c with holder := s.bagHolder c b } (areaAt va stride packed b) bs
  | none => s

/-- The counters of an output: non-finite elements (R134) and clamped ones (R62), by table. -/
def State.countOuts (s : State) (bad sat : List Nat) : State :=
  sat.foldl (fun s t => s.countTable t 10 1) (bad.foldl (fun s t => s.countTable t 6 1) s)

/-- A poisoned bag's elements (R147). -/
def poisonElems (n : Nat) : List Elem := List.replicate n { val := .nan, f32 := some f32NaN }

/-- The table of the lowest position of a list of positions and tables. -/
def lowestTable (l : List (Nat × Nat)) : Option Nat :=
  (l.foldl (fun (m : Option (Nat × Nat)) e => match m with
    | some x => if e.1 < x.1 then some e else some x
    | none => some e) none).map (·.2)

/-- The positions of a bag whose contribution is not finite, or whose row is poisoned, with their tables (R134, R147). -/
def badPositions (spec : PoolSpec) (acc : BagAcc) : List (Nat × Nat) :=
  (acc.leaves.filter fun l => (List.range spec.elems).any fun i => !(contribOf (spec.mode == 3) l i).exact.isFin).map (fun l => (l.pos, l.table)) ++
    acc.poison.map fun p => (p.2.2.2, p.2.1)

/-- The vector that a bag of a fused gather gives to stage 1 (R234). Of a TOPK bag with more than one slot the spec does not say which
vector that is: each of its E elements is a free value (DESIGN CHOICE: log entry 104). -/
def State.stageVector (s : State) (spec : PoolSpec) (pooled : List F32) : State × List F32 :=
  if spec.mode = 4 ∧ spec.k ≠ 1 then
    ({ s with fresh := s.fresh + spec.elems }, (List.range spec.elems).map fun i => (Config.openWord (s.fresh + i)).setWidth 32)
  else (s, pooled)

/-- A fused bag's vectors are kept for the projection, with the tables that its counts go to, and written where the command names an
area for them (R62, R134, R234). -/
def State.keepPooled (s : State) (j : Job) (b : Nat) (spec : PoolSpec) (acc : BagAcc) (elems : List Elem) : State :=
  let c := j.id
  let pooled := elems.map fun e => e.f32.getD f32NaN
  let (s, v) := s.stageVector spec pooled
  let note := fun (m : Sparse Nat) (t : Option Nat) => match t with
    | some t => sinsert m b t
    | none => m
  let s := s.updJob c fun j =>
    { j with
      pooled := sinsert j.pooled b v
      lowTab := note j.lowTab (lowestTable (acc.leaves.map (fun l => (l.pos, l.table)) ++ acc.poison.map fun p => (p.2.2.2, p.2.1)))
      badTab := note j.badTab (lowestTable (badPositions spec acc)) }
  s.outArea c (projBlock (j.block.drop 144)).pooled j.bag.vstride (4 * s.bagEntries j) b ((pooled.map fun x => leBytes 4 x.toNat).flatten)

/-- A bag is formed: its values are written or kept for the projection, its positions and mask written, and its counts taken (R131, R140,
R141, R147). The pooled elements of a fused bag that are not finite count as those of an unfused one (R134; DESIGN CHOICE: log entry
105). -/
def State.formBag (s : State) (j : Job) (b : Nat) (acc : BagAcc) : State :=
  let c := j.id
  let spec := s.poolSpec j
  let f := opFmt j.pkt
  let len := j.bagLen b
  let out := poolBag spec len acc.leaves (acc.kept.map (·.2))
  let poisoned := !acc.poison.isEmpty
  let elems := if poisoned then poisonElems out.elems.length else out.elems
  let posns := if poisoned then out.posns.map fun _ => 0xFFFFFFFF else out.posns
  let (bytes, sat) := outBytes f elems
  let s := if poisoned then s else s.countOuts out.bad (if flFused j.pkt then [] else sat)
  let s := s.updJob c fun j =>
    { j with
      bags := serase j.bags b
      bagsDone := ninsert j.bagsDone b
      drops := j.drops + acc.drops.length
      trunc := j.trunc + out.trunc
      clamp := j.clamp + out.clamp
      recon := j.recon + acc.recon.length
      empty := j.empty + (if acc.kept.isEmpty then 1 else 0) }
  let s := match acc.poison with
    | [] => s
    | (_, t, r, _) :: _ => s.cause c stPoison { object := t, value := r }
  let ents := s.bagEntries j
  let s := if flFused j.pkt then s.keepPooled j b spec acc elems else s.outArea c (pktD2 j.pkt) j.bag.vstride (outWidth f * ents) b bytes
  let s := if posns = [] then s else s.outArea c j.bag.pos j.bag.pstride (4 * ents) b ((posns.map fun p => leBytes 4 p).flatten)
  if spec.mode = 5 then s.outArea c j.bag.mask j.bag.mstride (4 * ceilDiv j.longest 32) b ((out.mask.map fun w => leBytes 4 w).flatten)
  else s

/-- The bag accumulator of a job. -/
def Job.bagAcc (j : Job) (b : Nat) : BagAcc := sget {} j.bags b

/-- Whether a bag is whole: every work item that covers it has sent its marker, and every kept row has arrived (R99, R132). -/
def State.bagWhole (s : State) (j : Job) (b : Nat) : Bool :=
  let acc := j.bagAcc b
  (s.covering j.id b).all (fun w => acc.ended.contains w.id) &&
    acc.kept.length == acc.leaves.length + acc.poison.length

/-- A bag that is whole, and not yet formed or lost, is formed; checkpoints and the command's end follow (R131, R432). -/
def State.checkBag (s : State) (c : CmdId) (b : Nat) : State :=
  match s.job? c with
  | none => s
  | some j =>
    if j.bagsDone.contains b || j.bagsLost.contains b || !s.bagWhole j b then s
    else ((s.formBag j b (j.bagAcc b)).commitCheckpoints c).checkGather c

/-- Change a bag's accumulator. -/
def State.updBag (s : State) (c : CmdId) (b : Nat) (f : BagAcc → BagAcc) : State :=
  s.updJob c fun j => { j with bags := sput {} j.bags b (f (j.bagAcc b)) }

end Sys2Proof.Machine
end

