-- ==== Sys2Proof/Machine/Prefetch.lean ====
section
/-! DEFINITION. Prefetching: the PREF hint (R101) and affine translation prefetch (R102). -/

namespace Sys2Proof.Machine

/-- A translation that a stream's slice holds in a TLB, with no walk and no fill. -/
def State.heldPa (s : State) (k ctx va : Nat) : Option (Nat × Segment) :=
  match s.segCheck ctx va false with
  | (none, _) => none
  | (some (i, g), _) =>
    let n := pageNo g va
    match (s.slice (k / 8)).tlb.find? (fun e => e.covers ctx i n false), s.tlb2Hit ctx i n false with
    | some e, _ => some (e.translate g va, g)
    | none, some e => some (e.translate g va, g)
    | none, none => none

/-- Lines of local memory whose translation is held are brought into the row cache: none of another node, of a lost port, or that the
memory-side check refuses (R101, R251, R307, R309). -/
def State.prefLines (s : State) (k : Nat) (x : Space) (ls : List (Nat × Nat)) (acc : List Byte) : State × Option (List Byte) :=
  match ls with
  | [] => (s, some acc)
  | (va, n) :: rest =>
    match s.heldPa k x.ctx va with
    | none => (s, none)
    | some (pa, g) =>
      if s.isLocal pa && s.isMemory (localOf pa) && !s.onLostPort (localOf pa) then
        let s := s.fetchGrant x.ctx (localOf pa)
        if s.granted x.ctx (localOf pa) false then
          match s.loadCounted pa n (x.access g .none) with
          | (s, some bs) => s.prefLines k x rest (acc ++ bs)
          | (s, none) => (s, none)
        else (s.denied x.ctx (localOf pa), none)
      else (s, none)

/-- Bytes that a prefetch brings into the row cache: it is discarded where a translation that it needs is not held (R101). -/
def State.prefBytes (s : State) (k : Nat) (x : Space) (va n : Nat) : State × Option (List Byte) :=
  let ls := lineRanges va n (n / 256 + 2)
  if ls.all fun l => (s.heldPa k x.ctx l.1).isSome then s.prefLines k x ls [] else (s, none)

/-- The copy of a row that a prefetch reads: the filter and the map are looked up as for a reference (R68, R101). -/
def State.prefCopy (s : State) (k : Nat) (t : Table) (c : CmdId) (row : Nat) : State × Option Copy :=
  if t.desc.tiered = false ∨ t.filterAbsent row = true then (s, some .cold)
  else
    let x := s.tableSpace t c 2 1
    let (p, q) := t.desc.buckets row
    match s.prefBytes k x (t.desc.bucketVa p) 64 with
    | (s, none) => (s, none)
    | (s, some b) =>
      let say := searchBucket b row
      match say.found with
      | some copy => (s, some copy)
      | none =>
        if say.ovf then
          match s.prefBytes k x (t.desc.bucketVa q) 64 with
          | (s, none) => (s, none)
          | (s, some b) => (s, some ((searchBucket b row).found.getD .cold))
        else (s, some .cold)

/-- The effect of PREF on the row cache (R101). -/
def State.prefRow (s : State) (k : Nat) (slot : Option Nat) (row : Nat) (void : Bool) : State :=
  match slot.bind s.table? with
  | none => s
  | some t =>
    if void || decide (t.desc.rows ≤ row) then s
    else
      let c := (s.stream k).arch.cmd
      match s.prefCopy k t c row with
      | (s, none) => s
      | (s, some copy) => (s.prefBytes k (s.tableSpace t c t.cls 1) (t.desc.vaOf copy row) (t.desc.sizeOf copy)).1

/-- PREF issues, and is discarded while the stream's references are held (R101, R110). -/
def State.issuePref (s : State) (k : Nat) (a : Fin 16) : State :=
  match s.streamEnv k with
  | none => s
  | some (_, env) =>
    let x := s.stream k
    if s.issuable k (.pref a) then
      let s := if x.faulted then s
        else s.prefRow k (env.slots.getD (modeTsel x.arch.mode) none) (x.arch.reg a).toNat (x.arch.void a)
      s.applyOut k (.pref a) (.retire x.arch.retire [] false)
    else s

/-- Misses of requesters that wait for a walker, all 64 being taken; a prefetch alone is no demand (R318). -/
def State.demandWaits (s : State) : Nat := ((s.walks.drop 64).filter fun w => w.joiners.any (· ≠ .prefetch)).length

/-- Affine prefetch of a translation: the page of the cold copy of row r + 64 × S (R102). -/
def State.affinePrefetch (s : State) (k : Nat) (t : Table) (row : Nat) : State :=
  let x := s.stream k
  if bitOf x.affine.toNat 7 = false then s
  else
    let stride : Int := x.stride.toInt
    let target := (row : Int) + 64 * stride
    if target < 0 ∨ (t.desc.rows : Int) ≤ target then s
    else
      let va := t.desc.vaOf .cold target.toNat
      if s.heldPa k t.owner va ≠ none then s
      else
        match s.segCheck t.owner va false with
        | (none, _) => s
        | (some (i, g), _) =>
          if s.demandWaits < 16 then s.startWalk t.owner i (pageNo g va) va .prefetch else s

end Sys2Proof.Machine
end

