-- ==== Sys2Proof/Machine/TableMem.lean ====
section
/-! DEFINITION. Writes to the structures of a table set (R210): all of a write or none of it (R31, R480), the epoch record (R208), a
failed step (R176, R195), and the staging region (R173 to R175). -/

namespace Sys2Proof.Machine

/-! ## Writes -/

/-- Whether every line of a write can be made now: a wait or an end otherwise (R311, R319, R325). -/
def State.mayWrite (s : State) (c : CmdId) (x : Space) (w : Who) (ls : List (Nat × Nat)) : State × Rd :=
  match ls with
  | [] => (s, .ok [])
  | (va, n) :: rest =>
    let (s, r) := s.xlate x.ctx va true
    match r with
    | .fault typ seg page pa =>
      (match s.answerFor w.joiner seg page typ with
       | some st => (s, .stop st { object := 0xFFFF, value := va })
       | none => (s.faultFor x w va true typ seg page pa, .wait))
    | .protection why => (s, .stop stProtection { reason := why, object := 0xFFFF, value := va })
    | .walkError => (s, .stop stWalkError { object := 0xFFFF, value := va })
    | .ok pa g =>
      if s.isLocal pa then
        let s := s.fetchGrant x.ctx (localOf pa)
        if s.granted x.ctx (localOf pa) true then s.mayWrite c x w rest
        else (s.denied x.ctx (localOf pa), .stop stProtection { reason := 0x55, object := 0xFFFF, value := va })
      else if s.reachable pa = false then (s, .stop stAborted { object := 0xFFFF, value := va })
      else
        match s.remoteSpan c (x.access g .none) pa (zeros n) with
        | (s, .error r) => (s, r)
        | (s, .ok (at_, ws)) => if (s.remoteSend c x.ctx at_ ws.length (some ws)).isNone then (s, .wait) else s.mayWrite c x w rest

/-- One line written, its acknowledgement awaited by the command. -/
def State.putLine (s : State) (c : CmdId) (x : Space) (va : Nat) (bs : List Byte) : State :=
  let (s, r) := s.xlate x.ctx va true
  match r with
  | .ok pa g =>
    let t := s.updJob c fun j => { j with acks := j.acks + 1 }
    if s.isLocal pa then (t.storeLine pa bs (x.access g (.job c x.ctx))).1
    else
      match t.remoteSpan c (x.access g .none) pa bs with
      | (t, .ok (at_, ws)) => (t.remoteSend c x.ctx at_ ws.length (some ws)).getD s
      | _ => s
  | _ => s

/-- Write bytes of a table's structure: all of them, or none. -/
def State.putVa (s : State) (c : CmdId) (x : Space) (w : Who) (va : Nat) (bs : List Byte) : State × Rd :=
  match s.mayWrite c x w (lineRanges va bs.length (bs.length / 256 + 2)) with
  | (s, .ok _) => ((pieces va bs).foldl (fun s p => s.putLine c x p.1 p.2) s, .ok [])
  | r => r

/-! ## Work that is done whole or not at all -/

/-- How a piece of work over memory ends: what it found, an end with a status, or a wait. -/
inductive Pass (α : Type) where
  | ok (x : α)
  | stop (st : Nat) (d : ErrDetail)
  | wait
  deriving DecidableEq, Repr

/-- A read that gave no bytes, as the end of the work. -/
def Rd.pass {α : Type} (r : Rd) : Pass α :=
  match r with
  | .stop st d => .stop st d
  | .bad _ => .stop stAborted {}
  | _ => .wait

/-- A piece of work: it changes the state and ends. -/
abbrev Work (α : Type) := State → State × Pass α

def Work.ret {α : Type} (x : α) : Work α := fun s => (s, .ok x)
def Work.upd (f : State → State) : Work Unit := fun s => (f s, .ok ())
def Work.fail {α : Type} (st : Nat) (d : ErrDetail) : Work α := fun s => (s, .stop st d)

/-- One piece of work after another. -/
def Work.andThen {α β : Type} (m : Work α) (f : α → Work β) : Work β := fun s =>
  match m s with
  | (s, .ok x) => f x s
  | (s, .stop st d) => (s, .stop st d)
  | (s, .wait) => (s, .wait)

/-- A state with the faults, waits and remote requests that an attempt raised, and nothing else of it. -/
def State.onlyFaults (s t : State) : State :=
  { s with faults := t.faults, faultsWaiting := t.faultsWaiting, reuse := t.reuse, trace := t.trace, fresh := t.fresh, fab := t.fab, tlb2 := t.tlb2 }

/-- Work that is done whole: one that does not end well leaves only the faults it raised. -/
def Work.whole {α : Type} (m : Work α) : Work α := fun s =>
  match m s with
  | (t, .ok x) => (t, .ok x)
  | (t, r) => (s.onlyFaults t, r)

/-- Work done whole, or skipped with its status for the command (R480). -/
def Work.orSkip {α : Type} (m : Work (Option α)) (c : CmdId) : Work (Option α) := fun s =>
  match m.whole s with
  | (s, .stop st d) => (s.cause c st { d with reason := 0, object := 0xFFFF }, .ok none)
  | r => r

/-- Work over a list, one element after another. -/
def Work.each {α : Type} (f : α → Work Unit) (l : List α) : Work Unit :=
  match l with
  | [] => Work.ret ()
  | x :: rest => (f x).andThen fun _ => Work.each f rest

/-- A read as work: none when the data is lost. -/
def readWork (c : CmdId) (x : Space) (w : Who) (va n : Nat) : Work (Option (List Byte)) := fun s =>
  match s.readVa c x w va n with
  | (s, .ok bs) => (s, .ok (some bs))
  | (s, .bad _) => (s, .ok none)
  | (s, .stop st d) => (s, .stop st d)
  | (s, .wait) => (s, .wait)

/-- A write as work. -/
def writeWork (c : CmdId) (x : Space) (w : Who) (va : Nat) (bs : List Byte) : Work Unit := fun s =>
  match s.putVa c x w va bs with
  | (s, .ok _) => (s, .ok ())
  | (s, r) => (s, r.pass)

/-- The requester of an apply window (R319, R480). -/
def whoApply (h : Nat) (c : CmdId) : Who := { joiner := .apply h, cmdSeq := c.seq }

/-! ## The epoch record (R208) -/

/-- The 64 bytes of an epoch record. -/
def TableSet.record (t : TableSet) : List Byte :=
  leBytes 4 t.seq ++ leBytes 4 t.epoch ++ leBytes 8 t.commitTime ++ leBytes 4 (sat32 t.windowNs) ++
    leBytes 4 (bit1 t.failed + 2 * bit1 (t.st == .torn) + 4 * bit1 t.restored) ++ leBytes 8 t.snapEpoch ++ leBytes 8 t.adamSteps ++ zeros 24

/-- The space of a set's epoch record: the owner's context, written through (R208, R478). -/
def State.recordSpace (s : State) (t : TableSet) : Space := { ctx := t.owner, part := s.partOf t.owner, source := 3, through := true }

/-- The line of an address leaves its write-combining buffer, and its write is acknowledged (R209; log entry 27). -/
def State.settleVa (s : State) (x : Space) (va : Nat) : State :=
  match s.xlate x.ctx va true with
  | (s, .ok pa _) => (s.forceLine (pa / 256 * 256)).settleLine (pa / 256 * 256)
  | (s, _) => s

/-- The epoch record of a set is written, and its write acknowledged, before anything follows (R208, R209). -/
def State.putRecord (s : State) (h : Nat) (c : CmdId) (t : TableSet) : State × Rd :=
  match s.putVa c (s.recordSpace t) (whoApply h c) t.recAddr t.record with
  | (s, .ok _) => (s.settleVa (s.recordSpace t) t.recAddr, .ok [])
  | r => r

/-- The epoch record is written as the set stands. -/
def State.writeRecord (s : State) (h : Nat) (c : CmdId) : State × Rd :=
  match s.tset? h with
  | none => (s, .ok [])
  | some t => s.putRecord h c t

/-- The epoch record of a set is written as the set stands, at once or when the fault that the write waits for has been answered (R208,
R319). -/
def State.dueRecord (s : State) (h : Nat) (c : CmdId) : State :=
  match s.writeRecord h c with
  | (s, .wait) => s.updTset h fun t => { t with recordDue := true }
  | (s, _) => s.updTset h fun t => { t with recordDue := false }

/-- The open step of a set is marked failed, and its record written with FAILED set (R176, R208). -/
def State.markFailed (s : State) (h : Nat) (c : CmdId) : State :=
  if ((s.tset? h).map (·.failed)).getD true then s
  else ((s.updTset h fun t => { t with failed := true }).countSet h 9 1).dueRecord h c

/-- Staging adds that can be neither made nor undone: the step is marked failed, and they are dropped (R176, R479). -/
def State.loseAdds (s : State) (c : CmdId) (h : Nat) : State :=
  (s.markFailed h c).updJob c fun j => { j with scatter := j.scatter.map fun x => { x with rolling := true, adds := [], heavyAdds := [] } }

/-! ## Staging (R173 to R175) -/

/-- Z of a table (R173). -/
def TableDesc.slotBytes (d : TableDesc) : Nat := 64 + 8 * roundUp d.elems 8

/-- The number of directory buckets, and the addresses of a bucket and of a slot (R173). -/
def OptDesc.buckets (o : OptDesc) : Nat := 2 ^ o.stgLog2
def OptDesc.dirVa (o : OptDesc) (b : Nat) : Nat := u64 (o.stageBase + 64 * b)
def OptDesc.slotVa (o : OptDesc) (z j : Nat) : Nat := u64 (o.stageBase + 64 * o.buckets + j * z)

/-- The space of a table's staging region (R258, R320, R478). -/
def State.stageSpace (s : State) (t : Table) (c : CmdId) : Space := s.tableSpace t c 4 2

/-- Where the lookup of a row in a bucket ends (R174): its slot, a free entry, or the next bucket. -/
inductive DirSay where
  | slot (j : Nat)
  | free (k : Nat)
  | onward
  deriving DecidableEq, Repr

/-- The entries of a bucket from entry `k`, in order (R174). -/
def dirSearch (b : List Byte) (row epoch k fuel : Nat) : DirSay :=
  match fuel with
  | 0 => .onward
  | fuel + 1 =>
    if 4 ≤ k then .onward
    else if field b (16 * k + 8) 4 ≠ epoch then .free k
    else if field b (16 * k) 8 % 2 ^ 40 = row then .slot (field b (16 * k + 12) 4)
    else dirSearch b row epoch (k + 1) fuel

/-- How a look for a row's slot ends. -/
inductive SlotRes where
  | slot (j : Nat)
  | free (bucket k : Nat)
  | none
  | stop (r : Rd)
  deriving DecidableEq, Repr

/-- Look for a row from a bucket on, at most `fuel` buckets (R174). -/
def State.lookSlot (s : State) (c : CmdId) (w : Who) (t : Table) (o : OptDesc) (row epoch b fuel : Nat) : State × SlotRes :=
  match fuel with
  | 0 => (s, .none)
  | fuel + 1 =>
    match s.readVa c (s.stageSpace t c) w (o.dirVa b) 64 with
    | (s, .ok bs) =>
      (match dirSearch bs row epoch 0 4 with
       | .slot j => (s, .slot j)
       | .free k => (s, .free b k)
       | .onward => s.lookSlot c w t o row epoch ((b + 1) % o.buckets) fuel)
    | (s, r) => (s, .stop r)

/-- How the taking of a slot ends: its number; every slot of the step taken (R175); or a read or write that did not go through. -/
inductive TakeRes where
  | slot (j : Nat)
  | full
  | stop (r : Rd)
  deriving DecidableEq, Repr

/-- The header of a fresh slot, and its zero sums (R173). -/
def freshSlot (d : TableDesc) (row epoch : Nat) : List Byte :=
  leBytes 2 d.table ++ leBytes 2 d.elems ++ zeros 4 ++ leBytes 8 row ++ zeros 12 ++ leBytes 4 epoch ++ zeros (d.slotBytes - 32)

/-- The slot of a row in the open step, taken when the row has none (R174, R175). -/
def State.takeSlot (s : State) (c : CmdId) (w : Who) (t : Table) (o : OptDesc) (row : Nat) : State × TakeRes :=
  let d := t.desc
  let epoch := ((s.tset? t.tset).map (·.epoch)).getD 0
  match s.lookSlot c w t o row epoch (pmHash d.table row / 2 ^ 16 % o.buckets) o.buckets with
  | (s, .slot j) => (s, .slot j)
  | (s, .stop r) => (s, .stop r)
  | (s, .none) => (s, .full)
  | (s, .free b k) =>
    if o.maxTouched ≤ t.slots then (s, .full)
    else
      let x := s.stageSpace t c
      let j := t.slots
      match s.putVa c x w (o.slotVa d.slotBytes j) (freshSlot d row epoch) with
      | (s, .ok _) =>
        (match s.putVa c x w (o.dirVa b + 16 * k) (leBytes 8 row ++ leBytes 4 epoch ++ leBytes 4 j) with
         | (s, .ok _) => (s.updTable d.table fun t => { t with slots := j + 1 }, .slot j)
         | (s, r) => (s, .stop r))
      | (s, r) => (s, .stop r)

/-- A staging element: none for the non-finite marker (R162). -/
def stageVal (v : Nat) : Option Int := if v = 2 ^ 63 then none else some (if v < 2 ^ 63 then (v : Int) else (v : Int) - 2 ^ 64)
def stageCode (v : Option Int) : Nat :=
  match v with
  | none => 2 ^ 63
  | some n => (n % 2 ^ 64).toNat

/-- The sum of two staging elements: a marked one stays marked (R163). -/
def stagePlus (a b : Option Int) : Option Int :=
  match a, b with
  | some a, some b => some (a + b)
  | _, _ => none

/-- A count of a slot's header changed by a signed amount, within its field. -/
def bumpCount (m n : Nat) (d : Int) : Nat := (max 0 (min (m : Int) ((n : Int) + d))).toNat

/-- A slot's header after a staging add (R168, R173). -/
def slotHeader (b : List Byte) (a : StageAdd) (marked : Bool) : List Byte :=
  let fl := field b 4 4
  let fl := Nat.lor (Nat.lor fl (bit1 a.heavy)) (2 * bit1 marked)
  let b := putField b 4 4 fl
  let b := putField b 16 8 (bumpCount (2 ^ 64 - 1) (field b 16 8) a.occur)
  putField b 24 4 (bumpCount (2 ^ 32 - 1) (field b 24 4) a.trunc)

/-- A staging add into its slot (R168): the slot is found or taken, its segment added to, its header updated. -/
def State.addToSlot (s : State) (c : CmdId) (w : Who) (t : Table) (o : OptDesc) (a : StageAdd) : State × TakeRes :=
  match s.takeSlot c w t o a.row with
  | (s, .slot j) =>
    let x := s.stageSpace t c
    let va := o.slotVa t.desc.slotBytes j
    let off := va + 64 + 512 * a.seg
    (match s.readVa c x w va 64, s.readVa c x w off (8 * a.vals.length) with
     | (_, .ok hd), (s, .ok vs) =>
       let old := (List.range a.vals.length).map fun i => stageVal (field vs (8 * i) 8)
       let new := (old.zip a.vals).map fun e => stagePlus e.1 e.2
       let bytes := (new.map fun v => leBytes 8 (stageCode v)).flatten
       (match s.putVa c x w off bytes with
        | (s, .ok _) =>
          (match s.putVa c x w va (slotHeader hd a (new.any (· == none))) with
           | (s, .ok _) => (s, .slot j)
           | (s, r) => (s, .stop r))
        | (s, r) => (s, .stop r))
     | (_, .ok _), (s, r) => (s, .stop r)
     | (s, r), _ => (s, .stop r))
  | r => r

/-! ## A step begins anew -/

/-- The tables of a set with an empty step: no slot taken, no window, no count (R174, R195). -/
def State.emptyStep (s : State) (h : Nat) : State :=
  let s := { s with tables := s.tables.map fun (e : Nat × Table) =>
    if e.2.tset = h then (e.1, { e.2 with slots := 0, winT := none, stepK := 0 }) else e }
  s.updTset h fun t => { t with groupClosed := false, heavy := {} }

/-- A bucket with the EPOCH field of its four entries written; the bytes of a bucket that cannot be read are zero (R174; log entry 58). -/
def State.clearedBucket (s : State) (x : Space) (va epoch : Nat) : List Byte :=
  let old := match (s.xlate x.ctx va true).2 with
    | .ok pa _ => if s.isLocal pa then (s.view pa 64).getD (zeros 64) else zeros 64
    | _ => zeros 64
  [0, 1, 2, 3].foldl (fun b i => putField b (16 * i + 8) 4 epoch) old

/-- The directory of a table is cleared: EPOCH of every entry reads as free for the step of an epoch (R174). -/
def State.clearDir (s : State) (c : CmdId) (w : Who) (t : Table) (epoch : Nat) : State × Rd :=
  match t.opt with
  | none => (s, .ok [])
  | some o =>
    let x := s.stageSpace t c
    let n := 64 * o.buckets
    match s.mayWrite c x w (lineRanges o.stageBase n (n / 256 + 2)) with
    | (s, .ok _) =>
      (foldN o.buckets s fun s i =>
        let va := u64 (o.stageBase + 64 * i)
        s.putLine c x va (s.clearedBucket x va ((epoch + 2 ^ 32 - 1) % 2 ^ 32)), .ok [])
    | r => r

/-- The directories of every table of a set. -/
def State.clearDirs (s : State) (c : CmdId) (w : Who) (ts : List (Nat × Table)) (epoch : Nat) : State × Rd :=
  match ts with
  | [] => (s, .ok [])
  | t :: rest =>
    match s.clearDir c w t.2 epoch with
    | (s, .ok _) => s.clearDirs c w rest epoch
    | r => r

end Sys2Proof.Machine
end

