-- ==== Sys2Proof/Machine/Sketch.lean ====
section
/-! DEFINITION. The patina sketch as references raise it (R73, R74): the merging buffers of the quadrants, and the counters in memory. -/

namespace Sys2Proof.Machine

/-! ## The counters in memory -/

/-- The space of a table's patina sketch as references reach it (R258, R320). -/
def State.sketchSpace (s : State) (t : Table) (c : CmdId) : Space := s.tableSpace t c 3 1

/-- A counter of this engine's memory raised; a lost sector's counters are rewritten as zero (R74, R430). -/
def State.raiseCounter (s : State) (acc : Access) (pa n : Nat) : State :=
  match s.load pa 2 acc with
  | (s, some b) => (s.store pa (leBytes 2 (min 65535 (leNat b + n))) acc).1
  | (s, none) => ((s.store (pa / 64 * 64) (zeros 64) acc).1.store pa (leBytes 2 (min 65535 n)) acc).1

/-- Increments reach their counter: they have been added, or are lost with an address that cannot be reached; or they wait for a
translation or for another node (R74, R309, R319, R325). -/
def State.addToCounter (s : State) (c : CmdId) (w : Who) (t : Table) (va n : Nat) : State × Bool :=
  let x := s.sketchSpace t c
  let (s, r) := s.xlate x.ctx va true
  match r with
  | .fault typ seg page pa => if (s.answerFor w.joiner seg page typ).isSome then (s, true) else (s.faultFor x w va true typ seg page pa, false)
  | .ok pa g =>
    let acc := x.access g .none
    if s.isLocal pa then
      let s := s.fetchGrant x.ctx (localOf pa)
      if s.granted x.ctx (localOf pa) true then (s.raiseCounter acc pa n, true) else (s.denied x.ctx (localOf pa), true)
    else if s.reachable pa = false then (s, true)
    else
      match s.readPhys c acc pa 2 with
      | (s, .wait) => (s, false)
      | (s, .ok b) =>
        (match s.remoteSpan c acc pa (leBytes 2 (min 65535 (leNat b + n))) with
         | (s, .ok (at_, ws)) =>
           (match s.remoteSend c x.ctx at_ ws.length (some ws) with
            | some s' => (s'.updJob c fun j => { j with acks := j.acks + 1 }, true)
            | none => (s, false))
         | (s, .error _) => (s, false))
      | (s, _) => (s, true)
  | _ => (s, true)

/-- The value of a counter, none while it waits for another node; one that cannot be read counts as zero (R73, R76). -/
def State.counterAt (s : State) (c : CmdId) (t : Table) (va : Nat) : State × Option Nat :=
  let x := s.sketchSpace t c
  let (s, r) := s.xlate x.ctx va true
  match r with
  | .ok pa g =>
    (match s.readPhys c (x.access g .none) pa 2 with
     | (s, .ok b) => (s, some (leNat b))
     | (s, .wait) => (s, none)
     | (s, _) => (s, some 0))
  | _ => (s, some 0)

/-! ## The merging buffers (R74) -/

/-- Entries of a quadrant's merging buffer. -/
def sketchEntries : Nat := 1024

/-- Increments of a counter that no buffer has sent on yet. -/
def State.unsent (s : State) (t va : Nat) : Nat := ((s.sketchBuf.filter fun e => e.table == t && e.va == va).map (·.n)).sum

/-- An increment enters its quadrant's buffer, merged with those of its counter that are there. -/
def State.bufferInc (s : State) (q t va : Nat) : State :=
  let same := fun (e : SketchInc) => e.quad == q && e.table == t && e.va == va
  if s.sketchBuf.any same then { s with sketchBuf := s.sketchBuf.map fun e => if same e then { e with n := e.n + 1 } else e }
  else { s with sketchBuf := s.sketchBuf ++ [{ quad := q, table := t, va := va, n := 1 }] }

/-- An entry leaves its buffer for its counter, or waits; one of a table that is gone is dropped. -/
def State.sendInc (s : State) (c : CmdId) (w : Who) (e : SketchInc) : State × Bool :=
  let (s, done) := match s.table? e.table with
    | some t => s.addToCounter c w t e.va e.n
    | none => (s, true)
  (if done then { s with sketchBuf := s.sketchBuf.erase e } else s, done)

/-- Entries leave in the order in which they came; answers whether all of them have. -/
def State.sendIncs (s : State) (c : CmdId) (w : Who) (es : List SketchInc) : State × Bool :=
  es.foldl (fun (acc : State × Bool) e =>
    let (s, done) := acc.1.sendInc c w e
    (s, acc.2 && done)) (s, true)

/-- The buffers send on what they hold of the tables of a set: before its counters are read or halved, and before its plan goes (R74, R75;
DESIGN CHOICE: log entry 101). -/
def State.flushSketch (s : State) (c : CmdId) (w : Who) (h : Nat) : State × Bool :=
  s.sendIncs c w (s.sketchBuf.filter fun e => ((s.table? e.table).map (·.tset)) == some h)

/-- Room in a quadrant's buffer for increments of counters: the oldest entries leave while it is full (R74; DESIGN CHOICE: log entry 101). -/
def State.sketchRoom (s : State) (q : Nat) (c : CmdId) (t : Table) (vas : List Nat) : State × Bool :=
  let mine := s.sketchBuf.filter fun e => e.quad == q
  let new := vas.dedup.filter fun va => !(mine.any fun e => e.table == t.desc.table && e.va == va)
  s.sendIncs c { joiner := .sweep t.tset } (mine.take (mine.length + new.length - sketchEntries))

/-! ## References (R74, R76) -/

/-- The counters of a sampled row as memory holds them, with room in the quadrant's buffer for its increments; none while something of it
waits. -/
def State.sketchReady (s : State) (q : Nat) (c : CmdId) (t : Table) (row : Nat) : State × Option (List Nat) :=
  let vas := t.desc.patinaVas row
  match s.sketchRoom q c t vas with
  | (s, false) => (s, none)
  | (s, true) =>
    vas.foldl (fun (acc : State × Option (List Nat)) va =>
      match acc with
      | (s, none) => (s, none)
      | (s, some l) => match s.counterAt c t va with
        | (s, some n) => (s, some (l ++ [n]))
        | (s, none) => (s, none)) (s, some [])

/-- A sampled kept reference adds one to each of its row's counters, and may enter the candidate list (R74, R76). -/
def State.patina (s : State) (q : Nat) (t : Table) (row : Nat) (mem : List Nat) : State :=
  let d := t.desc
  let vas := d.patinaVas row
  let s := vas.foldl (fun s va => s.bufferInc q d.table va) s
  let ns := (mem.zip vas).map fun e => e.1 + s.unsent d.table e.2
  let est := (ns.foldl min 65535) * 2 ^ d.sampleShift
  s.updTable d.table fun t => { t with cand := candAdd t.cand row est }

end Sys2Proof.Machine
end

