-- ==== Sys2Proof/Machine/Gather.lean ====
section
/-! DEFINITION. Work items (R118 to R122), the pointing stage (R68, R74, R129), walks (R318), lanes (R46, R130, R428) and the sort window
(R125): the rows of the gather path. -/

namespace Sys2Proof.Machine

/-! ## Cutting and dealing (R79, R118, R119) -/

/-- A long bag cut into pieces of `n` entries (R79). -/
def cutPieces (c : CmdId) (b len n : Nat) (start fuel : Nat) : List (Nat × Nat × Option (Nat × Nat)) :=
  match fuel with
  | 0 => []
  | fuel + 1 => if len ≤ start then [] else (b, 1, some (start, min len (start + n))) :: cutPieces c b len n (start + n) fuel

/-- The work items of a command in bag order: chunks of up to 64 bags, and pieces of longer bags (R118). -/
def cutBags (c : CmdId) (lens : List Nat) (fan b first count : Nat) : List (Nat × Nat × Option (Nat × Nat)) :=
  let flush := if count = 0 then [] else [(first, count, none)]
  match lens with
  | [] => flush
  | l :: rest =>
    if 4096 < l * fan then
      flush ++ cutPieces c b l (4096 / fan) 0 (l + 1) ++ cutBags c rest fan (b + 1) (b + 1) 0
    else if count = 63 then (first, 64, none) :: cutBags c rest fan (b + 1) (b + 1) 0
    else cutBags c rest fan (b + 1) (if count = 0 then b else first) (count + 1)

/-- The work items of a bag command enter the command intake (R118). -/
def State.makeItems (s : State) (j : Job) : State :=
  let n := j.offs.length - 1
  let lens := (List.range n).map fun b => j.offs.getD (b + 1) 0 - j.offs.getD b 0
  (cutBags j.id lens j.fan 0 0 0).foldl (fun s (first, count, piece) =>
    { s with
      items := s.items ++ [{ id := s.nextItem, cmd := j.id, firstBag := first, bags := count, piece := piece }]
      nextItem := s.nextItem + 1 }) s

/-- The slice of least load among candidates, ties by the round-robin order after `rr` (R119). -/
def State.leastLoaded (s : State) (ok : Nat → Bool) : Option Nat :=
  let order := (List.range 16).map fun i => (s.rr + 1 + i) % 16
  (order.filter ok).foldl (fun (m : Option Nat) i =>
    match m with
    | some x => if s.sliceLoad i < s.sliceLoad x then some i else some x
    | none => some i) none

/-- The slice that takes the next work item: one not flagged with room; a flagged one only when every slice in service is
flagged, and then with an empty queue (R119, R122; log entry 16). -/
def State.dealSlice (s : State) : Option Nat :=
  let live := fun i => !(s.slice i).lost
  if (List.range 16).any (fun i => live i && !(s.slice i).flagged) then
    s.leastLoaded fun i => live i && !(s.slice i).flagged && decide ((s.slice i).dispatch.length < 8)
  else s.leastLoaded fun i => live i && (s.slice i).dispatch.isEmpty

/-- A stream takes an item: its program store, and its state at the start or at the committed checkpoint of the item (R85, R91,
R112). -/
def State.startItem (s : State) (k i : Nat) : State :=
  match s.item? i with
  | none => s
  | some w =>
    match s.job? w.cmd, (s.job? w.cmd).bind (fun j => s.image? (pktHandle j.pkt)) with
    | some j, some im =>
      let env := j.env (2 ^ im.fanLog2) im.portUse.toNat ⟨w.cmd, i, w.gen⟩
      let fresh := startArch env w.cmd (pktHandle j.pkt) w.gen im.mode0 j.bag.sc w.firstBag w.bags w.piece
      let a := match w.committed with
        | some c => { c with gen := w.gen }
        | none => fresh
      let strideReg := bitsOf im.affine.toNat 3 0
      let x : Stream :=
        { arch := a, st := .running, item := some i, prog := im.code, fanLog2 := im.fanLog2, portUse := im.portUse, affine := im.affine,
          stride := BitVec.ofNat 64 (j.bag.sc.getD (strideReg - 8) 0) }
      (s.setStream k x).updItem i fun w => { w with place := .running k, committed := some a, pending := none }
    | _, _ => s

/-- A stream that can take an item: idle, with nothing left of the last one, on a slice in service. -/
def State.streamFree (s : State) (k : Nat) : Bool :=
  let x := s.stream k
  x.st == .idle && x.item == none && x.issue.isEmpty && x.window.isEmpty && !(s.slice (k / 8)).lost

/-- WORK_ITEM_START: a free stream takes the oldest work item in its own slice's queue (R119, R85). -/
def execWorkItemStart (st : StreamId) (s : State) : Out :=
  act s fun s =>
    match (s.slice st.slice).dispatch with
    | [] => s
    | i :: rest =>
      if s.streamFree st.key then
        (s.updSlice st.slice fun x => { x with dispatch := rest }).startItem st.key i
      else s

/-- The slice with the most queued work items, the lowest number in a tie (R120). -/
def State.longestQueue (s : State) (but : Nat) : Nat :=
  ((List.range 16).filter (· ≠ but)).foldl (fun m i => if (s.slice m).dispatch.length < (s.slice i).dispatch.length then i else m)
    (if but = 0 then 1 else 0)

/-- WORK_ITEM_STEAL: a slice with a free stream and an empty queue takes the oldest item of the longest queue (R120). -/
def execWorkItemSteal (slice : Fin 16) (s : State) : Out :=
  act s fun s =>
    let from_ := s.longestQueue slice
    match (s.slice from_).dispatch with
    | [] => s
    | i :: rest =>
      if (s.slice slice).lost = false ∧ (s.slice slice).dispatch = [] ∧ (List.range 8).any (fun n => s.streamFree (8 * slice + n)) then
        ((((s.updSlice from_ fun x => { x with dispatch := rest }).noteIdle from_).updSlice slice fun x =>
          { x with dispatch := [i], anyWork := true }).updItem i fun w => { w with place := .queued slice })
      else s

/-- A started item is stopped for migration: its generation rises, and what it left in the lanes since its checkpoint is taken back
(R112, R113, R433, R434). -/
def State.stopItem (s : State) (k i : Nat) : State :=
  let c := (s.stream k).arch.cmd
  (((s.clearStream k).noteIdle (k / 8)).rollItem c i).updItem i fun w => { w with gen := w.gen + 1, pending := none }

/-- Whether every unfinished item of a command is running on flagged slices (R122). -/
def State.allFlagged (s : State) (c : CmdId) : Bool :=
  (s.items.filter fun v => decide (v.cmd = c) && v.place != .done).all fun v =>
    match v.place with
    | .running m => (s.slice (m / 8)).flagged
    | _ => false

/-- Whether a started item may be migrated: its slice is lost, or every unfinished item of its command runs on flagged slices, or did when the
first of them was migrated (R122, R433). -/
def State.mayMigrate (s : State) (w : WorkItem) (k : Nat) : Bool := (s.slice (k / 8)).lost || w.toMove || s.allFlagged w.cmd

/-- The items that are to be migrated with one of a command: all that are unfinished, when they all run on flagged slices (R122). -/
def State.markMoves (s : State) (c : CmdId) : State :=
  if s.allFlagged c then { s with items := s.items.map fun (v : WorkItem) => { v with toMove := v.toMove || (v.cmd == c && v.place != .done) } } else s

/-- WORK_ITEM_MIGRATE: Armature moves a started item to a slice that is not flagged, under a new generation; an item of a lost slice
took its new generation when the slice was lost (R122, R433). -/
def execWorkItemMigrate (item : Nat) (slice : Fin 16) (s : State) : Out :=
  act s fun s =>
    match s.item? item with
    | none => s
    | some w =>
      match w.place with
      | .running k =>
        if s.mayMigrate w k && !(s.slice slice).lost && !(s.slice slice).flagged && decide ((s.slice slice).dispatch.length < 8) then
          let s := s.markMoves w.cmd
          let s := if (s.slice (k / 8)).lost then s else s.stopItem k item
          (s.updItem item fun w => { w with place := .queued slice, toMove := false }).updSlice slice fun x =>
            { x with dispatch := x.dispatch ++ [item], anyWork := true }
        else s
      | _ => s

/-! ## Rates (R121, R122) -/

/-- A list of rates in rising order. -/
def sortNat (l : List Nat) : List Nat := l.foldl (fun acc x => (acc.filter (· ≤ x)) ++ [x] ++ (acc.filter (x < ·))) []

/-- The lower median (R121). -/
def lowerMedian (l : List Nat) : Nat := (sortNat l).getD ((l.length - 1) / 2) 0

/-- A slice's runs of intervals below and not below half the median; an interval in which it had no work at all breaks both (R122). -/
def Slice.judge (x : Slice) (worked : Bool) (median : Nat) : Slice :=
  let low := worked && decide (2 * x.rate < median)
  let high := worked && !decide (2 * x.rate < median)
  let below := if low then min 100 (x.below + 1) else 0
  let above := if high then min 100 (x.above + 1) else 0
  { x with below := below, above := above
           flagged := if below = 100 then true else if above = 100 then false else x.flagged }

/-- RATE_INTERVAL_END: the rates of the interval and the median are formed, and slices flagged or unflagged (R121, R122). The slices that had work
are counted as the median counts them: those that had work throughout the interval (DEDUCED: log entry 108). -/
def execRateIntervalEnd (s : State) : Out :=
  actWhen s (decide (s.rateAt / 1000 < s.time / 1000)) fun s =>
    let all := List.range 16
    let worked := all.filter fun i => (s.slice i).hadWork && decide (s.sliceLoad i ≠ 0)
    let s := all.foldl (fun s i => s.updSlice i fun x => { x with rate := min 4095 x.refs, refs := 0 }) s
    let median := lowerMedian (worked.map fun i => (s.slice i).rate)
    let s := if worked.length < 4 then s
      else all.foldl (fun s i => s.updSlice i fun x => x.judge x.anyWork median) s
    let s := all.foldl (fun s i => s.updSlice i fun x => { x with hadWork := decide (s.sliceLoad i ≠ 0), anyWork := decide (s.sliceLoad i ≠ 0) }) s
    { s with rateAt := s.time }

/-! ## Sort window age (R125) -/

/-- SORT_WINDOW_AGE: the oldest request of a window has waited AGE_NS, and the window closes (R125). -/
def execSortWindowAge (st : StreamId) (s : State) : Out :=
  let x := s.stream st.key
  actWhen s (decide (x.window ≠ []) && decide (x.windowAt + x.windowAge ≤ s.time)) (·.closeWindow st.key)

/-! ## The pointing stage (R68, R74, R129) -/

/-- How a read of the pointing stage ends. -/
inductive Probe where
  | ok (bs : List Byte)
  | bad
  | halted
  | waits
  | stop (st : Nat) (d : ErrDetail)
  deriving DecidableEq, Repr

/-- Read bytes of one line for the pointing stage in a table's space, through the stream's TLBs. -/
def State.probe (s : State) (k : Nat) (c : CmdId) (x : Space) (va n : Nat) : State × Probe :=
  match s.sxlate k x.ctx va (.rowRef k) with
  | (s, .walking) => (s, .waits)
  | (s, .fault typ seg page pa) => ((s.streamFault k 1 x.ctx va typ seg page pa (.rowRef k)).holdRefs k, .halted)
  | (s, .stop st why) => (s, .stop st { reason := why, value := va, object := 0xFFFF })
  | (s, .ok pa g) =>
    match s.readPhys c (x.access g .none) pa n with
    | (s, .ok bs) => (s, .ok bs)
    | (s, .bad _) => (s, .bad)
    | (s, .wait) => (s, .waits)
    | (s, .stop st d) => (s, .stop st d)

/-- The copy that a reference reads, found by the filter and the map; whether the bucket made it reconstruct; whether the filter
spared the map; map buckets read (R68, R69, R430). -/
structure CopyChoice where
  copy : Copy
  recon : Bool := false
  absent : Bool := false
  reads : Nat := 0
  badBuckets : List Nat := []
  deriving DecidableEq, Repr

/-- Find the copy of a row: none while a translation is awaited, or when the item ends. -/
def State.findCopy (s : State) (k : Nat) (c : CmdId) (t : Table) (row : Nat) : State × Option CopyChoice × Probe :=
  let d := t.desc
  if d.tiered = false then (s, some { copy := .cold }, .ok [])
  else if t.filterAbsent row then (s, some { copy := .cold, absent := true }, .ok [])
  else
    let x := s.tableSpace t c 2 1
    let (p, q) := d.buckets row
    match s.probe k c x (d.bucketVa p) 64 with
    | (s, .bad) => (s, some { copy := .cold, recon := true, reads := 1, badBuckets := [p] }, .ok [])
    | (s, .ok b) =>
      let say := searchBucket b row
      match say.found with
      | some copy => (s, some { copy := copy, reads := 1, badBuckets := if say.invalid then [p] else [] }, .ok [])
      | none =>
        if say.invalid then (s, some { copy := .cold, recon := true, reads := 1, badBuckets := [p] }, .ok [])
        else if say.ovf then
          match s.probe k c x (d.bucketVa q) 64 with
          | (s, .bad) => (s, some { copy := .cold, recon := true, reads := 2, badBuckets := [q] }, .ok [])
          | (s, .ok b) =>
            let say := searchBucket b row
            match say.found with
            | some copy => (s, some { copy := copy, reads := 2, badBuckets := if say.invalid then [q] else [] }, .ok [])
            | none =>
              if say.invalid then (s, some { copy := .cold, recon := true, reads := 2, badBuckets := [q] }, .ok [])
              else (s, some { copy := .cold, reads := 2 }, .ok [])
          | (s, r) => (s, none, r)
        else (s, some { copy := .cold, reads := 1 }, .ok [])
    | (s, r) => (s, none, r)

/-- A line of a row copy or side entry to be read: virtual line, sectors, physical line and segment. -/
structure LineReq where
  vline : Nat
  mask : Nat
  pa : Nat
  seg : Segment
  deriving DecidableEq, Repr

/-- Translate and check the lines of a fetch, all of them before any is requested. -/
def State.fetchLines (s : State) (k : Nat) (ctx : Nat) (ls : List (Nat × Nat)) (acc : List LineReq) : State × Option (List LineReq) × Probe :=
  match ls with
  | [] => (s, some acc, .ok [])
  | (vline, mask) :: rest =>
    match s.sxlate k ctx vline (.rowRef k) with
    | (s, .walking) => (s, none, .waits)
    | (s, .fault typ seg page pa) => ((s.streamFault k 1 ctx vline typ seg page pa (.rowRef k)).holdRefs k, none, .halted)
    | (s, .stop st why) => (s, none, .stop st { reason := why, value := vline, object := 0xFFFF })
    | (s, .ok pa g) =>
      let s := if s.isLocal pa then s.fetchGrant ctx (localOf pa) else s
      if s.isLocal pa && !s.granted ctx (localOf pa) false then
        (s.denied ctx (localOf pa), none, .stop stProtection { reason := 0x55, value := vline, object := 0xFFFF })
      else s.fetchLines k ctx rest (acc ++ [{ vline := vline, mask := mask, pa := pa, seg := g }])

/-- The sectors of a mask of a line, by virtual address / 64. -/
def maskSectors (vline mask : Nat) : List Nat := ([0, 1, 2, 3].filter fun i => bitOf mask i).map fun i => vline / 64 + i

/-- The sectors of a mask of a remote line are asked of the stream's window; the fetch waits for them outside the row cache (R125, R251, R325). -/
def State.askRemote (s : State) (k : Nat) (c : CmdId) (ctx : Nat) (l : LineReq) (who : Joiner) : State :=
  ({ s with rc := { s.rc with direct := s.rc.direct ++ [(l.pa, who)] } } : State).addMiss k
    (([0, 1, 2, 3].filter (bitOf l.mask)).map fun i => { line := l.pa, lo := i, hi := i, ctx := ctx, cmdCtx := c.ctx, cmd := c, direct := true })

/-- The requests of a fetch leave for the row cache, or for another node (R46, R251). -/
def State.askLines (s : State) (k : Nat) (c : CmdId) (t : Table) (fetch : Nat) (ls : List LineReq) : State :=
  ls.foldl (fun s l =>
    let who : Joiner := { stream := k, fetch := fetch, mask := l.mask, vline := l.vline }
    if s.isLocal l.pa then
      s.updSlice (k / 8) fun x => { x with reqs := x.reqs ++
        [{ line := l.pa, cls := t.cls, ctx := t.owner, cmdCtx := c.ctx, wattr := l.seg.wattr, shared := l.seg.coh, who := who }] }
    else s.askRemote k c t.owner l who) s

/-- The lines of a row copy and its side entry (R46, R54). -/
def TableDesc.linesFor (d : TableDesc) (copy : Copy) (row : Nat) : List (Nat × Nat) :=
  linesOf (d.vaOf copy row) (d.sizeOf copy) ++ if d.hasSide then linesOf (d.sideVa row) 16 else []

/-- Start the fetch of a kept reference. -/
def State.startFetch (s : State) (k : Nat) (t : Table) (r : RowRef) (copy : Copy) (recon : Bool) (ls : List LineReq) : State :=
  let d := t.desc
  let f : Fetch :=
    { id := s.nextId, ref := r, copy := copy, va := d.vaOf copy r.row, size := d.sizeOf copy
      side := if d.hasSide then some (d.sideVa r.row) else none
      sectors := ((ls.map fun l => maskSectors l.vline l.mask).flatten.dedup).map fun a => (a, SectorState.wait), recon := recon }
  ({ s with nextId := s.nextId + 1 }.updStream k fun x => { x with fetches := x.fetches ++ [f] }).askLines k r.src.cmd t f.id ls

/-- The addresses of a sampled row's counters are translated with the reference's own (R74). -/
def State.patinaReady (s : State) (k : Nat) (t : Table) (row : Nat) : State × Option (List LineReq) × Probe :=
  if t.desc.sampled row (s.epochOf t.tset) then s.fetchLines k t.owner ((t.desc.patinaVas row).map fun va => (va, 1)) [] else (s, some [], .ok [])

/-- The front of a stream's queue is taken. -/
def State.popQueue (s : State) (k : Nat) : State := s.updStream k fun x => { x with queue := x.queue.drop 1 }

/-- A reference leaves the pointing stage of its slice (R121, R442). -/
def State.refLeft (s : State) (k : Nat) : State :=
  (s.updSlice (k / 8) fun x => { x with refs := x.refs + 1 }).unitWork (k / 8) 1

/-- A dropped reference: counted, its bag goes on (R98, R129). -/
def State.dropRef (s : State) (k : Nat) (r : RowRef) : State :=
  let s := (s.popQueue k).refLeft k
  let s := s.countCtx r.src.cmd.ctx 6 1
  let s := match r.table with
    | some t => s.countTable t 0 1
    | none => s
  s.updBag r.src.cmd r.bag fun b => { b with drops := b.drops ++ [r.src.item] }

/-- The counters of a row are ready for its reference: those of a sampled one (R74). -/
def State.countersReady (s : State) (k : Nat) (c : CmdId) (t : Table) (row : Nat) : State × Option (List Nat) :=
  if t.desc.sampled row (s.epochOf t.tset) then s.sketchReady (k / 32) c t row else (s, some [])

/-- A kept reference: its copy is found and its lines translated; then it is counted and its rows are fetched (R68, R74,
R129). -/
def State.keepRef (s : State) (k : Nat) (t : Table) (r : RowRef) : State :=
  let c := r.src.cmd
  match s.findCopy k c t r.row with
  | (s, none, .stop st d) => s.abortFront k st d
  | (s, none, _) => s
  | (s, some ch, _) =>
    match s.fetchLines k t.owner (t.desc.linesFor ch.copy r.row) [] with
    | (s, none, .stop st d) => s.abortFront k st d
    | (s, none, _) => s
    | (s, some ls, _) =>
      match s.patinaReady k t r.row with
      | (s, none, .stop st d) => s.abortFront k st d
      | (s, none, _) => s
      | (s, some _, _) =>
        match s.countersReady k c t r.row with
        | (s, none) => s
        | (s, some mem) =>
        let sampled := t.desc.sampled r.row (s.epochOf t.tset)
        let s := (s.popQueue k).refLeft k
        let s := ((s.countCtx c.ctx 9 1).countTable t.desc.table 1 1).countTable t.desc.table 21 ch.reads
        let s := if ch.absent then s.countTable t.desc.table 20 1 else s
        let s := ch.badBuckets.foldl (fun s b => s.markBucket t.desc.table b) s
        let s := if sampled then s.patina (k / 32) t r.row mem else s
        let s := s.updBag c r.bag fun b => { b with kept := b.kept ++ [(r.src.item, r.pos)] }
        s.startFetch k t r ch.copy ch.recon ls

/-- A bag-end marker passes the pointing stage (R99). -/
def State.markBag (s : State) (k : Nat) (src : Src) (b : Nat) : State :=
  let s := (s.popQueue k).updBag src.cmd b fun x => { x with ended := x.ended ++ [src.item] }
  (s.checkBag src.cmd b).itemOut k src.cmd

/-- A bag already formed takes nothing more: a re-run sends the same references again, and their bag's bytes stand (R433). -/
def State.bagClosed (s : State) (c : CmdId) (b : Nat) : Bool :=
  match s.job? c with
  | some j => j.bagsDone.contains b || j.bagsLost.contains b
  | none => true

/-- Whether a sector of a fetch is awaited from the row cache, from a fill, or from a read that takes none. -/
def State.sectorPending (s : State) (k id a : Nat) : Bool :=
  let hit := fun (w : Joiner) => w.stream == k && w.fetch == id && decide (w.vline / 64 ≤ a) && bitOf w.mask (a - w.vline / 64)
  s.rc.fills.any (fun (f : Fill) => f.joiners.any hit) || s.rc.direct.any (fun e => hit e.2) ||
    (s.slice (k / 8)).reqs.any (fun (r : CacheReq) => hit r.who)

/-- The sectors of a fetch whose request was failed back, by virtual line and mask (R307, R427). -/
def State.orphans (s : State) (k : Nat) (f : Fetch) : List (Nat × Nat) :=
  let lost := (f.sectors.filter fun e => e.2 == .wait && !s.sectorPending k f.id e.1).map (·.1)
  (lost.map (· / 4)).dedup.map fun l => (256 * l, (lost.filter fun a => a / 4 = l).foldl (fun m a => m + 2 ^ (a % 4)) 0)

/-- A fetch asks again for sectors whose request was failed back, translated afresh (R307, R319). -/
def State.reaskFetch (s : State) (k : Nat) (f : Fetch) : State :=
  match f.ref.table.bind s.table?, s.orphans k f with
  | some t, l :: ls =>
    (match s.fetchLines k t.owner (l :: ls) [] with
     | (s, some reqs, _) => s.askLines k f.ref.src.cmd t f.id reqs
     | (s, none, .stop st d) => s.abortFrom k f.ref.bag st d
     | (s, none, _) => s)
  | _, _ => s

/-- Every fetch of a stream asks again for what was failed back. -/
def State.reask (s : State) (k : Nat) : State := (s.stream k).fetches.foldl (fun s f => s.reaskFetch k f) s

/-- One element of a stream's queue passes the pointing stage, or waits (R104, R129); sectors failed back are asked for again first. A reference of
EMIT prefetches a translation, kept or dropped (R102). -/
def State.stageOne (s : State) (k : Nat) : State :=
  let s := if (s.stream k).faulted || (s.slice (k / 8)).lost then s else s.reask k
  let x := s.stream k
  if x.faulted || (s.slice (k / 8)).lost then s
  else
    match x.queue with
    | [] => s
    | .bagEnd src b :: _ =>
      if s.bagClosed src.cmd b then
        (s.popQueue k).itemOut k src.cmd
      else s.markBag k src b
    | .ref r :: _ =>
      if s.bagClosed r.src.cmd r.bag then (s.popQueue k).itemOut k r.src.cmd
      else
        match r.table.bind s.table? with
        | none => (s.dropRef k r).itemOut k r.src.cmd
        | some t =>
          let s := if r.single then s.affinePrefetch k t r.row else s
          if r.valid && decide (r.row < t.desc.rows) then s.keepRef k t r else (s.dropRef k r).itemOut k r.src.cmd

/-- POINTING_STAGE_REFERENCE: the pointing stage takes the oldest element of a stream's queue (R68, R129). -/
def execPointingStageReference (st : StreamId) (s : State) : Out := actS s (·.stageOne st.key)

/-! ## Walks (R318) -/

/-- The faults or ends of the requesters of a walk. -/
def State.walkEnds (s : State) (x : Walk) (r : XRes) (ent : Option TlbEntry) : State :=
  x.joiners.foldl (fun s w =>
    match w with
    | .operand k =>
      let s := s.updStream k fun y => { y with waitOperand := false }
      (match r with
       | .ok _ _ => (match ent with
          | some e => s.tlb1Fill (k / 8) { e with ctx := x.ctx }
          | none => s)
       | .fault typ seg page pa => ((s.streamFault k 0 x.ctx x.va typ seg page pa w).setStreamSt k .halted).closeWindow k
       | .protection why => s.abortItem k stProtection { reason := why, value := x.va, object := 0xFFFF }
       | .walkError => s.abortItem k stWalkError { value := x.va, object := 0xFFFF })
    | .rowRef k =>
      (match r with
       | .ok _ _ => (match ent with
          | some e => s.tlb1Fill (k / 8) { e with ctx := x.ctx }
          | none => s)
       | .fault typ seg page pa => (s.streamFault k 1 x.ctx x.va typ seg page pa w).holdRefs k
       | .protection why => s.abortFront k stProtection { reason := why, value := x.va, object := 0xFFFF }
       | .walkError =>
         (match (s.stream k).queue with
          | .ref q :: _ => s.abortFront k stWalkError { object := q.table.getD 0xFFFF, value := q.row }
          | _ => s.abortFront k stWalkError { value := x.va, object := 0xFFFF }))
    | _ => s) s

/-- WALK_COMPLETE: a walk in one of the 64 walkers ends; its entry fills the second level, and its requesters go on, fault or end
(R116, R316, R318, R319). -/
def execWalkComplete (ctx : Nat) (seg : Fin 16) (page : Nat) (s : State) : Out :=
  actS s fun s =>
    match (s.walks.take 64).find? (fun x => x.ctx == ctx && x.seg == seg.val && x.page == page) with
    | none => s
    | some x =>
      let s := { s with walks := s.walks.erase x }
      match s.segOf ctx x.va with
      | none => s.walkEnds x (.protection 0x54) none
      | some (i, g) =>
        let (r, ent) := s.walk i g x.va x.write
        let s := s.noteWalk g x.va
        let s := match ent with
          | some e => s.tlb2Fill { e with ctx := ctx }
          | none => s
        s.walkEnds x r ent

/-- STREAM_RESUME: after service, the held references are translated again in order, and the halted stream resumes (R105,
R110). -/
def State.resume (s : State) (k fuel : Nat) : State :=
  let x := s.stream k
  match fuel with
  | 0 => s
  | fuel + 1 =>
    if x.queue = [] then
      if x.st = .halted then (s.closeWait 6 (agentStream k) false none none).setStreamSt k .running else s
    else
      let s' := match x.queue with
        | .ref r :: _ =>
          (match r.table.bind s.table? with
           | some t => (s.xlate t.owner (t.desc.vaOf .cold r.row) false).1
           | none => s)
        | _ => s
      let s'' := s'.stageOne k
      if (s''.stream k).queue.length < x.queue.length then s''.resume k fuel else s''

/-- Whether a stream awaits the service of a fault. -/
def State.streamWaits (s : State) (k : Nat) : Bool :=
  s.faultWait (.operand k) || s.faultWait (.rowRef k)

/-- STREAM_RESUME (R105, R110). -/
def execStreamResume (st : StreamId) (s : State) : Out :=
  let x := s.stream st.key
  actSWhen s (x.st == .halted && !x.faulted && !s.streamWaits st.key) (·.resume st.key 40)

/-! ## Lanes (R46, R130, R428) -/

/-- A fetch all of whose sectors have arrived. -/
def Fetch.arrived (f : Fetch) : Bool := f.sectors.all fun e => e.2 != .wait

/-- Bytes of a fetched range: none when a sector of it is bad. -/
def Fetch.bytes (f : Fetch) (va n : Nat) : Option (List Byte) :=
  let ks := (List.range ((va % 64 + n + 63) / 64)).map fun i => va / 64 + i
  let parts := ks.map fun k => match kget f.sectors k with
    | some (.data d) => some (sectorBytes d)
    | _ => none
  if parts.any (· == none) then none else some (((parts.reduceOption.flatten).drop (va % 64)).take n)

/-- A fetch is gone from its stream. -/
def State.dropFetch (s : State) (k id : Nat) : State := s.updStream k fun x => { x with fetches := x.fetches.filter (·.id ≠ id) }

/-- The promoted copy is unreadable: the row is read from its cold copy in its place (R428). -/
def State.refetchCold (s : State) (k : Nat) (t : Table) (f : Fetch) : State :=
  let s := s.markRepair t.desc.table f.ref.row false
  match s.fetchLines k t.owner (t.desc.linesFor .cold f.ref.row) [] with
  | (s, none, .stop st d) => s.abortFrom k f.ref.bag st d
  | (s, none, _) => s
  | (s, some ls, _) => (s.dropFetch k f.id).startFetch k t f.ref .cold true ls

/-- A coefficient row of an LR table waits for the arrays that reconstruct it (R241). -/
def State.queueLr (s : State) (k : Nat) (f : Fetch) (t : Nat) : State :=
  { s with feeder := { s.feeder with lrQueue := s.feeder.lrQueue ++ [(k, f.id, t)] } }

/-- A row's elements reach the lanes (R130). -/
def State.landRow (s : State) (k : Nat) (t : Table) (f : Fetch) (es : List Deq) : State :=
  let n := t.desc.table
  let c := f.ref.src.cmd
  let s := s.countReads n es
  let s := if f.recon then s.countTable n 7 1 else s
  let leaf : Leaf := { pos := f.ref.pos, table := n, vals := es.map (·.val), weight := f.ref.weight, item := f.ref.src.item }
  let s := (s.dropFetch k f.id).updBag c f.ref.bag fun b =>
    { b with leaves := b.leaves ++ [leaf], recon := if f.recon then b.recon ++ [f.ref.src.item] else b.recon }
  (s.checkBag c f.ref.bag).itemOut k c

/-- A poisoned row touches its bag (R147, R428). -/
def State.landPoison (s : State) (k : Nat) (f : Fetch) (t : Nat) : State :=
  let c := f.ref.src.cmd
  let s := (s.dropFetch k f.id).updBag c f.ref.bag fun b =>
    { b with poison := b.poison ++ [(f.ref.src.item, t, f.ref.row, f.ref.pos)] }
  (s.checkBag c f.ref.bag).itemOut k c

/-- Whether a row is known to be poisoned (R428). -/
def State.isPoisoned (s : State) (t row : Nat) : Bool := s.poisoned.any fun p => p.table == t && p.row == row && !p.stateOnly

/-- Row data of a stream reaches the lanes: the first fetch whose sectors are all there (R46, R130, R428); a coefficient row goes to the
projection feeder (R241). -/
def State.landOne (s : State) (k : Nat) : State :=
  match (s.stream k).fetches.find? fun f => f.arrived && !s.inFeeder k f.id with
  | none => s
  | some f =>
    match f.ref.table.bind s.table? with
    | none => (s.dropFetch k f.id).itemOut k f.ref.src.cmd
    | some t =>
      let n := t.desc.table
      let side := f.side.map fun va => f.bytes va 16
      if s.isPoisoned n f.ref.row then s.landPoison k f n
      else if side = some none then (s.poisonRow n f.ref.row false).landPoison k f n
      else
        match f.bytes f.va f.size with
        | none =>
          if f.copy = .cold then (s.poisonRow n f.ref.row false).landPoison k f n else s.refetchCold k t f
        | some bs =>
          if t.desc.fmtOf f.copy = fcLR then s.queueLr k f n
          else s.landRow k t f (t.desc.values (t.desc.fmtOf f.copy) bs side.join)

/-- LANE_DATA_ARRIVAL: the data of a row reaches the lanes and the nodes of the tree whose children are final are formed; a whole
bag's outputs are written (R46, R132). -/
def execLaneDataArrival (st : StreamId) (s : State) : Out := actS s (·.landOne st.key)

end Sys2Proof.Machine
end

