-- ==== Sys2Proof/Machine/RegAccess.lean ====
section
/-! DEFINITION. Which register writes take effect: the sources of each register (R408, R462), units whose domain is still in reset
(R465), and the fence (R464). -/

namespace Sys2Proof.Machine

def isPlinth (r : Requester) : Bool := r == .plinth
def isCore (r : Requester) : Bool :=
  match r with
  | .cc _ => true
  | _ => false
def isPkg (r : Requester) : Bool := r == .pkg
def isFabric (r : Requester) : Bool := r == .fabric

/-- Registers written from P and C (R462 and the register tables). -/
def writersPC (r : Requester) : Bool := isPlinth r || isCore r
/-- Registers written from C and H. -/
def writersCH (r : Requester) : Bool := isCore r || isPkg r
/-- Registers written from P, C, H and F. -/
def writersAll (_r : Requester) : Bool := true

/-- The register that a core's own heartbeat names. -/
def ownHb (off : Nat) (r : Requester) : Bool :=
  match r with
  | .plinth => off == 0xE0020
  | .cc _ => decide (0xE0024 ≤ off) && decide (off ≤ 0xE0030) && (off - 0xE0024) % 4 == 0
  | _ => false

/-- Whether a source's write to a register takes effect: the Writers column of its table (R462). A control core's write into another
core's heartbeat slot is judged by its TAKEOVER bit (R435). -/
def writerOk (off : Nat) (r : Requester) : Bool :=
  if off < 0x10000 then false
  else if off < 0x30000 then writersPC r
  else if off = 0x30000 then writersCH r
  else if off < 0x40000 then writersPC r
  else if off = 0x40010 ∨ off = 0x40014 ∨ off = 0x4001C then writersCH r
  else if off = 0x40020 ∨ off = 0x40024 then isPlinth r
  else if off < 0x60000 then writersPC r
  else if off < 0x70000 then writersCH r
  else if off = 0x80010 then isPlinth r
  else if off < 0x90090 then writersPC r
  else if off < 0xA0000 then writersCH r
  else if off = 0xB0004 then isPlinth r
  else if off < 0xC0000 then writersPC r
  else if off = 0xC0000 ∨ off = 0xC000C ∨ off = 0xD0008 ∨ off = 0xE0010 then writersAll r
  else if off < 0xE0000 then false
  else if off = 0xE0020 ∨ (0xE0024 ≤ off ∧ off ≤ 0xE0030) then ownHb off r
  else if off = 0xE0040 then isPlinth r
  else if off < 0xF0000 then writersPC r
  else false

/-- Whether the unit of a register has left reset (R404, R465; log entry 17). -/
def State.unitUp (s : State) (off : Nat) : Bool :=
  if off < 0x10000 then true
  else if off < 0x30000 then s.boot.coreLocked
  else if off < 0x40000 then s.boot.poolReady
  else if off < 0x80000 then s.boot.coreLocked
  else if off < 0xA0000 then s.boot.memLocked
  else if off < 0xB0000 then s.boot.coreLocked
  else true

/-- Registers of a lost slice ignore writes. -/
def State.onLostSlice (s : State) (off : Nat) : Bool :=
  decide (0x10000 ≤ off) && decide (off < 0x20000) && (s.slice ((off - 0x10000) / 0x1000)).lost

/-- Writes that pass a fence, from H and F alone (R464). -/
def fencePasses (off : Nat) (r : Requester) : Bool :=
  (isPkg r || isFabric r) && (off == 0xC0000 || off == 0xC000C || off == 0xE0010 || off == 0xD0008)

/-- Whether a write reaches its register (R408, R462, R464, R465). -/
def State.writeReaches (s : State) (off : Nat) (r : Requester) : Bool :=
  !s.boot.held && s.boot.ctlLocked && (!s.err.fenced || fencePasses off r) && writerOk off r && s.unitUp off && !s.onLostSlice off

/-- A register write that has an effect of its own. -/
def actReg (s : State) (off : Nat) (r : Requester) (f : State → State) : Out :=
  .next (if s.writeReaches off r then (if s.alive then (f s).settle else f s) else s)

end Sys2Proof.Machine
end

