-- ==== Sys2Proof/Machine/CacheRows.lean ====
section
/-! DEFINITION. The row cache at work: requests at a bank (R255 to R259), errors and map-out (R275 to R277), snoops (R269), patrol
scrub (R279), and the rows of the cache's own registers. -/

namespace Sys2Proof.Machine

/-! ## Delivery to the lanes' fetches -/

/-- The state of a sector in a fetch. -/
def Fetch.setSector (f : Fetch) (a : Nat) (v : SectorState) : Fetch :=
  { f with sectors := f.sectors.map fun e => if e.1 = a && e.2 == .wait then (a, v) else e }

/-- Sectors of one line reach a fetch of a stream (R46). `data` gives each sector index its state. -/
def State.deliver (s : State) (w : Joiner) (data : List (Nat × SectorState)) : State :=
  s.updStream w.stream fun x =>
    { x with fetches := x.fetches.map fun f =>
        if f.id = w.fetch then data.foldl (fun f e => f.setSector (w.vline / 64 + e.1) e.2) f else f }

/-- The sector indexes of a mask. -/
def maskBits (mask : Nat) : List Nat := [0, 1, 2, 3].filter fun k => bitOf mask k

/-! ## Errors of the arrays (R275, R276) -/

/-- A bit of RC_STAT is set (R285). -/
def State.rcStat (s : State) (bit : Nat) : State := s.orReg 0x20018 (BitVec.ofNat 32 (2 ^ bit))

/-- Dirty data of a way goes to memory and the write is acknowledged at once (R276). -/
def State.flushWay (s : State) (set w : Nat) : State :=
  let x := s.way set w
  if x.mir ∨ x.sd = 0 then s
  else
    let line := s.physOf (lineFrom set x.tag * 256)
    ((s.cleanWay set w 0).forceLine line).settleLine line

/-- The fill entry of a way goes on without it. -/
def State.detachFill (s : State) (set w : Nat) : State :=
  { s with rc := { s.rc with fills := s.rc.fills.map fun (f : Fill) =>
      if f.way == (some w) && setOf (lineNo f.line) == set then { f with way := none } else f } }

/-- TAG_PARITY_ERROR: a way that fails parity is written back from its mirror and invalidated; a mirror way is invalidated and its
primary takes a new one (R276). -/
def State.tagParity (s : State) (set w : Nat) : State :=
  let x := s.way set w
  let action := if x.mir ∨ x.sd ≠ 0 then 2 else 1
  let s := (s.rcStat 2).errorRecord { code := 0x0005, unit := 2, index := bankOf set w, action := action }
  if x.mir then
    let s := s.setWay set w {}
    let p := mirrorSet set
    if (s.way p x.pway).sd ≠ 0 then s.mirrorWay p x.pway 0 else s
  else if x.invalid then s
  else ((s.flushWay set w).detachFill set w).evict set w 0

/-- Whether a page of a table's staging region holds a physical address (R173, R275). -/
def State.stagesAt (s : State) (t : Table) (pa : Nat) : Bool :=
  match t.opt with
  | none => false
  | some o =>
    let size := 64 * o.buckets + o.maxTouched * t.desc.slotBytes
    (List.range (size / 2 ^ 16 + 1)).any fun i =>
      let va := o.stageBase + min (2 ^ 16 * i) (size - 1)
      match (s.xlate t.owner va false).2 with
      | .ok p _ => decide (p / 2 ^ 16 = pa / 2 ^ 16)
      | _ => false

/-- Staging data is lost before its table set enters WRITING: the step is marked failed (R176, R195, R275). -/
def State.loseStaging (s : State) (pa : Nat) : State :=
  (s.tables.filter fun e => s.stagesAt e.2 pa).foldl (fun s e =>
    match s.tset? e.2.tset with
    | some t => if t.st = .opened ∨ t.st = .pending ∨ t.st = .draining then s.markFailed e.2.tset noCmd else s
    | none => s) s

/-- Data of a sector is lost in both copies: the sector is invalidated, a poisoned write goes to memory, after which an OWN line that is clean
is deregistered, and the loss is recorded; lost staging data may fail its step (R268, R275, R427). -/
def State.loseSector (s : State) (set w k : Nat) : State :=
  let x := s.way set w
  let a := lineFrom set x.tag * 256 + 64 * k
  let sd := x.sd &&& ~~~(BitVec.ofNat 4 (2 ^ k))
  let clean := decide (sd = 0) && !x.shared
  let x' : Way := { x with sv := x.sv &&& ~~~(BitVec.ofNat 4 (2 ^ k)), sd := sd, reg := x.reg && !clean }
  let s := if sd = 0 then s.freeMirror set w else s
  let s := s.setWay set w x'
  let s := match s.mirrorOf set w with
    | some m => s.setWay (mirrorSet set) m { s.way (mirrorSet set) m with sd := sd, sv := sd }
    | none => s
  let s := (s.rcStat 5).countBank (bankOf set w) 3
  let s := (s.poisonSector a (x.reg && clean)).errorRecord { code := 0x0004, unit := 2, index := bankOf set w, action := 4, addr := s.physOf a }
  if x.cls = 4 then s.loseStaging (s.physOf a) else s

/-- The times of the last uncorrectable errors of a bank, within 1 ms (R277). -/
def State.noteUe (s : State) (b : Nat) : State :=
  let l := (sget [] s.rc.ueTimes b).filter (fun t => decide (s.time < t + 1000000)) ++ [s.time]
  { s with rc := { s.rc with ueTimes := sput [] s.rc.ueTimes b l } }

/-- A clean sector is invalidated, and a request for it becomes a sector miss (R275, R426; log entry 48). -/
def State.dropSector (s : State) (set w k : Nat) : State :=
  let x := s.way set w
  let b := bankOf set w
  let s := (s.setWay set w { x with sv := x.sv &&& ~~~(BitVec.ofNat 4 (2 ^ k)) }).rcStat 3
  ((s.countBank b 1).noteUe b).errorRecord
    { code := 0x0002, unit := 2, index := b, action := 1, addr := s.physOf (lineFrom set x.tag * 256 + 64 * k) }

/-- A sector of a primary or mirror way is recovered from its other copy (R275, R426; log entry 48). -/
def State.otherCopy (s : State) (set w k : Nat) : State :=
  let b := bankOf set w
  (((s.rcStat 4).countBank b 2).noteUe b).errorRecord
    { code := 0x0003, unit := 2, index := b, action := 2, addr := s.physOf (lineFrom (if (s.way set w).mir then mirrorSet set else set) (s.way set w).tag * 256 + 64 * k) }

/-- The bank whose word an error was found in: for an error in a mirror, the mirror's (R253, R273). -/
def State.errorBank (s : State) (set w : Nat) (e : EccEvent) : Nat :=
  match e, s.mirrorOf set w with
  | .ueMirror, some m => bankOf (mirrorSet set) m
  | _, _ => bankOf set w

/-- An error found in a sector of a way: the sector is corrected, invalidated, recovered from its other copy, or lost (R275). -/
def State.eccSector (s : State) (set w k : Nat) (e : EccEvent) : State :=
  let x := s.way set w
  let b := bankOf set w
  let dirty := bitOf x.sd.toNat k
  match e with
  | .none => s
  | .tagParity way => s.tagParity set way
  | .ce => (s.rcStat 1).countBank b 0
  | .ueMirror =>
    if dirty ∧ x.mir = false then
      match s.mirrorOf set w with
      | some m => s.otherCopy (mirrorSet set) m k
      | none => s
    else s
  | .ue => if x.mir ∨ dirty = true then s.otherCopy set w k else if bitOf x.sv.toNat k then s.dropSector set w k else s
  | .ueBoth =>
    if x.mir then (s.loseSector (mirrorSet set) x.pway k).noteUe b
    else if dirty then (s.loseSector set w k).noteUe b
    else if bitOf x.sv.toNat k then s.dropSector set w k
    else s

/-! ## Map-out (R277) -/

/-- The ways listed in a bank: set and way. -/
def State.bankWays (s : State) (b : Nat) : List (Nat × Nat) :=
  (s.rc.ways.map fun e => (e.1 / 16, e.1 % 16)).filter fun e => bankOf e.1 e.2 == b

/-- BANK_MAP_OUT: a bank's ways are disabled; fills into them go on without them, clean lines and clean sectors are invalid, and dirty
sectors and mirrors stay listed until the background pass has written them back (R277). -/
def State.mapOut (s : State) (b : Nat) : State :=
  if bitOf s.rc.out.toNat b then s
  else
    let s := { s with rc := { s.rc with out := s.rc.out ||| BitVec.ofNat 64 (2 ^ b), passes := s.rc.passes ++ [b] } }
    let s := (s.rcStat 6).errorRecord { code := 0x0006, unit := 2, index := b, action := 5 }
    ((s.bankWays b).foldl (fun s (set, w) =>
      let s := s.detachFill set w
      let x := s.way set w
      if x.mir then s
      else if x.sd ≠ 0 then s.setWay set w { x with sv := x.sv &&& x.sd, lock := false }
      else s.evict set w 0) s).wayFreed

/-- Sixteen uncorrectable errors within 1 ms map a bank out (R277). -/
def State.checkUe (s : State) (b : Nat) : State := if 16 ≤ (sget [] s.rc.ueTimes b).length then s.mapOut b else s

/-- BANK_TIMEOUT: a bank whose controller does not answer within 1 µs is mapped out (R277). -/
def execBankTimeout (bank : Fin 64) (s : State) : Out := act s (·.mapOut bank)

/-- RC_MAP_OUT: Armature maps a bank out (R277, R286). -/
def execRcMapOut (r : Requester) (bank : BitVec 6) (s : State) : Out := actReg s 0x2001C r (·.mapOut bank.toNat)

/-- MAP_OUT_PASS_END: the dirty lines of a bank, and the primaries whose mirrors were in it, have been written to memory (R277). -/
def execMapOutPassEnd (bank : Fin 64) (s : State) : Out :=
  actSWhen s (s.rc.passes.contains bank.val) fun s =>
    let s := (s.bankWays bank).foldl (fun s (set, w) =>
      let x := s.way set w
      if x.mir then ((s.cleanWay (mirrorSet set) x.pway 0).setWay set w {}) else (s.detachFill set w).evict set w 0) s
    { s with rc := { s.rc with passes := s.rc.passes.filter (· ≠ bank.val) } }

/-- RESEED: every group's LFSR is loaded from the seed (R263, R280). -/
def execReseed (r : Requester) (s : State) : Out := actReg s 0x20000 r (·.loadLfsrs)

/-! ## Waiting for memory (R256) -/

/-- The fill entries of a line that have a way. -/
def State.fillsOf (s : State) (line : Nat) : List Fill := s.rc.fills.filter fun f => f.line == line && f.way.isSome

def State.updFills (s : State) (line : Nat) (f : Fill → Fill) : State :=
  { s with rc := { s.rc with fills := s.rc.fills.map fun x => if x.line = line then f x else x } }

/-- Who waits for a request: the joiners of its line's fill entries or, where it takes none, its own stream's waiters (R251, R256). -/
def State.waitersOf (s : State) (line stream : Nat) (direct : Bool) : List Joiner :=
  if direct then (s.rc.direct.filter fun e => e.1 == line && e.2.stream == stream).map (·.2)
  else (s.rc.fills.filter (·.line == line)).flatMap (·.joiners)

/-- The first bag of a stream's fetches that wait for a line. -/
def State.lineBag (s : State) (k line : Nat) : Nat :=
  let ids := ((s.waitersOf line k true ++ s.waitersOf line k false).filter fun w => w.stream == k).map (·.fetch)
  (((s.stream k).fetches.filter fun (f : Fetch) => ids.contains f.id).map fun (f : Fetch) => f.ref.bag).foldl min (s.stream k).arch.bag

/-- Fill entries of a bank group in use (R256). -/
def State.groupFills (s : State) (set : Nat) : Nat := (s.rc.fills.filter fun f => groupOf (setOf (lineNo f.line)) == groupOf set).length

/-- Whether the memory request of a line's latest fill has not been issued (R256). -/
def State.unissued (s : State) (line : Nat) : Bool := s.streams.any fun e => (e.2.window ++ e.2.issue).any fun r => r.line == line && !r.direct

/-- The latest fill entry of a line. -/
def State.lastFill (s : State) (line : Nat) : Option Fill := (s.fillsOf line).getLast?

/-- A memory request that has not been issued takes in the sectors of a mask (R256). -/
def MissReq.widen (r : MissReq) (line mask : Nat) : MissReq :=
  if r.line = line ∧ r.direct = false then
    (maskBits mask).foldl (fun r k => { r with lo := min r.lo k, hi := max r.hi k }) r
  else r

def State.widenMiss (s : State) (line mask : Nat) : State :=
  { s with streams := s.streams.map fun (e : Nat × Stream) =>
      (e.1, { e.2 with window := e.2.window.map (·.widen line mask), issue := e.2.issue.map (·.widen line mask) }) }

/-! ## Requests at a bank (R24, R255 to R259) -/

/-- Sectors of a request that a way holds. -/
def Way.has (x : Way) (mask : Nat) : Bool := (maskBits mask).all fun k => bitOf x.sv.toNat k

/-- Sectors of a mask that a way does not hold. -/
def Way.missing (x : Way) (mask : Nat) : Nat := mask - Nat.land mask x.sv.toNat

/-- Whether the missing sectors of a line can be waited for in its fill entries: they have joined fills with room for one joiner more (an
opener and sixteen), and a further fill has an entry (R256). -/
def State.mayWait (s : State) (line set mask : Nat) : Bool :=
  let fs := s.fillsOf line
  let new := mask - Nat.land mask (fs.foldl (fun a f => Nat.lor a f.need) 0)
  fs.all (fun f => decide (Nat.land f.need mask = 0) || decide (f.joiners.length < 17)) &&
    (new == 0 ||
      (if s.unissued line && !fs.isEmpty then
         (match s.lastFill line with
          | some f => decide (f.joiners.length < 17)
          | none => true)
       else decide (s.groupFills set < 2048)))

/-- Whether an access to a line that is not held goes to memory without allocating (R259, R265). -/
def State.goesDirect (s : State) (r : CacheReq) : Bool := r.wattr == 2 || s.noWays (setOf (lineNo (localOf r.line))) (s.classMask r.cls)

/-- Whether a request can be served now, joined to a fill, or given a fill and a way; one that comes after a write that waits for the line
waits too (R256, R257). -/
def State.reqReady (s : State) (r : CacheReq) : Bool :=
  let set := setOf (lineNo (localOf r.line))
  !s.lineBlocked r.line &&
    match s.lookup (localOf r.line) with
    | some w => (s.way set w).has r.who.mask || s.wayOut set w || s.mayWait r.line set ((s.way set w).missing r.who.mask)
    | none => s.goesDirect r || (s.candidates set (s.classMask r.cls) != 0 && decide (s.groupFills set < 2048))

/-- The sector requests of a miss (R125). -/
def missReqs (r : CacheReq) (cmd : CmdId) (direct : Bool) (mask : Nat) : List MissReq :=
  (maskBits mask).map fun k => { line := r.line, lo := k, hi := k, ctx := r.ctx, cmdCtx := r.cmdCtx, cmd := cmd, direct := direct }

/-- Sectors are read without allocating: the request waits for them alone (R256, R265). -/
def State.askDirect (s : State) (r : CacheReq) (cmd : CmdId) (mask : Nat) : State :=
  ({ s with rc := { s.rc with direct := s.rc.direct ++ [(r.line, { r.who with mask := mask })] } } : State).addMiss r.who.stream (missReqs r cmd true mask)

/-- A fill entry is opened for sectors of a line, and they are asked of memory (R256). -/
def State.openFill (s : State) (r : CacheReq) (cmd : CmdId) (w mask : Nat) : State :=
  let f : Fill := { line := r.line, way := some w, need := mask, cls := r.cls, shared := r.shared, joiners := [{ r.who with mask := mask }] }
  ({ s with rc := { s.rc with fills := s.rc.fills ++ [f] } } : State).addMiss r.who.stream (missReqs r cmd false mask)

/-- A request joins the fill entries that await its sectors, and `more` is added to the latest of them (R256). -/
def State.joinFills (s : State) (r : CacheReq) (mask more : Nat) : State :=
  { s with rc := { s.rc with fills := s.rc.fills.map fun f =>
      if f.line = r.line ∧ f.way.isSome = true then
        let last := s.lastFill r.line == some f
        let part := Nat.lor (Nat.land f.need mask) (if last then more else 0)
        if part = 0 then f else { f with need := Nat.lor f.need part, joiners := f.joiners ++ [{ r.who with mask := part }] }
      else f } }

/-- Wait for sectors of a line that a way holds or is reserved for: those in a fill are joined, others are added to a fill whose request has
not been issued, or go out as a second fill of the same way (R256). -/
def State.wantSectors (s : State) (r : CacheReq) (cmd : CmdId) (w mask : Nat) : State :=
  let fs := s.fillsOf r.line
  let new := mask - Nat.land mask (fs.foldl (fun a f => Nat.lor a f.need) 0)
  if new ≠ 0 ∧ s.unissued r.line = true ∧ fs ≠ [] then (s.joinFills r mask new).widenMiss r.line new
  else
    let s := s.joinFills r mask 0
    if new = 0 then s else s.openFill r cmd w new

/-- The sectors of a request that a way holds are returned. -/
def State.serveHeld (s : State) (r : CacheReq) (x : Way) : State :=
  s.deliver r.who (((maskBits r.who.mask).filter fun k => bitOf x.sv.toNat k).map fun k => (k, SectorState.data (x.sector k)))

/-- The table whose row a request reads, for its counters (R447). -/
def State.reqTable (s : State) (r : CacheReq) : Option Nat :=
  ((s.stream r.who.stream).fetches.find? (·.id == r.who.fetch)).bind (·.ref.table)

def State.countReq (s : State) (r : CacheReq) (hit : Bool) : State :=
  match s.reqTable r with
  | some t => s.countTable t (if hit then 2 else 3) 1
  | none => s

/-- A way that held a line and has lost its last valid sector stays the line's, for the sector miss that follows (R275). -/
def State.keepWay (s : State) (set w tag : Nat) : State :=
  let x := s.way set w
  if x.sv = 0 ∧ x.mir = false ∧ x.tag = tag then s.setWay set w { x with lock := true } else s

/-- The errors that a request's lookup and read find are handled before it goes on; a bank may be mapped out for them (R275 to R277). -/
def State.requestErrors (s : State) (r : CacheReq) (e : EccEvent) : State :=
  let a := localOf r.line
  let set := setOf (lineNo a)
  match e with
  | .none => s
  | .tagParity w => s.tagParity set w
  | e =>
    match s.lookup a with
    | none => s
    | some w =>
      let x := s.way set w
      match (maskBits r.who.mask).filter fun k => bitOf x.sv.toNat k with
      | k :: _ => ((s.eccSector set w k e).keepWay set w x.tag).checkUe (s.errorBank set w e)
      | [] => s

/-- A request at its bank: a hit, a sector miss, a miss that allocates, or one that does not (R255, R256, R259, R265). -/
def State.cacheRequest (s : State) (r : CacheReq) (e : EccEvent) : State :=
  let a := localOf r.line
  let set := setOf (lineNo a)
  let cmd := (s.stream r.who.stream).arch.cmd
  let s := s.requestErrors r e
  let s := if s.noWays set (s.classMask r.cls) then s.countEngine r.cls 1 else s
  match s.lookup a with
  | some w =>
    let x := s.way set w
    let s := (s.unitWork (20 + groupOf set) (maskBits r.who.mask).length).serveHeld r x
    let missing := x.missing r.who.mask
    if missing = 0 then (s.touch set w).countReq r true
    else if s.wayOut set w then (s.countReq r false).askDirect r cmd missing
    else ((s.setWay set w { x with lock := true }).countReq r false).wantSectors r cmd w missing
  | none =>
    let s := s.countReq r false
    if s.goesDirect r then s.askDirect r cmd r.who.mask
    else
      let (s, v) := s.victim set (s.classMask r.cls)
      match v with
      | none => s.askDirect r cmd r.who.mask
      | some w =>
        let s := s.evict set w (s.partOf r.cmdCtx)
        let s := s.setWay set w { cls := r.cls, tag := tagOf (lineNo a), shared := r.shared, reg := r.shared, lock := true }
        let s := if r.shared then s.send (.register r.line) else s
        s.openFill r cmd w r.who.mask

/-- The bank that a request waits for: its line's, or the first of its group when the line is not held (R24, R253; log entry 98). -/
def State.reqBank (s : State) (r : CacheReq) : Nat :=
  let set := setOf (lineNo (localOf r.line))
  match s.lookup (localOf r.line) with
  | some w => bankOf set w
  | none => 4 * groupOf set

/-- The request that a slice has before the crossbar: the oldest that can go on. -/
def State.headReq (s : State) (slice : Nat) : Option CacheReq := (s.slice slice).reqs.find? s.reqReady

/-- Whether a slice is the next in round-robin order with a request for a bank (R24). -/
def State.itsTurn (s : State) (slice bank : Nat) : Bool :=
  let last := sget 16 s.rc.grant bank
  let order := (List.range 17).map fun i => (last + 1 + i) % 17
  ((order.filter (· < 16)).find? fun i => ((s.headReq i).map s.reqBank) == some bank) == some slice

/-- ROW_CACHE_REQUEST: the oldest request of a slice that can go on is granted at its bank, in the bank's round-robin order (R24, R255). -/
def execRowCacheRequest (slice : Fin 16) (e : EccEvent) (s : State) : Out :=
  actSWhen s s.boot.coreLocked fun s =>
    match s.headReq slice with
    | none => s
    | some r =>
      let b := s.reqBank r
      if s.itsTurn slice b then
        (({ s with rc := { s.rc with grant := sput 16 s.rc.grant b slice.val } } : State).updSlice slice fun x => { x with reqs := x.reqs.erase r }).cacheRequest r e
      else s

/-! ## Snoops (R269) -/

/-- The dirty sectors of the line that the engine holds, for the reply to a snoop. -/
def State.snoopReply (s : State) (line : Nat) : State :=
  let a := localOf line
  match s.lookup a with
  | some w =>
    let x := s.way (setOf (lineNo a)) w
    s.send (.snoopReply line x.sd x.data)
  | none => s.send (.snoopReply line 0 (Vector.replicate 4 0))

/-- The line is written to memory and made clean, and deregistered: with the acknowledgement of its write, or at once where it was clean (R268,
R269, R297). -/
def State.snoopClean (s : State) (line : Nat) : State :=
  let a := localOf line
  let set := setOf (lineNo a)
  let s := match s.lookup a with
    | some w =>
      let x := s.way set w
      let t := s.cleanWay set w 0
      if (t.way set w).reg then (t.setWay set w { t.way set w with reg := false }).send (.deregister line)
      else if x.reg then t
      else s
    | none => s
  if s.wc.any (·.waits line) then s.drain line else s

/-- A snoop is answered: the dirty sectors are returned, written to memory and made clean; an invalidating one then invalidates the line
(R269). -/
def State.snoop (s : State) (line : Nat) (invalidate : Bool) : State :=
  let s := (s.snoopReply line).snoopClean line
  match invalidate, s.lookup (localOf line) with
  | true, some w => (s.evict (setOf (lineNo (localOf line))) w 0).wayFreed
  | _, _ => s

/-- A snoop waits for an operation that works on its line: it is answered when the fill ends (R257, R269). -/
def State.takeSnoop (s : State) (line : Nat) (invalidate : Bool) : State :=
  if s.fillPending line then { s with rc := { s.rc with snoops := s.rc.snoops ++ [(line, invalidate)] } } else s.snoop line invalidate

/-- READ_SNOOP (R269). -/
def execReadSnoop (line : Nat) (s : State) : Out := actS s (·.takeSnoop (line / 256 * 256) false)

/-- INVALIDATING_SNOOP (R269). -/
def execInvalidatingSnoop (line : Nat) (s : State) : Out := actS s (·.takeSnoop (line / 256 * 256) true)

/-- The snoops of a line that waited are answered, in their order (R269). -/
def State.runSnoops (s : State) (line : Nat) : State :=
  let mine := s.rc.snoops.filter fun e => e.1 == line
  mine.foldl (fun s e => s.snoop e.1 e.2) { s with rc := { s.rc with snoops := s.rc.snoops.filter fun e => e.1 != line } }

/-- COHERENCE_REGISTRATION_ACCEPT: the directory has accepted the registration of a dirty line, and its writes are acknowledged
(R267, R268). -/
def execCoherenceRegistrationAccept (line : Nat) (s : State) : Out :=
  actS s fun s =>
    match s.rc.regs.find? (·.line == line) with
    | none => s
    | some r => ({ s with rc := { s.rc with regs := s.rc.regs.erase r } }).notifyAll r.waiters

/-! ## Patrol scrub (R279) -/

/-- The set whose upper bits are `u` in group `g` (R253). -/
def setInGroup (g u : Nat) : Nat := 16 * u + Nat.xor g (groupOf (16 * u))

/-- Whole patrol passes of the banks in service. -/
def State.patrolPasses (s : State) : Nat :=
  ((List.range 64).filter fun b => !bitOf s.rc.out.toNat b).foldl (fun (m : Option Nat) b =>
    let n := sget 0 s.rc.patrol b / 2 ^ 21
    match m with
    | some x => some (min x n)
    | none => some n) none |>.getD 0

/-- PATROL_SCRUB_READ: the next sector of a bank is read, and its errors are handled (R275, R276, R279; log entry 18). -/
def execPatrolScrubRead (bank : Fin 64) (e : EccEvent) (s : State) : Out :=
  actSWhen s (s.patrolNs != 0 && s.boot.coreLocked && !s.rc.scrubbing && !bitOf s.rc.out.toNat bank &&
      decide (sget 0 s.rc.patrolAt bank + s.patrolNs ≤ s.time)) fun s =>
    let n := sget 0 s.rc.patrol bank
    let i := n % 2 ^ 21
    let set := setInGroup (bank / 4) (i / 16)
    let w := 4 * (bank % 4) + i / 4 % 4
    let before := s.patrolPasses
    let s := if (s.way set w).lock then s
      else
        let b := s.errorBank set w e
        let t := (s.eccSector set w (i % 4) e).checkUe b
        if (t.way set w).invalid then t.evict set w 0 else t
    let s := { s with rc := { s.rc with patrol := sput 0 s.rc.patrol bank (n + 1), patrolAt := sput 0 s.rc.patrolAt bank s.time } }
    if before < s.patrolPasses then (s.rcStat 0).countEngine 28 1 else s

end Sys2Proof.Machine
end

