-- ==== Sys2Proof/Machine/Parser.lean ====
section
/-! DEFINITION. The command parser: the ten checks of R363, the acceptance of a packet, and the ring queues it fetches from (R333 to
R337). -/

namespace Sys2Proof.Machine

/-! ## What each opcode uses (R341, R343) -/

/-- A form of operand descriptor field: which kinds are legal. -/
structure DescForm where
  none : Bool := false
  inl : Bool := false
  ref : Bool := false
  imm : Bool := false
  deriving DecidableEq, Repr

/-- The fields that an opcode uses: flags and OPARAM as masks; OBJ, HANDLE and COUNT; the four descriptors; the length of the block that
the parser reads, and from which descriptor (3 for DX). -/
structure OpSpec where
  flags : Nat := 1
  oparam : Nat := 0
  obj : Bool := false
  handle : Bool := false
  count : Bool := false
  d0 : DescForm := { none := true }
  d1 : DescForm := { none := true }
  d2 : DescForm := { none := true }
  dx : DescForm := { none := true }
  deriving DecidableEq, Repr

def operandForm : DescForm := { inl := true, ref := true }
def optionalForm : DescForm := { none := true, inl := true, ref := true }
def refForm : DescForm := { ref := true }
def refOptional : DescForm := { none := true, ref := true }

/-- The uses of each opcode (R341, R342, R343, R345, R352). -/
def opSpec (op : Nat) : Option OpSpec :=
  if op = opNop then some {}
  else if op = opGather then
    some { flags := 0x17, oparam := 0x1FFF, obj := true, handle := true, count := true, d0 := operandForm, d1 := operandForm
           d2 := refForm, dx := optionalForm }
  else if op = opGatherSeq then
    some { flags := 0x15, oparam := 0x1FFF, obj := true, handle := true, count := true, d0 := operandForm, d1 := operandForm
           d2 := refForm, dx := optionalForm }
  else if op = opScatter then
    some { flags := 0x09, oparam := 0x1FFF, obj := true, handle := true, count := true, d0 := operandForm, d1 := operandForm
           d2 := operandForm, dx := optionalForm }
  else if op = opApply then some { obj := true, count := true, d0 := { none := true, imm := true } }
  else if op = opProject then some { oparam := 0xF, count := true, d0 := optionalForm, d2 := refForm, dx := operandForm }
  else if op = opLoadPlan then some { flags := 0x21, handle := true, d0 := operandForm }
  else if op = opUnloadPlan then some { handle := true }
  else if op = opMapSegment then some { oparam := 0xF, count := true, d0 := operandForm }
  else if op = opInvalidate then some { oparam := 0xFFFF, count := true, dx := optionalForm }
  else if op = opConfig then some { oparam := 0xFFFF, dx := optionalForm }
  else if op = opSnapshot then some { obj := true, d0 := refForm }
  else if op = opRestore then some { obj := true, d0 := refForm }
  else if op = opSetEnvelope then some { oparam := 0xF }
  else if op = opQuery then some { oparam := 0xFFFF, d2 := refForm }
  else if op = opTraceCtl then some { dx := operandForm }
  else if op = opWaitGraph then some { d2 := refForm }
  else if op = opDrain then some { dx := operandForm }
  else if op = opJoin then some { dx := operandForm }
  else if op = opDebug then some { dx := operandForm }
  else none

/-! ## The CONFIG sub-ops (R353, R389) -/

def subContextCreate : Nat := 0x01
def subContextDelete : Nat := 0x02
def subQueueCreate : Nat := 0x03
def subQueueDelete : Nat := 0x04
def subGrant : Nat := 0x05
def subArmWeights : Nat := 0x06
def subPromoList : Nat := 0x07
def subExpander : Nat := 0x08
def subPoolShare : Nat := 0x09
def subAttest : Nat := 0x0A
def subSetNode : Nat := 0x10
def subRouteSet : Nat := 0x11
def subRouteClear : Nat := 0x12
def subNeighbours : Nat := 0x13
def subShardSet : Nat := 0x14
def subPort : Nat := 0x15

/-- Bytes of a sub-op's block, as R353 lays it out: 0 for a code that is not defined. The header of a promotion list stands for the
list, which its handler reads (R354). -/
def subBlock (sub : Nat) : Nat :=
  if sub = subContextCreate then 64
  else if sub = subContextDelete then 8
  else if sub = subQueueCreate then 32
  else if sub = subQueueDelete then 8
  else if sub = subGrant then 16
  else if sub = subArmWeights then 8
  else if sub = subPromoList then 16
  else if sub = subExpander then 8
  else if sub = subPoolShare then 8
  else if sub = subAttest then 24
  else if sub = subSetNode then 8
  else if sub = subRouteSet then 40
  else if sub = subRouteClear then 8
  else if sub = subNeighbours then 8
  else if sub = subShardSet then 16
  else if sub = subPort then 8
  else 0

/-- The block that the parser reads with check 6: its descriptor and length (R343, R346, R348, R352, R353, R391, R392, R451, R457). -/
def blockOf (p : List Byte) : Nat × Nat :=
  let op := pktOpcode p
  if isBagOp op then (pktDX p, if pktDX p = 0 then 0 else 144 + if flFused p then 96 else 0)
  else if op = opProject then (pktDX p, 96)
  else if op = opMapSegment then (pktD0 p, 32)
  else if op = opInvalidate then (pktDX p, if pktDX p = 0 then 0 else 32)
  else if op = opConfig then (pktDX p, subBlock (pktOparam p))
  else if op = opTraceCtl then (pktDX p, 32)
  else if op = opDrain ∨ op = opJoin then (pktDX p, 16)
  else if op = opDebug then (pktDX p, 160)
  else (0, 0)

/-! ## Check 1: reserved fields (R340, R341, R343) -/

/-- Bits of `v` outside a mask. -/
def outside (v mask : Nat) : Nat := v - Nat.land v mask

/-- Check 1: the version, PLEN with as many bytes behind the header, the reserved bits, and the fields that the opcode does not use. -/
def headerOk (p : List Byte) : Bool :=
  pktHver p == 1 && pktFlags p / 2 ^ 6 == 0 && pktCtxq p / 2 ^ 18 == 0 && pktPlen p % 4 == 0 && decide (pktPlen p ≤ 4032) &&
    p.length == 64 + pktPlen p &&
    match opSpec (pktOpcode p) with
    | none => true
    | some o =>
      outside (pktFlags p) o.flags == 0 && outside (pktOparam p) o.oparam == 0 && (o.obj || pktObj p == 0) &&
        (o.handle || pktHandle p == 0) && (o.count || pktCount p == 0) &&
        (o.d0 != { none := true } || pktD0 p == 0) && (o.d1 != { none := true } || pktD1 p == 0) &&
        (o.d2 != { none := true } || pktD2 p == 0) && (o.dx != { none := true } || pktDX p == 0)

/-! ## Checks 2 to 5 -/

/-- Check 2 for a fabric packet from node `src` (R362, R363). -/
def State.fabricOk (s : State) (ctx src : Nat) : Bool :=
  match s.context? ctx with
  | some x => bitOf x.rights.toNat 5 && Nat.land src x.srcMask == Nat.land x.srcNode x.srcMask && !x.deleting
  | none => false

/-- Check 3: whether the engine takes new work, or the command is one that it serves in this state (R363, R392, R395). -/
def State.drainOk (s : State) (p : List Byte) : Bool :=
  let op := pktOpcode p
  let st := s.fab.st
  (st != .draining && st != .drained && st != .isolated) || op == opQuery || op == opTraceCtl || op == opWaitGraph || op == opDebug ||
    (st == .isolated && pktCtx p == 4095 && (op == opConfig || op == opJoin))

/-- Rights by name (R362). -/
def rPlan : Nat := 1
def rMemory : Nat := 2
def rMgr : Nat := 4
def rObserve : Nat := 8
def rDebug : Nat := 16

def hasRight (rights mask : Nat) : Bool := Nat.land rights mask != 0

/-- Check 5: the right of R364. QUERY_COUNTERS needs OBSERVE for the counters of another context (log entry 66). Sub-ops of a queue's own context, and of a plan's owner, are judged by check 8. -/
def rightOk (rights : Nat) (p : List Byte) : Bool :=
  let op := pktOpcode p
  let sub := pktOparam p
  if op = opLoadPlan then hasRight rights rPlan
  else if op = opMapSegment ∨ op = opInvalidate then hasRight rights rMemory
  else if op = opSetEnvelope ∨ op = opDrain ∨ op = opJoin then hasRight rights rMgr
  else if op = opTraceCtl ∨ op = opWaitGraph then hasRight rights rObserve
  else if op = opDebug then hasRight rights rDebug
  else if op = opQuery then sub / 2 ^ 12 != 2 || sub % 2 ^ 12 == 0 || sub % 2 ^ 12 == pktCtx p || hasRight rights rObserve
  else if op = opConfig then
    if sub = subGrant then hasRight rights rMemory
    else if sub = subAttest then hasRight rights (rMgr + rObserve)
    else if sub = subContextCreate ∨ sub = subContextDelete ∨ sub = subExpander ∨ sub = subPoolShare ∨ (0x10 ≤ sub ∧ sub ≤ 0x1F) then
      hasRight rights rMgr
    else true
  else true

/-! ## Check 6: descriptors (R342) -/

/-- A descriptor of a field: its kind is one the field allows, and its bounds and alignment are legal. -/
def descIs (f : DescForm) (d w plen : Nat) : Bool :=
  (match bitsOf d 63 62 with
   | 0 => f.none
   | 1 => f.inl
   | 2 => f.ref
   | _ => f.imm) && descOk d w plen f.none f.imm

/-- Entry width of an output in a format code (R146). -/
def entryWidth (f : Nat) : Nat := if f = 0 ∨ f = 1 ∨ f = 2 ∨ f = 9 then outWidth f else 1

/-- The widths of D0, D1 and D2 of an opcode: of P0 by the program's initial mode, of the offsets, of the outputs. -/
def State.entryWidths (s : State) (p : List Byte) : Nat × Nat × Nat :=
  let op := pktOpcode p
  if isBagOp op then
    let w0 := match s.image? (pktHandle p) with
      | some i => widthBytes (modeWidth i.mode0 0)
      | none => 1
    (w0, if opOff64 p then 8 else 4, entryWidth (opFmt p))
  else if op = opProject then (1, 1, entryWidth (bitsOf (pktOparam p) 3 0))
  else if op = opQuery then (1, 1, 8)
  else (1, 1, 1)

/-- Check 6 on the header. -/
def State.headerDescs (s : State) (p : List Byte) : Bool :=
  match opSpec (pktOpcode p) with
  | none => false
  | some o =>
    let n := pktPlen p
    let (w0, w1, w2) := s.entryWidths p
    let dx := if (isBagOp (pktOpcode p) && (flFused p || flDeterministic p || flMinEpoch p)) ||
        (pktOpcode p == opConfig && subBlock (pktOparam p) != 0) ||
        (pktOpcode p == opInvalidate && (bitsOf (pktOparam p) 1 0 == 0 || bitOf (pktOparam p) 6)) then operandForm else o.dx
    pktReply p % 32 == 0 && descIs o.d0 (pktD0 p) w0 n && descIs o.d1 (pktD1 p) w1 n && descIs o.d2 (pktD2 p) w2 n &&
      descIs dx (pktDX p) 1 n

/-- The bits of PARAM that a stage uses (R349). -/
def paramMask (func : Nat) : Nat :=
  if func = 1 then 0x1FFF00FF else if func = 2 then 0xFFF else if func = 4 then 0x0FFFFFFF else 0

/-- Whether the reserved fields of a bag block and a projection block are zero (R346, R348, R349, R363). -/
def blockClear (p b : List Byte) : Bool :=
  (!isBagOp (pktOpcode p) || b == [] ||
      (zeroRange b 7 1 && zeroRange b 60 4 && (pktOpcode p != opScatter || zeroRange b 68 12))) &&
    match projPart p b with
    | none => true
    | some q =>
      zeroRange q 3 5 &&
        (List.range 4).all (fun i =>
          bitsOf (field q (32 + 16 * i + 1) 1) 7 4 == 0 && zeroRange q (32 + 16 * i + 3) 1 && zeroRange q (32 + 16 * i + 6) 2) &&
        (projBlock q).stages.all fun g => decide (4 < g.func) || outside g.param (paramMask g.func) == 0

/-- Check 6 on the bag block: the ports, and POS where the mode needs it (R346). -/
def State.bagDescs (s : State) (p b : List Byte) : Bool :=
  let n := pktPlen p
  let x := if b = [] then ({} : BagBlock) else bagBlock b
  let mode := opMode p
  let width := fun (k : Nat) => match s.image? (pktHandle p) with
    | some i => widthBytes (modeWidth i.mode0 k)
    | none => 1
  descIs optionalForm (x.ports.getD 0 0) (width 1) n && descIs optionalForm (x.ports.getD 1 0) (width 2) n &&
    descIs optionalForm (x.ports.getD 2 0) (width 3) n &&
    descIs (if pktOpcode p = opScatter then optionalForm else refOptional) x.pos 4 n && descIs refOptional x.mask 4 n &&
    ((mode != 2 && mode != 4) || x.pos != 0)

/-- Check 6 on a projection block: the areas that its stages need, each aligned to its entries (R342, R348, R349). X, and dY of BWD_X, have
XFMT; dY of WGRAD has IFMT; the scratch area has the elements of the later stages (R233, R235, R236). -/
def projDescs (p b : List Byte) : Bool :=
  let x := projBlock b
  let n := pktPlen p
  let back := x.stages.any fun g => g.func == 3 || g.func == 4
  let later := (x.stages.drop 1).foldl (fun w g => max w (codeWidth g.ifmt)) 1
  let dyWidth := if x.stages.any (fun g => g.func == 3) then entryWidth x.xfmt else 2
  (decide (x.stages.length ≤ 1) || descIs refForm x.scratch later n) && descIs refOptional x.scratch later n && descIs refOptional x.pooled 4 n &&
    descIs (if back then operandForm else { none := true }) x.dy dyWidth n &&
    (pktOpcode p != opProject || descIs optionalForm (pktD0 p) (entryWidth x.xfmt) n) &&
    (pktOpcode p != opProject || x.stages.any (fun g => g.func == 3) || pktD0 p != 0)

/-! ## Checks 7 and 8: objects (R364) -/

/-- A plan whose handles commands still know (R370). -/
def State.planLive (s : State) (h : Nat) : Bool :=
  match s.plan? h with
  | some p => !p.unloading
  | none => false

def State.tsetLive (s : State) (h : Nat) : Bool :=
  match s.tset? h with
  | some t => s.planLive t.plan
  | none => false

def State.tableLive (s : State) (t : Nat) : Bool :=
  match s.table? t with
  | some x => s.tsetLive x.tset
  | none => false

def State.imageLive (s : State) (h : Nat) : Bool :=
  match s.image? h with
  | some i => s.planLive i.plan
  | none => false

def State.wsetLive (s : State) (h : Nat) : Bool :=
  match s.wset? h with
  | some w => s.planLive w.plan
  | none => false

/-- The tables a bag command names, by its block (R346). -/
def bagTables (p b : List Byte) : List Nat :=
  pktObj p :: ((if b = [] then [] else (bagBlock b).tables).filter (· ≠ 0xFFFF))

/-- The weight sets that the stages of a block name (R349). -/
def stageWsets (x : ProjBlock) : List Nat := (x.stages.filter fun g => g.func ≠ 1 ∧ g.func ≠ 4).map (·.wset)

/-- The weight sets of a command. -/
def cmdWsets (p b : List Byte) : List Nat :=
  match projPart p b with
  | some q => stageWsets (projBlock q)
  | none => []

/-- Check 7: every handle, table and set named is installed; a context or queue named exists. -/
def State.objectsOk (s : State) (p b : List Byte) : Bool :=
  let op := pktOpcode p
  let sub := pktOparam p
  (cmdWsets p b).all s.wsetLive &&
    (if isBagOp op then s.imageLive (pktHandle p) && (bagTables p b).all s.tableLive
     else if op = opApply ∨ op = opSnapshot ∨ op = opRestore then s.tsetLive (pktObj p)
     else if op = opUnloadPlan then s.planLive (pktHandle p)
     else if op = opMapSegment ∨ op = opInvalidate then (s.context? (pktCount p)).isSome
     else if op = opConfig then
       if sub = subContextDelete then (s.context? (field b 0 2)).isSome
       else if sub = subQueueDelete then
         s.rings.any (fun e => e.2.ctx == field b 0 2 && e.2.queue == field b 2 1) ||
           s.fabqs.any (fun q => q.ctx == field b 0 2 && q.queue == field b 2 1)
       else if sub = subArmWeights then s.wsetLive (field b 0 2)
       else if sub = subPromoList ∨ sub = subShardSet then s.tsetLive (field b 0 2)
       else true
     else true)

/-- The table sets that a command reads: of its tables, and of its bound weight sets (R187, R199). -/
def State.readSets (s : State) (p b : List Byte) : List Nat :=
  let ofTables := if isBagOp (pktOpcode p) then (bagTables p b).filterMap fun t => (s.table? t).map (·.tset) else []
  let ofW := (cmdWsets p b).filterMap fun h => (s.wset? h).bind fun w => if w.bound then some w.tset else none
  (ofTables ++ ofW).dedup

/-- Whether a context owns everything that a reading command names. -/
def State.ownsAll (s : State) (ctx : Nat) (p b : List Byte) : Bool :=
  (s.readSets p b).all (fun h => ((s.tset? h).map (·.owner)) == (some ctx)) &&
    (cmdWsets p b).all (fun h => ((s.wset? h).map (·.owner)) == (some ctx)) &&
    (!isBagOp (pktOpcode p) || ((s.image? (pktHandle p)).bind fun i => (s.plan? i.plan).map (·.owner)) == (some ctx))

/-- Whether a context reads every table set that a command reads: as its owner or on its reader list (R364). -/
def State.readsAll (s : State) (ctx : Nat) (p b : List Byte) : Bool :=
  (s.readSets p b).all fun h =>
    match s.tset? h with
    | some t => t.owner == ctx || t.readers.any (·.1 == ctx)
    | none => false

/-- Check 8: the context owns or reads what it names (R364). -/
def State.ownerOk (s : State) (ctx rights : Nat) (p b : List Byte) : Bool :=
  let op := pktOpcode p
  let sub := pktOparam p
  if op = opGather ∨ op = opGatherSeq ∨ op = opProject then s.ownsAll ctx p b || s.readsAll ctx p b
  else if op = opScatter then s.ownsAll ctx p b
  else if op = opApply ∨ op = opSnapshot ∨ op = opRestore then ((s.tset? (pktObj p)).map (·.owner)) == (some ctx)
  else if op = opUnloadPlan then ((s.plan? (pktHandle p)).map (·.owner)) == (some ctx)
  else if op = opConfig then
    if sub = subQueueCreate ∨ sub = subQueueDelete then hasRight rights rMgr || field b 0 2 % 2 ^ 12 == ctx
    else if sub = subArmWeights then ((s.wset? (field b 0 2)).map (·.owner)) == (some ctx)
    else if sub = subPromoList then ((s.tset? (field b 0 2)).map (·.owner)) == (some ctx)
    else true
  else true

/-! ## Check 9: limits -/

/-- Bag offsets never decrease, and no bag has more entries than R79 allows (R344). -/
def offsetsOk (offs : List Nat) (fan : Nat) : Bool :=
  match offs with
  | a :: b :: rest => decide (a ≤ b) && decide (b - a ≤ 2 ^ 24 / fan) && offsetsOk (b :: rest) fan
  | _ => true

/-- The limits of a bag command's header and block that need no offsets (R140, R142, R143, R149, R152, R165, R345, R347). -/
def State.bagLimits (s : State) (p b : List Byte) : Bool :=
  let op := pktOpcode p
  let mode := opMode p
  let x := if b = [] then ({} : BagBlock) else bagBlock b
  let ts := (bagTables p b).filterMap s.table?
  let det := flDeterministic p
  let fixedOk := ((some (pktObj p) :: x.tables.map slotOf).zip x.fixedT).all fun e =>
    match (e.1.bind s.table?).bind (·.opt) with
    | some o => !o.winFixed || (b != [] && decide (-100 ≤ e.2) && decide (e.2 ≤ 127))
    | none => true
  decide (1 ≤ pktCount p) && decide (pktCount p ≤ 2 ^ 24) && (mode == 4 || opKm1 p == 0) &&
    (ts.map fun t => t.desc.elems).dedup.length == 1 &&
    (if op = opScatter then
      decide (mode ≤ 6) && decide (opFmt p ≤ 2) && (ts.map (·.tset)).dedup.length == 1 && ts.all (·.opt.isSome) && fixedOk
     else
      (if op = opGatherSeq then mode == 5 else (decide (mode ≤ 4) || mode == 6)) &&
        (decide (opFmt p ≤ 2) || (opFmt p == 9 && det && (mode == 0 || mode == 3) && !flFused p)) &&
        (!det || (decide (-100 ≤ x.winT) && decide (x.winT ≤ 127))))

/-- Whether a stage pairs a weight set with its input format (R224). -/
def pairOk (w : WeightSet) (ifmt : Nat) : Bool :=
  if w.fmt = 5 ∨ w.fmt = 7 then (ifmt == 5 && w.groupLen == 32) || ifmt == 7
  else if w.fmt = 3 ∨ w.fmt = 4 then ifmt == 3 || ifmt == 4
  else ifmt == 1 || ifmt == 2

/-- What a chain is fed with: nothing (PROJECT), the pooled bags of a fused GATHER, or the sequences of a fused GATHER_SEQ. -/
inductive ChainFeed where
  | project
  | pooled (k elems sampleBags : Nat)
  | sequence (elems : Nat) (lens : List Nat)
  deriving DecidableEq, Repr

/-- The first stage of a chain (R223, R224, R234, R237, R239, R240, R247): the N of its output. -/
def State.firstStage (s : State) (feed : ChainFeed) (g : StageDesc) : Option Nat :=
  if g.func = 0 then
    match s.wset? g.wset with
    | none => none
    | some w =>
      let fits := match feed with
        | .project => true
        | .pooled k _ _ => w.k == k
        | .sequence _ _ => false
      if fits && pairOk w g.ifmt then some w.n else none
  else if g.func = 1 then
    let f := interF g.param
    let d := interD g.param
    let fits := match feed with
      | .project => true
      | .pooled _ e n => f == n && d == e
      | .sequence _ _ => false
    if fits && g.wset == 0xFFFF && decide (2 ≤ f) && decide (f ≤ 128) && decide (1 ≤ d) &&
        decide (d ≤ 4096) && (g.ifmt == 1 || g.ifmt == 2 || g.ifmt == 3 || g.ifmt == 4 || g.ifmt == 5) then some (f * (f - 1) / 2) else none
  else if g.func = 2 then
    match feed, s.wset? g.wset with
    | .sequence e lens, some w =>
      let c := convParam g.param
      if pairOk w g.ifmt && w.k == c.kw * e && e % w.groupLen == 0 &&
          decide ((127 * c.stride + (c.kw - 1) * c.dil + 1) * e * codeWidth g.ifmt ≤ 2 ^ 23) && lens.all (fun l => decide (1 ≤ c.outLen l))
        then some w.n else none
    | _, _ => none
  else none

/-- The later stages of a chain: FWD, each of the K that the one before gives (R247). -/
def State.laterStages (s : State) (n : Nat) (gs : List StageDesc) : Bool :=
  match gs with
  | [] => true
  | g :: rest =>
    match s.wset? g.wset with
    | some w => g.func == 0 && w.k == n && pairOk w g.ifmt && s.laterStages w.n rest
    | none => false

/-- The limits of a projection (R224, R233, R235, R236, R240, R247). -/
def State.projLimits (s : State) (feed : ChainFeed) (b : List Byte) (outFmt samples : Nat) : Bool :=
  let x := projBlock b
  let common := decide (1 ≤ field b 0 1) && decide (field b 0 1 ≤ 4) && decide (outFmt ≤ 2) && decide (1 ≤ samples) && decide (samples ≤ 2 ^ 24) && x.stages.all (fun g => decide (g.outfn ≤ 1))
  common &&
    match x.stages with
    | [] => false
    | g :: rest =>
      if g.func = 3 then
        rest == [] && feed == .project && (g.ifmt == 1 || g.ifmt == 2) && decide (x.xfmt ≤ 2) && decide (outFmt ≤ 1) && (s.wset? g.wset).isSome
      else if g.func = 4 then
        rest == [] && feed == .project && g.wset == 0xFFFF && (g.ifmt == 1 || g.ifmt == 2) && (x.xfmt == 1 || x.xfmt == 2) && outFmt == 0
      else
        (feed != .project || decide (x.xfmt ≤ 2)) &&
          match s.firstStage feed g with
          | some n => s.laterStages n rest
          | none => false

/-- The selectors of QUERY_COUNTERS: groups 0 to 6, and an instance only where a group has instances (R445). -/
def selectorOk (sel : Nat) : Bool :=
  let g := sel / 2 ^ 12
  decide (g ≤ 6) && (g == 2 || g == 3 || g == 4 || sel % 2 ^ 12 == 0)

/-- Check 9 on a command, its offsets given (R79, R149, R224, R240, R247, R344). -/
def State.limitsOk (s : State) (p b : List Byte) (offs : List Nat) (fan : Nat) : Bool :=
  let op := pktOpcode p
  if op = opQuery then selectorOk (pktOparam p)
  else if op = opProject then s.projLimits .project b (bitsOf (pktOparam p) 3 0) (pktCount p)
  else if isBagOp op then
    s.bagLimits p b && offsetsOk offs fan &&
      (if flFused p then
        let q := b.drop 144
        let e := ((s.table? (pktObj p)).map (·.desc.elems)).getD 1
        let lens := (List.range (offs.length - 1)).map fun i => (offs.getD (i + 1) 0 - offs.getD i 0) * fan
        let n := (projBlock q).sampleBags
        let whole := (n == 1 || n == 2 || n == 4 || n == 8 || n == 16 || n == 32 || n == 64) && pktCount p % n == 0
        if op = opGatherSeq then whole && s.projLimits (.sequence e lens) q (opFmt p) (pktCount p)
        else whole && s.projLimits (.pooled (n * e) e n) q (opFmt p) (pktCount p / n)
       else true)
  else true

/-! ## The parser -/

/-- What the checks find: the block, the offsets and the fan-out of an accepted command; a refusal; or a wait. -/
inductive Verdict where
  | ok (block : List Byte) (offs : List Nat) (fan : Nat)
  | no (st : Nat) (d : ErrDetail)
  | wait
  deriving DecidableEq, Repr

/-- A read of an operand as a verdict when it does not give bytes (R311, R430). -/
def Rd.verdict (r : Rd) : Verdict :=
  match r with
  | .stop st d => .no st d
  | .bad _ => .no stAborted {}
  | _ => .wait

/-- Bindings that disagree with PORT_USE (R92). -/
def portsBound (portUse : Nat) (x : BagBlock) : Bool :=
  ([1, 2, 3] : List Nat).all fun p => decide (portUseOf portUse p ≠ 0) == decide (x.ports.getD (p - 1) 0 ≠ 0)

/-- The offsets operand (R344). -/
def offsetList (p bs : List Byte) : List Nat :=
  let w := if opOff64 p then 8 else 4
  (List.range (pktCount p + 1)).map fun i => field bs (w * i) w

/-- Checks 9 and 10, and the port bindings between them (R92, R204, R363). -/
def State.lastChecks (s : State) (p b : List Byte) (offs : List Nat) (fan portUse : Nat) : Verdict :=
  let x := if b = [] then ({} : BagBlock) else bagBlock b
  let positions := (offs.getLastD 0 - offs.headD 0) * fan
  if s.limitsOk p b offs fan = false then .no stMalformed (reason 0x44)
  else if isBagOp (pktOpcode p) && !portsBound portUse x then .no stProgram (reason 6)
  else if (pktOpcode p == opGather || pktOpcode p == opGatherSeq) &&
      (s.readSets p b).any (fun h => decide (((s.tset? h).map (·.readLimit)).getD 0 < positions)) then .no stCapacity (reason 0x60)
  else .ok b offs fan

/-- Checks 7 to 10, the block given. -/
def State.objectChecks (s : State) (c : CmdId) (ctx rights : Nat) (p b : List Byte) : State × Verdict :=
  if s.objectsOk p b = false then (s, .no stMalformed (reason 0x43))
  else if s.ownerOk ctx rights p b = false then (s, .no stProtection (reason 0x53))
  else if isBagOp (pktOpcode p) then
    let (fan, portUse) := match s.image? (pktHandle p) with
      | some i => (2 ^ i.fanLog2, i.portUse.toNat)
      | none => (1, 0)
    if pktCount p = 0 ∨ 2 ^ 24 < pktCount p then (s, .no stMalformed (reason 0x44))
    else
      match s.readOperand c p (pktD1 p) 0 ((pktCount p + 1) * if opOff64 p then 8 else 4) with
      | (s, .ok bs) => (s, s.lastChecks p b (offsetList p bs) fan portUse)
      | (s, r) => (s, r.verdict)
  else (s, s.lastChecks p b [] 1 0)

/-- An in-line descriptor that names a block holds all of it (R342, R346; log entry 56). -/
def blockFits (d n : Nat) : Bool :=
  match desc d with
  | .inline _ len => decide (n ≤ len)
  | _ => true

/-- The block of a packet that carries it in-line, as check 1 sees it (R342, R363). -/
def inlineBlock (p : List Byte) : Option (List Byte) :=
  match blockOf p with
  | (d, n) => match desc d with
    | .inline off len => if n ≤ len ∧ off + n ≤ pktPlen p then some (((p.drop 64).drop off).take n) else none
    | _ => none

/-- Check 1 on the reserved fields of a packet: of its header, and of a bag or projection block that it carries in-line. Those of a
referenced block are checked when the block has been read, which checks 2 to 6 must allow first (R363; DEDUCED: log entry 106). -/
def reservedClear (p : List Byte) : Bool :=
  headerOk p && match inlineBlock p with
    | some b => blockClear p b
    | none => true

/-- The checks of R363 in order, after check 2. -/
def State.checks (s : State) (c : CmdId) (p : List Byte) : State × Verdict :=
  let rights := ((s.context? c.ctx).map (·.rights.toNat)).getD 0
  if s.drainOk p = false then (s, .no stDraining (reason 0x51))
  else if opSpec (pktOpcode p) = none then (s, .no stMalformed (reason 0x41))
  else if rightOk rights p = false then (s, .no stProtection (reason 0x52))
  else if s.headerDescs p = false then (s, .no stMalformed (reason 0x42))
  else
    let (d, n) := blockOf p
    if blockFits d n = false then (s, .no stMalformed (reason 0x42)) else
    match if n = 0 then (s, Rd.ok []) else s.readOperand c p d 0 n with
    | (s, .ok b) =>
      let bagOk := !isBagOp (pktOpcode p) || s.bagDescs p b
      let projOk := match projPart p b with
        | some q => projDescs p q
        | none => true
      if blockClear p b = false then (s, .no stMalformed (reason 0x40))
      else if bagOk && projOk then s.objectChecks c c.ctx rights p b
      else (s, .no stMalformed (reason 0x42))
    | (s, r) => (s, r.verdict)

/-- A command is refused by the parser with a status alone (R359, R363). -/
def State.refuse (s : State) (c : CmdId) (st : Nat) (d : ErrDetail) : State :=
  (s.updJob c fun j => { j with parsed := true }).complete c st d

/-- The resident contexts (R365). -/
def State.residents (s : State) : List (Nat × Context) := s.contexts.filter fun e => e.2.resident

/-- The resident context used least recently among those with no command in progress (R365). -/
def State.lruContext (s : State) : Option Nat :=
  (s.residents.filter fun e => s.jobs.all fun j => decide (j.id.ctx ≠ e.1) || !j.parsed).foldl
    (fun (best : Option (Nat × Nat)) e =>
      match best with
      | some b => if e.2.lastUse < b.2 then some (e.1, e.2.lastUse) else best
      | none => some (e.1, e.2.lastUse)) none |>.map (·.1)

/-- Armature has Plinth make a context resident, taking a slot from the one used least recently when all 256 are taken; false when
every resident context has a command in progress (R365). -/
def State.makeResident (s : State) (ctx : Nat) : State × Bool :=
  match s.context? ctx with
  | none => (s, true)
  | some x =>
    let use := fun (s : State) => s.setContext ctx { x with resident := true, lastUse := s.nextOrder }
    if x.resident ∨ s.residents.length < 256 then (use s, true)
    else
      match s.lruContext with
      | none => (s, false)
      | some v =>
        let s := match s.context? v with
          | some y => s.setContext v { y with resident := false }
          | none => s
        (use s, true)

/-- Whether a table of a command accumulates in GROUP mode (R157, R178). -/
def State.namesGroup (s : State) (j : Job) : Bool :=
  j.tables.any fun t => match ((s.table? t).bind (·.opt)) with
    | some o => !o.winFixed
    | none => false

/-- The table set of a bag command's T0. -/
def State.setOf0 (s : State) (j : Job) : Nat := ((s.table? (pktObj j.pkt)).map (·.tset)).getD 0

/-- A SCATTER_GRAD is accepted: it joins the open step of its set, waits for the next step, or is refused (R155, R157, R197, R363). The
first member opens the group, and its sketches are clear (R170). -/
def State.joinStep (s : State) (c : CmdId) : State :=
  match s.job? c with
  | none => s
  | some j =>
    let h := s.setOf0 j
    let group := s.namesGroup j
    match s.tset? h with
    | none => s
    | some t =>
      if t.st = .torn then s.refuse c stAborted {}
      else if group then
        if t.st ≠ .opened ∨ t.groupClosed = true then (s.countSet h 10 1).refuse c stStepClosed { object := h }
        else if 1024 ≤ t.members.length then s.refuse c stCapacity { reason := 0x61, object := h, value := t.members.length + 1, limit := 1024 }
        else
          (s.updTset h fun t => { t with members := t.members ++ [c], heavy := if t.members = [] then {} else t.heavy }).updJob c fun j =>
            { j with scatter := some { tset := h, group := true } }
      else s.updJob c fun j => { j with scatter := some { tset := h, group := false, next := t.st ≠ .opened } }

/-- The sub-ops of DEBUG and of CONFIG are the ones their tables give; a handler refuses any other (R353, R457, R477). -/
def undefinedSub (p b : List Byte) : Option ErrDetail :=
  if pktOpcode p = opConfig ∧ subBlock (pktOparam p) = 0 then
    some { reason := 0x47, object := opConfig + 256 * (pktOparam p % 256), index := 18, value := pktOparam p }
  else if pktOpcode p = opDebug ∧ 3 < field b 0 1 then some { reason := 0x47, object := opDebug, index := 0x8000, value := field b 0 1 }
  else none

/-- UNLOAD_PLAN makes a plan's handles unknown to commands accepted after it (R370). -/
def State.unloading (s : State) (h : Nat) : State :=
  { s with plans := s.plans.map fun (p : Plan) => if p.handle = h then { p with unloading := true } else p }

/-- A reading command is accepted: it is refused when it names a TORN set, and is to read at the epoch in force when its one set does not
hold it (R197, R215). -/
def State.acceptReader (s : State) (c : CmdId) (p b : List Byte) : State :=
  let sets := if pktOpcode p = opSnapshot then [pktObj p] else s.readSets p b
  if sets.any fun h => s.setState h == .torn then s.refuse c stAborted {}
  else
    match s.job? c with
    | some j => s.updJob c fun k => { k with promised := s.promise j }
    | none => s

/-- The reading commands (R187). -/
def readingOp (op : Nat) : Bool := op == opGather || op == opGatherSeq || op == opProject || op == opSnapshot

/-- What acceptance does of its own: a SCATTER_GRAD joins its step, a reading command is bound to the epoch in force, an UNLOAD_PLAN hides
its plan, and a sub-op that is not defined is refused. -/
def State.accepted (s : State) (c : CmdId) (p b : List Byte) : State :=
  match undefinedSub p b with
  | some d => s.refuse c stMalformed d
  | none =>
    if pktOpcode p = opScatter then s.joinStep c
    else if readingOp (pktOpcode p) then s.acceptReader c p b
    else if pktOpcode p = opUnloadPlan then s.unloading (pktHandle p)
    else s

/-- Whether a command's context is resident (R365). -/
def State.isResident (s : State) (ctx : Nat) : Bool :=
  match s.context? ctx with
  | some x => x.resident
  | none => true

/-- The hardware parser passes a command whose context is not resident to Armature (R26). -/
def State.passOnce (s : State) (c : CmdId) : State := if s.isResident c.ctx then s else s.updJob c fun j => { j with passedOn := true }

/-- The parser goes on with a command that it has not accepted yet; one of a context that is not resident goes through Armature, which has the
context made resident first (R26, R363, R365). -/
def State.parse (s : State) (c : CmdId) : State :=
  match s.job? c with
  | none => s
  | some j =>
    let s := if j.parsed then s else s.passOnce c
    let (s, room) := if j.parsed then (s, true) else s.makeResident c.ctx
    if j.parsed || j.phase != .accepted || !room then s
    else
      match s.checks c j.pkt with
      | (s, .ok b offs fan) => (s.updJob c fun j => { j with parsed := true, block := b, offs := offs, fan := fan }).accepted c j.pkt b
      | (s, .no st d) => s.refuse c st d
      | (s, .wait) => s

/-- A packet reaches the parser: checks 1 and 2, and then the others (R363). A packet that fails check 2 has no REPLY of its own. -/
def State.accept (s : State) (c : CmdId) (p : List Byte) (dest : Dest) (sourceOk : Bool) : State :=
  let j : Job := { id := c, pkt := p, dest := dest, order := s.nextOrder, acceptedAt := s.time }
  let s := { s with nextOrder := s.nextOrder + 1 }
  let put := fun (j : Job) => { s with jobs := s.jobs ++ [j] }
  let mute := { j with pkt := putField p 24 8 0 }
  if reservedClear p = false then (put (if sourceOk then j else mute)).refuse c stMalformed (reason 0x40)
  else if sourceOk = false then (put mute).refuse c stProtection (reason 0x50)
  else (put j).parse c

/-! ## Ring queues (R333 to R337) -/

/-- A queue in error fetches nothing more, and CQ_QERR names it (R336; log entry 20). -/
def State.queueError (s : State) (i ctx : Nat) : State :=
  let s := s.updRing i fun q => { q with err := true }
  let s := s.errorRecord { code := 0x0016, unit := 10, index := i % 256, ctx := ctx }
  { s with qerrValid := true, qerrIndex := i }

/-- A doorbell of a ring: its counts are taken, or the queue is in error (R335, R336). -/
def State.doorbell (s : State) (i tail chead : Nat) : State :=
  match s.ring? i with
  | none => s
  | some q =>
    let n := 2 ^ q.log2Entries
    let f := q.fetched % 2 ^ 16
    let bad := decide (n < 2 ^ 16) && (decide (n ≤ (tail + 2 ^ 16 - f) % 2 ^ 16) || decide (n ≤ (tail + 2 ^ 16 - chead) % 2 ^ 16))
    if q.err then s
    else if bad then s.queueError i q.ctx
    else s.updRing i fun q => { q with tail := tail, chead := chead }

/-- Whether a ring has a slot to fetch (R335). -/
def Ring.canFetch (q : Ring) : Bool :=
  let f := q.fetched % 2 ^ 16
  !q.err && f != q.tail && decide ((f + 2 ^ 16 - q.chead) % 2 ^ 16 < 2 ^ q.log2Entries)

/-- Read bytes of a ring slot: in local memory only (R334; log entry 20). -/
def State.readSlot (s : State) (i : Nat) (q : Ring) (va n : Nat) : State × Rd :=
  let c : CmdId := ⟨q.ctx, q.queue, 0⟩
  let (s, r) := s.xlate q.ctx va false
  match r with
  | .ok pa _ =>
    if s.isLocal pa then s.readVa c { s.cmdSpace c with source := 5 } { joiner := .fetchQueue i } va n
    else (s, .bad pa)
  | .fault typ seg page pa => (s.faultFor { s.cmdSpace c with source := 5 } { joiner := .fetchQueue i } va false typ seg page pa, .wait)
  | _ => (s, .bad va)

/-- The lines of a packet slot are read and the packet goes to the parser, or the queue is in error, or the fetch waits for a fault
(R319, R334, R336, R430). -/
def State.fetchPacket (s : State) (i : Nat) (q : Ring) : State :=
  let va := q.sqBase + (q.fetched % 2 ^ q.log2Entries) * 2 ^ q.log2Slot
  match s.readSlot i q va (2 ^ q.log2Slot) with
  | (s, .ok bs) =>
    if 2 ^ q.log2Slot - 64 < pktPlen bs then s.queueError i q.ctx
    else
      let p := bs.take (64 + pktPlen bs)
      let s := s.updRing i fun q => { q with fetched := q.fetched + 1 }
      let ok := pktCtx p == q.ctx && pktQueue p == q.queue && !q.deleting &&
        match s.context? q.ctx with
        | some x => !x.deleting
        | none => false
      s.accept ⟨q.ctx, q.queue, pktSeq p⟩ p (.ring i) ok
  | (s, .wait) => s
  | (s, _) => s.queueError i q.ctx

/-- PACKET_FETCHED: the next slot of a ring has been fetched, and its packet reaches the parser (R334, R335, R363, R405). -/
def execPacketFetched (i : Fin 16384) (s : State) : Out :=
  actSWhen s s.isReady fun s =>
    match s.ring? i.val with
    | some q => if q.canFetch && !s.faultWait (.fetchQueue i.val) then s.fetchPacket i.val q else s
    | none => s

end Sys2Proof.Machine
end

