-- ==== Sys2Proof/Machine/Power.lean ====
section
/-! DEFINITION. Power envelopes and the shed input (R413 to R420). -/

namespace Sys2Proof.Machine

/-- The issue fraction of a level (R413): floor(64 × (C − 60) ÷ 420) with C = 480 − 24 n. -/
def levelQ (n : Nat) : Nat := 64 * (420 - 24 * n) / 420

/-- The issue fraction in force: 9 while shed is qualified (R413, R419). -/
def State.issueQ (s : State) : Nat := if s.pw.shed then 9 else levelQ s.pw.effective

/-- VALUE0 of a SET_ENVELOPE (R415). -/
def Power.value (p : Power) : Nat := p.effective + 16 * p.commanded + 256 * bit1 p.shed

/-- The SET_ENVELOPE in progress completes with the level reached (R415, R416). -/
def State.endEnvelope (s : State) : State :=
  match s.pw.cmd with
  | none => s
  | some c =>
    let s := { s with pw := { s.pw with cmd := none } }
    (s.updJob c fun j => { j with value0 := s.pw.value }).complete c

/-- A commanded level is taken (R415, R416, R419): at once when it lowers power, by steps when it raises it. -/
def State.setEnvelope (s : State) (c : CmdId) (level : Nat) : State :=
  let s := s.endEnvelope
  let s := { s with pw := { s.pw with commanded := level, cmd := some c } }
  if s.pw.shed then s.endEnvelope
  else if s.pw.effective ≤ level then { s with pw := { s.pw with effective := level, ramping := false } }.endEnvelope
  else if s.pw.hold ∨ s.pw.ramping then s
  else { s with pw := { s.pw with ramping := true, lastStep := s.time } }

/-- One step of the rise: the effective level moves one level toward the commanded one, and the SET_ENVELOPE ends when it is reached (R415). -/
def State.envelopeStep (s : State) : State :=
  let e := s.pw.effective - 1
  let s := { s with pw := { s.pw with effective := e, lastStep := s.pw.lastStep + 50000, ramping := decide (s.pw.commanded < e) } }
  if s.pw.ramping then s else s.endEnvelope

/-- Whether a step of the rise is due: 50 µs after the step before (R415, R420). -/
def State.envelopeDue (s : State) : Bool :=
  !s.boot.held && s.pw.ramping && !s.pw.shed && !s.pw.hold && decide (s.pw.lastStep + 50000 ≤ s.time)

/-- ENVELOPE_STEP: the effective level takes a step. Fences do not stop it (R415, R420). -/
def execEnvelopeStep (s : State) : Out :=
  .next (if s.envelopeDue then (if s.err.fenced then s.envelopeStep else s.envelopeStep.settle) else s)

/-- Shed becomes qualified: the effective level is 15 and the time is noted (R418 to R420). -/
def State.qualifyShed (s : State) : State :=
  if s.pw.shed then s
  else { s with pw := { s.pw with shed := true, effective := 15, ramping := false, hold := false, shedTime := s.time } }

/-- The event record of a qualification by both channels; the CODE of such an event is a free value (R418; log entry 61). -/
def State.shedRecord (s : State) : State :=
  if s.err.fenced then s
  else s.took.errorRecord { code := (Config.openWord s.fresh).toNat % 2 ^ 16, unit := 11, action := 8 }

/-- The trace event of DISC_FAULT, which began at `t`: R452 names no type for it, so that its TYPE is a free value (R418; log entry 61). -/
def State.discTrace (s : State) (t : Nat) : State :=
  if s.trace.en then
    s.took.traceWrite { typ := (Config.openWord s.fresh).toNat % 2 ^ 8, start := t, waiter := 0, holder := 0, object := 0, detail := 0 } false
      (s.time - t)
  else s

/-- Shed is released: the effective level stays at 15 through the release hold (R420). -/
def State.releaseShed (s : State) : State :=
  if s.pw.shed then { s with pw := { s.pw with shed := false, hold := true, releasedAt := s.time } } else s

/-- The evaluation of the filtered channels after one of them has been taken (R418). -/
def State.shedStep (s : State) : State :=
  if s.pw.filtA ≠ s.pw.filtB then
    if s.pw.disagreeSince = none then { s with pw := { s.pw with disagreeSince := some s.time, discDone := false } } else s
  else
    let short := match s.pw.disagreeSince with
      | some t => !s.pw.discDone && decide (t < s.time) && decide (s.time < t + s.discUs * 1000)
      | none => false
    let s := { s with pw := { s.pw with
      disagreeSince := none, discDone := false
      shortDisagree := if short then sat16 (s.pw.shortDisagree + 1) else s.pw.shortDisagree } }
    if s.pw.filtA then (if s.pw.shed then s else s.qualifyShed.shedRecord) else s.releaseShed

/-- SHED_INPUT_CHANGE: the level of a channel changes at the pin, in reset too (R417). Unaffected by fences (R420). -/
def execShedInputChange (chB asserted : Bool) (s : State) : Out :=
  .next (if chB then { s with pw := { s.pw with rawB := asserted, changedB := s.time } }
    else { s with pw := { s.pw with rawA := asserted, changedA := s.time } })

/-- SHED_FILTER_STABLE: a channel's level has been stable for 1 µs and is taken (R417, R418). -/
def execShedFilterStable (chB : Bool) (s : State) : Out :=
  .next (if s.boot.held then s
    else if chB then
      if s.pw.changedB + 1000 ≤ s.time then { s with pw := { s.pw with filtB := s.pw.rawB, takenB := true } }.shedStep else s
    else if s.pw.changedA + 1000 ≤ s.time then { s with pw := { s.pw with filtA := s.pw.rawA, takenA := true } }.shedStep else s)

/-- DISC_FAULT: a disagreement has lasted DISC_US: it counts as shed, with an error record and a trace event (R418, code 0x0019). -/
def execDiscFault (s : State) : Out :=
  .next (match s.pw.disagreeSince with
    | none => s
    | some t =>
      if !s.boot.held && !s.pw.discDone && decide (t + s.discUs * 1000 ≤ s.time) then
        let s := { s with pw := { s.pw with discDone := true, discFault := true } }.qualifyShed
        if s.err.fenced then s else (s.errorRecord { code := 0x0019, unit := 11, action := 8 }).discTrace t
      else s)

/-- RELEASE_HOLD_END: the hold of RELEASE_HOLD_MS ends and the rise to the commanded level begins (R420). -/
def execReleaseHoldEnd (s : State) : Out :=
  .next (if !s.boot.held && s.pw.hold && decide (s.pw.releasedAt + s.holdMs * 1000000 ≤ s.time) then
      if s.pw.commanded < s.pw.effective then { s with pw := { s.pw with hold := false, ramping := true, lastStep := s.time } }
      else { s with pw := { s.pw with hold := false } }
    else s)

end Sys2Proof.Machine
end

