-- ==== Sys2Proof/Machine/Spdm.lean ====
section
/-! DEFINITION. Plinth as an SPDM 1.2 responder (R411) and the measurements it reports (R412). The requests, capabilities, algorithms, the
slot and the measured blocks are the spec's; the layouts of the messages are those of the SPDM standard (PRESUMED: log entry 117). -/

namespace Sys2Proof.Machine

/-! ## Measurements (R412) -/

/-- The SHA-384 digest of bytes, as 48 bytes. -/
def digest48 (b : List Byte) : List Byte := leBytes 48 (leNat (Config.sha384 b))

/-- The digest of a running image, header and code, as 48 bytes. -/
def imageDigest (i : Option RunningImage) : List Byte :=
  match i with
  | some x => leBytes 48 (leNat x.digest)
  | none => zeros 48

/-- Block 2: the fuse state, that is the key slots, the revocations and the SVN minimums. -/
def State.fuseBlock (s : State) : List Byte :=
  s.fuses.keyDigests.flatten ++ leBytes 1 s.fuses.revoked.toNat ++ leBytes 4 s.fuses.plinthSvn ++ leBytes 4 s.fuses.armSvn

/-- Block 5: whether the debug gate is open, and its openings since cold reset. -/
def State.gateBlock (s : State) : List Byte := leBytes 1 (bit1 s.dbg.openNow) ++ leBytes 2 s.dbg.openings

/-- Block 6: the plan handles and plan-image digests installed, in handle order. -/
def State.planBlock (s : State) : List Byte :=
  ((s.plans.mergeSort fun a b => decide (a.handle ≤ b.handle)).map fun p => leBytes 2 p.handle ++ leBytes 48 p.digest).flatten

/-- The digest of a measured block by its index, with its value type in the DMTF format: 0 immutable ROM, 1 mutable firmware, 2 hardware
configuration, 3 firmware configuration. -/
def State.measured (s : State) (i : Nat) : Nat × List Byte :=
  match i with
  | 1 => (0, digest48 Config.bootRom)
  | 2 => (2, digest48 s.fuseBlock)
  | 3 => (1, imageDigest s.boot.plinth)
  | 4 => (1, imageDigest s.boot.arm)
  | 5 => (3, digest48 s.gateBlock)
  | _ => (3, digest48 s.planBlock)

/-- A measurement block: its index, the DMTF specification, its size, and the value with its type and size. -/
def State.measureBlock (s : State) (i : Nat) : List Byte :=
  let (ty, d) := s.measured i
  leBytes 1 i ++ leBytes 1 1 ++ leBytes 2 51 ++ leBytes 1 ty ++ leBytes 2 48 ++ d

/-- The blocks that an operation of GET_MEASUREMENTS asks for: none for 0, all for 0xFF, else the one of an index. -/
def spdmBlocks (op : Nat) : List Nat := if op = 0 then [] else if op = 0xFF then [1, 2, 3, 4, 5, 6] else [op]

/-! ## Messages -/

/-- A message: version 1.2, its code and two parameters, then its body. -/
def spdmMsg (code p1 p2 : Nat) (body : List Byte) : List Byte := [0x12#8] ++ leBytes 1 code ++ leBytes 1 p1 ++ leBytes 1 p2 ++ body

/-- An ERROR message. -/
def spdmError (code data : Nat) : List Byte := spdmMsg 0x7F code data []

/-- A response with its signature over the exchange. -/
def spdmSigned (req rsp : List Byte) (fresh : Nat) : List Byte := rsp ++ leBytes 96 (Config.spdmSign (req ++ rsp) fresh).toNat

/-- VERSION: one entry, 1.2. -/
def spdmVersion : List Byte := [0x10#8, 0x04#8, 0#8, 0#8] ++ [0#8, 1#8] ++ leBytes 2 0x1200

/-- CAPABILITIES: CERT_CAP, CHAL_CAP and MEAS_CAP with signature (R411); the timing exponent and the message sizes are open. -/
def spdmCapabilities : List Byte :=
  spdmMsg 0x61 0 0 ([0#8, Config.spdmExponent] ++ zeros 2 ++ leBytes 4 0x16 ++ leBytes 4 Config.spdmSize.toNat ++ leBytes 4 Config.spdmSize.toNat)

/-- ALGORITHMS: TPM_ALG_ECDSA_ECC_NIST_P384 and TPM_ALG_SHA_384 where the requester offers them, and no other (R411). -/
def spdmAlgorithms (req : List Byte) : List Byte :=
  spdmMsg 0x63 0 0 (leBytes 2 36 ++ leBytes 1 (Nat.land (field req 6 1) 1) ++ zeros 1 ++ leBytes 4 4 ++
    leBytes 4 (Nat.land (field req 8 4) 0x80) ++ leBytes 4 (Nat.land (field req 12 4) 0x2) ++ zeros 16)

/-- DIGESTS: slot 0 only (R411). -/
def spdmDigests : List Byte := spdmMsg 0x01 0 1 (digest48 Config.certChain)

/-- CERTIFICATE: a portion of the chain of slot 0. -/
def spdmCertificate (req : List Byte) : List Byte :=
  let off := field req 4 2
  let chain := Config.certChain
  if field req 2 1 % 16 ≠ 0 ∨ chain.length ≤ off then spdmError 0x01 0
  else
    let part := (chain.drop off).take (field req 6 2)
    spdmMsg 0x02 0 0 (leBytes 2 part.length ++ leBytes 2 (chain.length - off - part.length) ++ part)

/-- The summary digest of the measurements that a CHALLENGE asks for: none, the ROM and firmware (1), or all (0xFF). -/
def State.spdmSummary (s : State) (kind : Nat) : List Byte :=
  if kind = 0 then []
  else digest48 ((if kind = 1 then [1, 3, 4] else [1, 2, 3, 4, 5, 6]).map s.measureBlock).flatten

/-- CHALLENGE_AUTH: the chain's digest, a nonce and the summary, signed. -/
def State.spdmChallenge (s : State) (req : List Byte) : List Byte :=
  let kind := field req 3 1
  if field req 2 1 % 16 ≠ 0 ∨ !(kind = 0 ∨ kind = 1 ∨ kind = 0xFF) then spdmError 0x01 0
  else
    spdmSigned req (spdmMsg 0x03 0 1 (digest48 Config.certChain ++ leBytes 32 (Config.nonce s.fresh).toNat ++ s.spdmSummary kind ++ zeros 2)) s.fresh

/-- MEASUREMENTS: the blocks asked for, or their count, signed; a request without the signature bit, or for a block that does not exist, is an
invalid request (R411, R412). -/
def State.spdmMeasurements (s : State) (req : List Byte) : List Byte :=
  let op := field req 3 1
  if bitOf (field req 2 1) 0 = false ∨ field req 36 1 % 16 ≠ 0 ∨ !(op ≤ 6 ∨ op = 0xFF) then spdmError 0x01 0
  else
    let is := spdmBlocks op
    let record := (is.map s.measureBlock).flatten
    spdmSigned req (spdmMsg 0x60 (if op = 0 then 6 else 0) 0 (leBytes 1 is.length ++ leBytes 3 record.length ++ record ++
      leBytes 32 (Config.nonce s.fresh).toNat ++ zeros 2)) s.fresh

/-- The length of a request of each code of the subset. -/
def spdmLength (code attr : Nat) : Nat :=
  match code with
  | 0x81 => 4
  | 0x82 => 8
  | 0x83 => 36
  | 0x84 => 4
  | 0xE0 => if bitOf attr 0 then 37 else 4
  | 0xE1 => 20
  | _ => 32

/-- Plinth's response to a request message: those of the subset; every other request code is unsupported (R411). -/
def State.spdm (s : State) (req : List Byte) : List Byte :=
  let code := field req 1 1
  if code ∉ [0x81, 0x82, 0x83, 0x84, 0xE0, 0xE1, 0xE3] then spdmError 0x07 code
  else if field req 0 1 ≠ (if code = 0x84 then 0x10 else 0x12) then spdmError 0x41 0
  else if req.length < spdmLength code (field req 2 1) then spdmError 0x01 0
  else
    match code with
    | 0x84 => spdmVersion
    | 0xE1 => spdmCapabilities
    | 0xE3 => spdmAlgorithms req
    | 0x81 => spdmDigests
    | 0x82 => spdmCertificate req
    | 0x83 => s.spdmChallenge req
    | _ => s.spdmMeasurements req

end Sys2Proof.Machine
end

