-- ==== Sys2Proof/Machine/CmdRows.lean ====
section
/-! DEFINITION. How an accepted command runs (R339), the checks of its handler (R477), and the commands on contexts, queues, segments
and grants: NOP, CONTEXT_CREATE, CONTEXT_DELETE, QUEUE_CREATE, QUEUE_DELETE, GRANT, MAP_SEGMENT, INVALIDATE, EXPANDER, POOL_SHARE,
ARM_WEIGHTS, ATTEST, SET_ENVELOPE, and the doorbells (R335). -/

namespace Sys2Proof.Machine

/-! ## Running a command -/

/-- A command waits: its row is run again until its condition holds. -/
def State.await (s : State) (c : CmdId) : State := s.updJob c fun j => { j with phase := .waiting }

/-- Whether a job is the command that a row runs: its opcode, and for CONFIG its sub-op. -/
def Job.isOp (j : Job) (op : Nat) (sub : Option Nat) : Bool :=
  pktOpcode j.pkt == op &&
    match sub with
    | some n => pktOparam j.pkt == n
    | none => true

/-- A command's row: the parser's checks are finished, the command starts in the order of its queue, and runs; a command that waits runs
again, but for one that waits in place for a fault (R30, R319, R339, R363). -/
def State.runCmd (s : State) (c : CmdId) (is : Job → Bool) (run : Job → State → State) : State :=
  let s := if s.faultWait (.job c) then s else s.parse c
  match s.job? c with
  | none => s
  | some j =>
    if s.faultWait (.job c) then s
    else if j.parsed = false ∨ is j = false then s
    else if j.phase = .waiting then run j s
    else if j.phase = .accepted then (if s.mayStart j then run j (s.begin c) else s.orderedWait j)
    else s

/-- The row of an opcode. -/
def cmdRow (s : State) (c : CmdId) (op : Nat) (run : Job → State → State) : Out := actS s fun s => s.runCmd c (·.isOp op none) run

/-- The row of a CONFIG sub-op. -/
def subRow (s : State) (c : CmdId) (sub : Nat) (run : Job → State → State) : Out :=
  actS s fun s => s.runCmd c (·.isOp opConfig (some sub)) run

/-! ## The checks of a handler (R477) -/

/-- One rule on a field: whether it holds, the INDEX of the field and the value found. -/
structure FieldRule where
  ok : Bool
  index : Nat
  value : Nat
  deriving DecidableEq, Repr

/-- The first rule broken. -/
def firstBroken (l : List FieldRule) : Option FieldRule := l.find? fun r => !r.ok

/-- OBJECT of a handler's refusal: the opcode, and for CONFIG the sub-op (R477). -/
def Job.handlerObject (j : Job) : Nat :=
  pktOpcode j.pkt + if pktOpcode j.pkt = opConfig then 256 * (pktOparam j.pkt % 256) else 0

/-- MALFORMED with a reason, for the field found (R477). -/
def State.malformed (s : State) (j : Job) (why index value : Nat) : State :=
  s.complete j.id stMalformed { reason := why, object := j.handlerObject, index := index, value := value }

/-- REFUSED_CAPACITY, reason 0x62 (R477). -/
def State.tooMany (s : State) (j : Job) (index value limit : Nat) : State :=
  s.complete j.id stCapacity { reason := 0x62, object := j.handlerObject, index := index, value := value, limit := limit }

/-- A handler runs when its command breaks no rule (R477). -/
def State.checked (s : State) (j : Job) (rules : List FieldRule) (run : State → State) : State :=
  match firstBroken rules with
  | some r => s.malformed j 0x47 r.index r.value
  | none => run s

/-- A field of a block, with a rule on its value. -/
def blockRule (b : List Byte) (off w : Nat) (ok : Nat → Bool) : FieldRule := ⟨ok (field b off w), 0x8000 + off, field b off w⟩

/-- A run of reserved bytes: the first that is not zero. -/
def reservedRule (b : List Byte) (off n : Nat) : FieldRule :=
  match (List.range n).find? fun i => field b (off + i) 1 ≠ 0 with
  | some i => ⟨false, 0x8000 + off + i, field b (off + i) 1⟩
  | none => ⟨true, 0x8000 + off, 0⟩

/-- Whether the context of a command has the right that the command needs (R364). -/
def State.allowed (s : State) (j : Job) : Bool := rightOk (((s.context? j.id.ctx).map (·.rights.toNat)).getD 0) j.pkt

/-- Plinth checks a request of Armature again, against its own tables: the right of the command's context, and `known`, that the tables fit
the object named; a request it refuses ends the command with PROTECTION, reason 0x52 (R409; log entry 93). -/
def State.plinth (s : State) (j : Job) (known : Bool) (run : State → State) : State :=
  if known && s.allowed j then run s else s.complete j.id stProtection (reason 0x52)

/-! ## NOP -/

/-- NOP: completes with a status record (R343). -/
def execNop (c : CmdId) (s : State) : Out := cmdRow s c opNop fun j s => s.complete j.id

/-! ## Contexts (R361, R362) -/

/-- The rules of a context descriptor (R362). -/
def contextRules (b : List Byte) : List FieldRule :=
  [blockRule b 0 2 (fun v => decide (1 ≤ v) && decide (v ≤ 4094)), blockRule b 2 1 (fun v => decide (1 ≤ v) && decide (v ≤ 63)),
   blockRule b 3 1 (fun v => decide (v < 64)), blockRule b 12 2 (fun v => v != 0), blockRule b 14 2 (fun v => decide (v < 2 ^ 14)),
   blockRule b 16 2 (fun v => decide (v < 2 ^ 14)), blockRule b 18 1 (fun v => decide (1 ≤ v) && decide (v ≤ 64)), reservedRule b 19 45]

/-- The context of a descriptor. -/
def contextOf (b : List Byte) : Context :=
  { part := field b 2 1, rights := BitVec.ofNat 8 (field b 3 1), rgroups := (List.range 8).map fun i => field b (4 + i) 1
    timeoutMs := field b 12 2, srcMask := field b 14 2, srcNode := field b 16 2, maxQueues := field b 18 1 }

/-- CONTEXT_CREATE: Plinth creates a context that its tables do not hold (R362, R409); its counters start at zero (R444). -/
def execContextCreate (c : CmdId) (s : State) : Out :=
  subRow s c subContextCreate fun j s =>
    let b := j.block
    let ctx := field b 0 2
    s.checked j (contextRules b) fun s => s.plinth j (s.context? ctx).isNone fun s =>
      ((s.clearCounters 2 ctx).setContext ctx (contextOf b)).complete j.id

/-- A context is gone, with its queues. -/
def State.removeContext (s : State) (ctx : Nat) : State :=
  { s with
    contexts := s.contexts.filter (fun e => e.1 ≠ ctx), rings := s.rings.filter (fun e => e.2.ctx ≠ ctx)
    fabqs := s.fabqs.filter (fun q => q.ctx ≠ ctx) }

/-- CONTEXT_DELETE: new commands are refused at once; the context goes once its accepted commands have written their records (R353). -/
def execContextDelete (c : CmdId) (s : State) : Out :=
  subRow s c subContextDelete fun j s =>
    let b := j.block
    let ctx := field b 0 2
    let first := j.phase != .waiting
    s.checked j [blockRule b 0 2 (fun v => decide (v < 2 ^ 12)), reservedRule b 2 6] fun s =>
      s.plinth j (!first || (s.context? ctx).isSome) fun s =>
      let s := match s.context? ctx with
        | some x => s.setContext ctx { x with deleting := true }
        | none => s
      if s.jobs.any (fun k => k.id.ctx == ctx && k.id != c) then s.await c else ((s.complete c).settleJob c).removeContext ctx

/-! ## Queues (R332, R333) -/

/-- The rules of a queue descriptor that do not depend on the state (R333). -/
def queueRules (b : List Byte) : List FieldRule :=
  let ring := field b 3 1 == 0
  [blockRule b 0 2 (fun v => decide (v < 2 ^ 12)), blockRule b 2 1 (fun v => decide (v < 64)), blockRule b 3 1 (fun v => decide (v ≤ 1)),
   blockRule b 4 1 (fun v => !ring || (decide (4 ≤ v) && decide (v ≤ 16))), blockRule b 5 1 (fun v => !ring || (decide (6 ≤ v) && decide (v ≤ 12))),
   reservedRule b 6 2, reservedRule b 12 4, blockRule b 16 8 (fun v => !ring || v % 4096 == 0), blockRule b 24 8 (fun v => !ring || v % 4096 == 0)]

/-- Whether a queue of a context exists. -/
def State.queueExists (s : State) (ctx q : Nat) : Bool :=
  s.rings.any (fun e => e.2.ctx == ctx && e.2.queue == q) || s.fabqs.any (fun x => x.ctx == ctx && x.queue == q)

/-- Queues of a context. -/
def State.queueCount (s : State) (ctx : Nat) : Nat :=
  (s.rings.filter fun e => e.2.ctx == ctx).length + (s.fabqs.filter fun x => x.ctx == ctx).length

/-- A new ring queue under a free doorbell index (R333). -/
def State.newRing (s : State) (c : CmdId) (b : List Byte) : State :=
  match s.freePick (s.rings.map (·.1)) 16384 with
  | (s, some i) =>
    let q : Ring := { ctx := field b 0 2, queue := field b 2 1, log2Entries := field b 4 1, log2Slot := field b 5 1, sqBase := field b 16 8,
                      cqBase := field b 24 8, firstSeq := field b 8 4 }
    ({ s with rings := sinsert s.rings i q }.updJob c fun j => { j with value0 := i }).complete c
  | (s, none) => s

/-- QUEUE_CREATE: Armature creates a ring or fabric queue; the reply of a ring carries its doorbell index (R333, R353, R357). -/
def execQueueCreate (c : CmdId) (s : State) : Out :=
  subRow s c subQueueCreate fun j s =>
    let b := j.block
    let ctx := field b 0 2
    let q := field b 2 1
    let ring := field b 3 1 == 0
    s.checked j (queueRules b ++ [⟨(s.context? ctx).isSome, 0x8000, ctx⟩, ⟨!s.queueExists ctx q, 0x8002, q⟩]) fun s =>
      let most := ((s.context? ctx).map (·.maxQueues)).getD 0
      if most ≤ s.queueCount ctx then s.tooMany j 0x8002 (s.queueCount ctx + 1) most
      else if (if ring then s.rings.length else s.fabqs.length) ≥ 16384 then s.tooMany j 0x8003 16385 16384
      else if ring then s.newRing c b
      else ({ s with fabqs := s.fabqs ++ [{ ctx := ctx, queue := q, next := field b 8 4 }] } : State).complete c

/-- A queue is gone. -/
def State.removeQueue (s : State) (ctx q : Nat) : State :=
  { s with
    rings := s.rings.filter (fun e => !(e.2.ctx == ctx && e.2.queue == q)), fabqs := s.fabqs.filter (fun x => !(x.ctx == ctx && x.queue == q)) }

/-- QUEUE_DELETE: new commands are refused at once; the queue goes once its accepted commands have written their records (R353). -/
def execQueueDelete (c : CmdId) (s : State) : Out :=
  subRow s c subQueueDelete fun j s =>
    let b := j.block
    let ctx := field b 0 2
    let q := field b 2 1
    s.checked j [blockRule b 0 2 (fun v => decide (v < 2 ^ 12)), blockRule b 2 1 (fun v => decide (v < 64)), reservedRule b 3 5] fun s =>
      let s := { s with
        rings := s.rings.map (fun (e : Nat × Ring) => if e.2.ctx == ctx && e.2.queue == q then (e.1, { e.2 with deleting := true }) else e)
        fabqs := s.fabqs.map (fun (x : FabQueue) => if x.ctx == ctx && x.queue == q then { x with deleting := true } else x) }
      if s.jobs.any (fun k => k.id.ctx == ctx && k.id.queue == q && k.id != c) then s.await c
      else ((s.complete c).settleJob c).removeQueue ctx q

/-! ## Grants (R308, R309) -/

/-- Plinth writes one entry of the grant table, and its own copy, and the ports' cached entries are invalid (R308, R309, R430). -/
def State.writeGrant (s : State) (i v : Nat) : State :=
  ({ s with grants := sput 0 s.grants i v }.storeFirmware (s.physOf (s.grantBase + 4 * i)) (leBytes 4 v)).dropGrants

/-- The local frame of a grant entry: its first byte (R308). -/
def frameBase (i : Nat) : Nat :=
  if i < 524288 then i * 2 ^ 21 else 2 ^ 44 + (i / 524288 - 1) * 2 ^ 40 + i % 524288 * 2 ^ 21

/-- Translations into a range of local memory leave both TLB levels (R366). -/
def State.dropTlbTo (s : State) (hits : TlbEntry → Nat → Bool) : State :=
  let gone := fun (e : TlbEntry) =>
    match (s.context? e.ctx).map fun x => x.segs.toList.getD e.seg {} with
    | some g => hits e (2 ^ (pageBits g.psize + e.runLog2))
    | none => true
  { s with
    tlb2 := (s.tlb2.map fun (e : Nat × List TlbEntry) => (e.1, e.2.filter fun x => !gone x)).filter fun e => e.2 ≠ []
    slices := s.slices.map fun (e : Nat × Slice) => (e.1, { e.2 with tlb := e.2.tlb.filter fun x => !gone x }) }

/-- GRANT: Plinth writes consecutive grant-table entries, and the translations affected are invalidated (R308, R309, R353, R366). -/
def execGrant (c : CmdId) (s : State) : Out :=
  subRow s c subGrant fun j s =>
    let b := j.block
    let first := field b 0 4
    let n := field b 4 4
    s.checked j [⟨decide (first + n ≤ 8912896), 0x8004, n⟩, blockRule b 8 2 (fun v => decide (v < 2 ^ 12)), reservedRule b 11 5] fun s =>
      s.plinth j true fun s =>
      let v := field b 8 2 + field b 10 1 * 2 ^ 12
      let s := foldN n s fun s k => s.writeGrant (first + k) v
      let hit := fun (e : TlbEntry) (len : Nat) =>
        s.isLocal e.addr && decide (first ≤ grantIndex (localOf (e.addr + len - 1))) && decide (grantIndex (localOf e.addr) < first + n)
      (s.dropTlbTo hit).complete j.id

/-! ## Segments and invalidation (R310, R322, R323) -/

/-- The segment of a descriptor (R310). -/
def segmentOf (b : List Byte) : Segment :=
  let f := field b 24 1
  { vbase := field b 0 8, size := field b 8 8, root := field b 16 8, psize := bitsOf f 1 0, wattr := bitsOf f 3 2, coh := bitOf f 4
    quad := bitsOf f 6 5, qlocal := bitOf f 7, valid := bitOf (field b 25 1) 0, remoteOk := bitOf (field b 25 1) 1 }

/-- Whether two segments overlap. -/
def Segment.overlaps (a b : Segment) : Bool := decide (a.vbase < b.vbase + b.size) && decide (b.vbase < a.vbase + a.size)

/-- The rules of a segment descriptor among the other segments of its context (R310). -/
def segmentRules (b : List Byte) (others : List Segment) : List FieldRule :=
  let g := segmentOf b
  let page := 2 ^ pageBits g.psize
  [⟨g.vbase % page == 0, 0x8000, g.vbase⟩, ⟨g.size != 0 && g.size % page == 0 && decide (g.size ≤ 2 ^ 48), 0x8008, g.size⟩,
   ⟨!g.valid || others.all (fun o => !o.valid || !o.overlaps g), 0x8008, g.size⟩,
   ⟨g.root % 4096 == 0 && decide (g.root < 2 ^ 40), 0x8010, g.root⟩, ⟨g.psize != 3, 0x8018, g.psize⟩,
   ⟨decide (field b 25 1 < 4), 0x8019, field b 25 1⟩, reservedRule b 26 6]

/-- What an INVALIDATE covers: a segment's pages, or those of every segment, that meet a virtual range (R322). -/
structure Scope where
  ctx : Nat
  seg : Option Nat := none
  range : Option (Nat × Nat) := none
  deriving DecidableEq, Repr

/-- Whether a scope covers any byte of a run of pages of a segment. -/
def Scope.covers (x : Scope) (ctx seg : Nat) (g : Segment) (page n : Nat) : Bool :=
  let lo := g.vbase + page * 2 ^ pageBits g.psize
  x.ctx == ctx && (x.seg == none || x.seg == some seg) &&
    match x.range with
    | some (a, len) => decide (a < lo + n * 2 ^ pageBits g.psize) && decide (lo < a + len)
    | none => true

/-- A segment of a context. -/
def State.segAt (s : State) (ctx seg : Nat) : Segment :=
  match s.context? ctx with
  | some x => x.segs.toList.getD seg {}
  | none => {}

/-- The translations of a scope leave both TLB levels, and tracing ends when its ring is covered (R322, R451). -/
def State.invalidateScope (s : State) (x : Scope) : State :=
  let keep := fun (e : TlbEntry) => !x.covers e.ctx e.seg (s.segAt e.ctx e.seg) e.page (2 ^ e.runLog2)
  let ring := s.trace.en && s.trace.ctx == x.ctx &&
    match s.segOf s.trace.ctx s.trace.ring with
    | some (i, g) => (x.seg == none || x.seg == some i) &&
        (match x.range with
         | some (a, len) => decide (a < s.trace.ring + 64 * 2 ^ s.trace.log2) && decide (s.trace.ring < a + len)
         | none => true) && g.valid
    | none => false
  { s with
    tlb2 := (s.tlb2.map fun (e : Nat × List TlbEntry) => (e.1, e.2.filter keep)).filter fun e => e.2 ≠ []
    slices := s.slices.map (fun (e : Nat × Slice) => (e.1, { e.2 with tlb := e.2.tlb.filter keep }))
    trace := if ring then { s.trace with en := false } else s.trace }

/-- Whether a request translated in a context has not returned its data or its acknowledgement (R322; log entry 22). -/
def State.ctxBusy (s : State) (c : CmdId) (ctx : Nat) : Bool :=
  let mine := fun (w : Waiter) => match w with
    | .job k x => x == ctx && k != c
    | _ => false
  let held := fun (b : Blocked) => match b with
    | .write _ _ acc => mine acc.waiter
    | .alloc _ _ _ => false
  s.slices.any (fun e => e.2.reqs.any fun r => r.ctx == ctx) || s.streams.any (fun e => (e.2.window ++ e.2.issue).any fun r => r.ctx == ctx) ||
    s.memReqs.any (fun m => m.ctx == ctx) || s.fab.remote.any (fun r => r.ctx == ctx && r.cmd != c) ||
    s.wc.any (fun e => e.waiters.any mine) || s.rc.regs.any (fun r => r.waiters.any mine) || s.rc.blocked.any held

/-- The row-cache ways that hold lines of a local range, mirrors apart. -/
def State.waysIn (s : State) (lo n : Nat) : List (Nat × Nat) :=
  s.rc.ways.filterMap fun e =>
    let set := e.1 / 16
    let a := lineFrom set e.2.tag * 256
    if !e.2.mir && !e.2.invalid && decide (lo ≤ a) && decide (a < lo + n) then some (set, e.1 % 16) else none

/-- FLUSH: the lines of a range are cleaned and invalidated, and its write-combining entries drained (R323). -/
def State.flushRange (s : State) (lo n : Nat) : State :=
  let s := (s.waysIn lo n).foldl (fun s (set, w) =>
    if (s.way set w).lock then s else (s.cleanWay set w 0).evict set w 0) s
  (s.wc.filter fun e => s.isLocal e.line && decide (lo ≤ localOf e.line) && decide (localOf e.line < lo + n) && e.waits e.line).foldl
    (fun s e => s.drain e.line) s

/-- Whether a range still holds lines or writes not acknowledged. -/
def State.rangeBusy (s : State) (lo n : Nat) : Bool :=
  (s.waysIn lo n) != [] || s.wc.any fun e => s.isLocal e.line && decide (lo ≤ localOf e.line) && decide (localOf e.line < lo + n)

/-- MAP_SEGMENT: Plinth writes a segment of a context that its tables hold; a valid one that it changes is invalidated first (R291, R310,
R352, R366, R409). -/
def execMapSegment (c : CmdId) (s : State) : Out :=
  cmdRow s c opMapSegment fun j s =>
    let b := j.block
    let ctx := pktCount j.pkt
    let i := bitsOf (pktOparam j.pkt) 3 0
    let x := (s.context? ctx).getD {}
    let old := x.segs.toList.getD i {}
    let new := segmentOf b
    let others := (x.segs.toList.zipIdx.filter fun e => e.2 ≠ i).map (·.1)
    if j.phase = .waiting then (if s.ctxBusy c ctx then s else s.complete c)
    else
      s.checked j (segmentRules b others) fun s =>
        s.plinth j (s.context? ctx).isSome fun s =>
          let s := { s.setContext ctx { x with segs := x.segs.setIfInBounds i new } with qlocked := true }
          if old.valid ∧ old ≠ new then
            let s := s.invalidateScope { ctx := ctx, seg := some i }
            if s.ctxBusy c ctx then s.await c else s.complete c
          else s.complete c

/-- INVALIDATE: the translations of a scope are removed, a frame range is flushed when asked, and the requests affected are waited for
(R322, R323, R352). -/
def execInvalidate (c : CmdId) (s : State) : Out :=
  cmdRow s c opInvalidate fun j s =>
    let b := j.block
    let o := pktOparam j.pkt
    let ctx := pktCount j.pkt
    let flush := bitOf o 6
    let scope := bitsOf o 1 0
    let lo := field b 16 8
    let n := field b 24 8
    let rules : List FieldRule :=
      [⟨scope != 3, 18, scope⟩, ⟨o / 2 ^ 7 == 0, 18, o⟩, ⟨!flush || lo % 2 ^ 21 == 0, 0x8010, lo⟩, ⟨!flush || n % 2 ^ 21 == 0, 0x8018, n⟩]
    s.checked j rules fun s =>
      let s := s.invalidateScope
        { ctx := ctx, seg := if scope = 1 then some (bitsOf o 5 2) else none, range := if scope = 0 then some (field b 0 8, field b 8 8) else none }
      let s := if flush && s.isLocal lo then s.flushRange (localOf lo) n else s
      if s.ctxBusy c ctx || (flush && s.isLocal lo && s.rangeBusy (localOf lo) n) then s.await c else s.complete c

/-! ## Expanders, the pool share, weight sets (R222, R305, R353) -/

/-- EXPANDER: an expander is announced with its size (R305). -/
def execExpander (c : CmdId) (s : State) : Out :=
  subRow s c subExpander fun j s =>
    let b := j.block
    let e := field b 0 1
    s.checked j [blockRule b 0 1 (fun v => decide (v ≤ 15)), reservedRule b 1 1, blockRule b 2 2 (fun v => decide (v ≤ 1024)), reservedRule b 4 4]
      fun s => ((s.setReg (0x90000 + 4 * e) (BitVec.ofNat 32 (2 ^ 31 + field b 2 2))).noteExp e).complete j.id

/-- POOL_SHARE: the pool bytes that plans may declare (R353). -/
def execPoolShare (c : CmdId) (s : State) : Out :=
  subRow s c subPoolShare fun j s => { s with poolShare := field j.block 0 8 }.complete j.id

/-- ARM_WEIGHTS: a bound weight set flips at the next commit of its table set (R222). -/
def execArmWeights (c : CmdId) (s : State) : Out :=
  subRow s c subArmWeights fun j s =>
    let b := j.block
    let h := field b 0 2
    let bound := ((s.wset? h).map (·.bound)).getD false
    s.checked j [⟨bound, 0x8000, h⟩, reservedRule b 2 6] fun s => (s.updWset h fun w => { w with armed := true }).complete j.id

/-! ## Attestation (R411, R412) -/

/-- ATTEST: one SPDM request is passed to Plinth, and its response written (R411). -/
def execAttest (c : CmdId) (s : State) : Out :=
  subRow s c subAttest fun j s =>
    let b := j.block
    s.checked j [reservedRule b 12 4] fun s => s.plinth j true fun s =>
      match s.readVa c (s.cmdSpace c) (s.whoJob c) (field b 0 8) (field b 8 2) with
      | (s, .ok req) =>
        let rsp := s.spdm req
        let s := s.took
        if field b 10 2 < rsp.length then s.malformed j 0x46 0x800A rsp.length
        else ((s.updJob c fun j => { j with value0 := rsp.length }).writeVa c (s.cmdSpace c) (field b 16 8) rsp).complete c
      | (s, .stop st d) => s.complete c st d
      | (s, .bad _) => s.complete c stAborted
      | (s, .wait) => s.await c

/-! ## Power (R415, R416) -/

/-- SET_ENVELOPE: the level is taken; the command ends when the engine has reached it (R415). -/
def execSetEnvelope (c : CmdId) (s : State) : Out :=
  cmdRow s c opSetEnvelope fun j s => s.setEnvelope c (bitsOf (pktOparam j.pkt) 3 0)

/-! ## Doorbells (R335) -/

/-- The offset of a doorbell (R335). -/
def doorbellOff (i : Nat) : Nat := 0x60000 + 4 * i

/-- A doorbell write: the ring has one writer, the first source that rings it (R335, CQ_ register rules). -/
def State.ringDoorbell (s : State) (r : Requester) (i tail chead : Nat) : State :=
  match s.ring? i with
  | none => s
  | some q =>
    if q.writer = none ∨ q.writer = some r then (s.updRing i fun q => { q with writer := some r }).doorbell i tail chead else s

/-- CQ_DB: a doorbell write sets a ring's TAIL and CHEAD (R335, R336). -/
def execCqDb (r : Requester) (i : Fin 16384) (tail chead : BitVec 16) (s : State) : Out :=
  actReg s (doorbellOff i.val) r (·.ringDoorbell r i.val tail.toNat chead.toNat)

end Sys2Proof.Machine
end

