-- ==== Sys2Proof/Machine/Optim.lean ====
section
/-! DEFINITION. The optimiser update of one row (R179 to R182): SGD, row-wise Adagrad, Adam, every operation rounded to odd (R57). -/

namespace Sys2Proof.Machine

/-- The constant 1.0. -/
def f32One : F32 := 0x3F800000

/-- ro(x + y × z). -/
def fmaOdd (x y z : F32) : F32 := addOdd x (mulOdd y z)

/-- The optimiser state of a row (R179). -/
inductive OptState where
  | none
  | adagrad (a : F32)
  | adam (m v : List F32)
  deriving DecidableEq, Repr

/-- SGD (R181). -/
def sgdElem (lam eta w g : F32) : F32 :=
  let g := addOdd g (mulOdd lam w)
  subOdd w (mulOdd eta g)

/-- The exact mean of the squares, rounded once (R181). -/
def meanSquare (gs : List F32) : F32 :=
  let sum := gs.foldl (fun a g => a.add ((f32Value g).mul (f32Value g))) (FVal.fin .zero)
  toF32 .odd (sum.div (.fin (.ofNat gs.length)))

/-- Row-wise Adagrad (R181): the updated row and accumulator. -/
def adagradRow (o : OptDesc) (eta : F32) (ws gs : List F32) (a : F32) : List F32 × F32 :=
  let g := (ws.zip gs).map fun e => addOdd e.2 (mulOdd o.decay e.1)
  let a1 := addOdd a (meanSquare g)
  let d := addOdd (sqrtOdd a1) o.eps
  ((ws.zip g).map fun e => subOdd e.1 (mulOdd eta (divOdd e.2 d)), a1)

/-- Adam on one element (R181): w, m and v. -/
def adamElem (t : Table) (o : OptDesc) (eta w g m v : F32) : F32 × F32 × F32 :=
  let c1 := subOdd f32One t.p1
  let c2 := subOdd f32One t.p2
  let m := addOdd (mulOdd o.beta1 m) (mulOdd t.omb1 g)
  let v := addOdd (mulOdd o.beta2 v) (mulOdd t.omb2 (mulOdd g g))
  let u := divOdd (divOdd m c1) (addOdd (sqrtOdd (divOdd v c2)) o.eps)
  (subOdd w (mulOdd eta (addOdd u (mulOdd o.decay w))), m, v)

/-- The updated row and state, none when a value of either is not finite (R65, R181, R183). -/
def updateRow (t : Table) (o : OptDesc) (eta : F32) (ws gs : List F32) (st : OptState) : Option (List F32 × OptState) :=
  let r : List F32 × OptState :=
    match st with
    | .none => ((ws.zip gs).map fun e => sgdElem o.decay eta e.1 e.2, .none)
    | .adagrad a =>
      let (w, a) := adagradRow o eta ws gs a
      (w, .adagrad a)
    | .adam m v =>
      let es := ((ws.zip gs).zip (m.zip v)).map fun e => adamElem t o eta e.1.1 e.1.2 e.2.1 e.2.2
      (es.map (·.1), .adam (es.map (·.2.1)) (es.map (·.2.2)))
  let stOk := match r.2 with
    | .none => true
    | .adagrad a => f32Finite a
    | .adam m v => m.all f32Finite && v.all f32Finite
  if r.1.all f32Finite && stOk then some r else none

/-- Sq of Adam's moments (R178). -/
def TableDesc.momentBytes (d : TableDesc) : Nat := rowSize fcQA8 d.elems 64

/-- Bytes of a row's optimiser state (R179). -/
def stateBytes (d : TableDesc) (o : OptDesc) : Nat := if o.opt = 0 then 0 else if o.opt = 1 then 4 else 2 * d.momentBytes

/-- The optimiser state of a row from its bytes (R179). -/
def stateOf (d : TableDesc) (o : OptDesc) (b : List Byte) : OptState :=
  if o.opt = 0 then .none
  else if o.opt = 1 then .adagrad (BitVec.ofNat 32 (field b 0 4))
  else
    let n := d.momentBytes
    let dec := fun (b : List Byte) => (deqRow fcQA8 64 d.elems f32One b).map (·.val)
    .adam (dec (b.take n)) (dec (b.drop n))

/-- The bytes of a row's optimiser state (R182): the row's mode, with columns from 4,096 for m and from 8,192 for v. -/
def stateCode (m : Nat → RowRm) (st : OptState) : List Byte :=
  match st with
  | .none => []
  | .adagrad a => leBytes 4 a.toNat
  | .adam x v => (encodeRow fcQA8 64 f32One [] (m 4096) x).bytes ++ (encodeRow fcQA8 64 f32One [] (m 8192) v).bytes

end Sys2Proof.Machine
end

