-- ==== Sys2Proof/Machine/Apply.lean ====
section
/-! DEFINITION. The apply of one touched row (R180 to R183): its reads, its update, its writeback with saturation counts and widening
(R62 to R65, R71), and the map entries of promotions and demotions (R68 to R70, R72, R476). -/

namespace Sys2Proof.Machine

/-! ## The promotion map as Armature writes it (R68, R430) -/

/-- The space of a table's promotion map. -/
def State.mapSpace (s : State) (t : Table) (c : CmdId) : Space := s.tableSpace t c 2 3

/-- A bucket as Armature reads it: none when it cannot be read or holds an invalid entry, which makes it full until it is rebuilt; the
second part is its bytes where they can be read (R68). -/
def readBucket (c : CmdId) (w : Who) (t : Table) (j : Nat) : Work (Option (List Byte) × Option (List Byte)) := fun s =>
  (readWork c (s.mapSpace t c) w (t.desc.bucketVa j) 64).andThen (fun b s =>
    match b with
    | none => (s.markBucket t.desc.table j, .ok (none, none))
    | some b => if (searchBucket b 0).invalid then (s.markBucket t.desc.table j, .ok (none, some b)) else (s, .ok (some b, some b))) s

/-- The first empty entry of a bucket. -/
def emptyEntry (b : List Byte) : Option Nat := [0, 1, 2, 3].find? fun k => (mapEntry b k).tier == 0

/-- Where a promoted row's entry goes: bucket, entry, and whether OVF of the primary bucket is set (R68). -/
structure MapPlace where
  bucket : Nat
  k : Nat
  ovf : Bool
  deriving DecidableEq, Repr

/-- The place of a row that has no entry: its primary bucket, else its secondary one; none when both are full or treated as full, or the
primary cannot be read (R68). -/
def newPlace (c : CmdId) (w : Who) (t : Table) (row : Nat) : Work (Option MapPlace) :=
  let (p, q) := t.desc.buckets row
  (readBucket c w t p).andThen fun b =>
    match b with
    | (_, none) => Work.ret none
    | (good, some _) =>
      match good.bind emptyEntry with
      | some k => Work.ret (some ⟨p, k, false⟩)
      | none => (readBucket c w t q).andThen fun b => Work.ret ((b.1.bind emptyEntry).map fun k => ⟨q, k, true⟩)

/-- The place of the entry of a promoted row. -/
def oldPlace (c : CmdId) (w : Who) (t : Table) (p : Promo) : Work (Option MapPlace) :=
  (readBucket c w t p.bucket).andThen fun b =>
    Work.ret ((b.1.bind fun b => (searchBucket b p.row).entry).map fun e => ⟨p.bucket, e.1, false⟩)

/-- The entry of a row is written at its place, and OVF with it (R67, R68). -/
def writeEntry (c : CmdId) (w : Who) (t : Table) (at_ : MapPlace) (row : Nat) (e : MapEntry) : Work Unit := fun s =>
  let x := s.mapSpace t c
  ((readBucket c w t at_.bucket).andThen fun b =>
    match b.2 with
    | none => Work.ret ()
    | some b =>
      (writeWork c x w (u64 (t.desc.bucketVa at_.bucket + 16 * at_.k)) (((setEntry b at_.k e).drop (16 * at_.k)).take 16)).andThen fun _ =>
        if at_.ovf then
          (readBucket c w t (t.desc.buckets row).1).andThen fun p =>
            match p.2 with
            | none => Work.ret ()
            | some p => writeWork c x w (t.desc.bucketVa (t.desc.buckets row).1) ((setOvf p true).take 16)
        else Work.ret ()) s

/-! ## Slots and tiers -/

def TableDesc.slotsOf (d : TableDesc) (tier : Nat) : Nat := if tier = 1 then d.warmSlots else d.hotSlots
def TableDesc.fmtOfTier (d : TableDesc) (tier : Nat) : Nat := if tier = 0 then d.fmtCold else if tier = 1 then d.fmtWarm else d.fmtHot

/-- The copy of a tier and slot, and a promoted row's copy. -/
def copyOf (tier slot : Nat) : Copy := if tier = 1 then .warm slot else .hot slot
def Promo.copy (p : Promo) : Copy := copyOf p.tier p.slot

/-- The slots of a tier that are occupied, or were freed in this window (R211). -/
def Table.slotsTaken (t : Table) (tier : Nat) : List Nat :=
  ((t.promoted.filter fun p => p.tier == tier).map (·.slot)) ++ ((t.freed.filter fun e => e.1 == tier).map (·.2))

/-- A slot not taken, from a start on. -/
def pickSlot (used : List Nat) (n start fuel : Nat) : Option Nat :=
  match fuel with
  | 0 => none
  | fuel + 1 => if used.contains (start % n) then pickSlot used n (start + 1) fuel else some (start % n)

/-- A free slot of a tier for a row, chosen freely (R64; log entry 5). -/
def State.freeSlot (s : State) (t : Table) (tier row : Nat) : Option Nat :=
  let n := t.desc.slotsOf tier
  let used := t.slotsTaken tier
  let start := Config.slotPick t.desc.table tier row (((s.tset? t.tset).map (·.epoch)).getD 0)
  if n = 0 then none else pickSlot used n (start % n) (min n (used.length + 1))

/-- The promoted entry of a row. -/
def Table.promo? (t : Table) (row : Nat) : Option Promo := t.promoted.find? (·.row == row)

/-- A promoted row enters Armature's registry, and its filter bits are set; a slot it leaves is freed at the commit (R69, R211). -/
def Table.promote (t : Table) (p : Promo) : Table :=
  let old := t.promo? p.row
  { t with
    promoted := t.promoted.filter (fun x => x.row ≠ p.row) ++ [p]
    freed := match old with
      | some o => t.freed ++ [(o.tier, o.slot)]
      | none => t.freed
    filter := if t.desc.filterLog2 = 0 then t.filter else (t.desc.filterBits p.row).foldl ninsert t.filter }

/-- A promoted row leaves the registry (R72, R211). -/
def Table.demote (t : Table) (row : Nat) : Table :=
  match t.promo? row with
  | none => t
  | some o => { t with promoted := t.promoted.filter (fun x => x.row ≠ row), freed := t.freed ++ [(o.tier, o.slot)] }

/-- A filter region rebuilt: the bits of promoted rows, and no others (R69). -/
def Table.rebuildFilter (t : Table) : Table := { t with filter := (t.promoted.map fun p => t.desc.filterBits p.row).flatten.foldl ninsert [] }

/-- The lowest present tier above a tier whose elements are strictly wider (R63). -/
def TableDesc.widerTier (d : TableDesc) (tier : Nat) : Option Nat :=
  [1, 2].find? fun u => decide (tier < u) && d.slotsOf u != 0 && decide (elemBits (d.fmtOfTier tier) < elemBits (d.fmtOfTier u))

/-! ## Copies encoded -/

/-- A copy of a tier encoded from values (R58 to R60). -/
def TableDesc.encodeTier (d : TableDesc) (tier : Nat) (m : RowRm) (row : List F32) : EncRow :=
  encodeRow (d.fmtOfTier tier) (groupSize d.group) d.coarse d.outliers m row

/-- The spaces of a table's rows and of its optimiser state (R258, R320). -/
def State.rowSpace (s : State) (t : Table) (c : CmdId) : Space := s.tableSpace t c t.cls 3
def State.stateSpace (s : State) (t : Table) (c : CmdId) : Space := s.tableSpace t c 5 3

/-- A row copy is read: none when it is lost. -/
def readCopy (c : CmdId) (w : Who) (t : Table) (copy : Copy) (row : Nat) : Work (Option (List Byte)) := fun s =>
  readWork c ((s.rowSpace t c).ofRow row (if copy = .cold then 4 else 3)) w (t.desc.vaOf copy row) (t.desc.sizeOf copy) s

/-- The side entry of a row: lost, absent, or its bytes. -/
def readSide (c : CmdId) (w : Who) (t : Table) (row : Nat) : Work (Option (Option (List Byte))) := fun s =>
  if t.desc.hasSide then ((readWork c ((s.rowSpace t c).ofRow row 4) w (t.desc.sideVa row) 16).andThen fun b => Work.ret (b.map some)) s
  else (s, .ok (some none))

/-- The address of a row's optimiser state (R179). -/
def stateVa (o : OptDesc) (row : Nat) : Nat := u64 (o.stateBase + row * o.stateStride)

/-- The optimiser state of a row: none when it is lost. -/
def readState (c : CmdId) (w : Who) (t : Table) (o : OptDesc) (row : Nat) : Work (Option (List Byte)) := fun s =>
  if stateBytes t.desc o = 0 then (s, .ok (some []))
  else readWork c ((s.stateSpace t c).ofRow row 4) w (stateVa o row) (stateBytes t.desc o) s

/-- The value of a row: its authoritative copy, or its cold copy when that is unreadable; with the tier it was read from. None when the
row is poisoned (R180, R428). -/
def rowValue (c : CmdId) (w : Who) (t : Table) (row : Nat) : Work (Option (List Deq)) :=
  let d := t.desc
  (readSide c w t row).andThen fun side =>
    match side with
    | none => Work.ret none
    | some side =>
      let cold := (readCopy c w t .cold row).andThen fun b => Work.ret (b.map fun b => d.values d.fmtCold b side)
      match t.promo? row with
      | none => cold
      | some p =>
        (readCopy c w t p.copy row).andThen fun b =>
          match b with
          | some b => Work.ret (some (d.values (d.fmtOf p.copy) b side))
          | none => (Work.upd fun s => s.markRepair d.table row false).andThen fun _ => cold

/-! ## One touched row -/

/-- How a touched row ends, when no access to it is refused (R154, R183, R479). -/
inductive RowEnd where
  | untouched
  | lost
  | poisoned
  | nonfinite
  | written (widened refused : Bool)
  deriving DecidableEq, Repr

/-- Whether a row's widening is refused at once: the window's limit is reached, no wider tier exists, or it has no free slot; else the
tier and slot (R63, R64, R204). -/
def widenSlot (h : Nat) (t : Table) (row tier : Nat) : Work (Option (Nat × Nat)) := fun s =>
  let limit := ((s.tset? h).map (·.promoLimit)).getD 0
  let made := (((s.tset? h).bind (·.apply)).map (·.promos)).getD 0
  if limit ≤ made then (s.countSet h 6 1, .ok none)
  else
    match t.desc.widerTier tier with
    | none => (s, .ok none)
    | some u =>
      match s.freeSlot t u row with
      | some k => (s, .ok (some (u, k)))
      | none => (s, .ok none)

/-- A row is widened where it can be: its map entry is written, and its new tier and slot answered (R63, R64, R68). -/
def widenRow (h : Nat) (c : CmdId) (w : Who) (t : Table) (row : Nat) : Work (Option (Nat × Nat)) :=
  let old := t.promo? row
  (widenSlot h t row ((old.map (·.tier)).getD 0)).andThen fun u =>
    match u with
    | none => Work.ret none
    | some (u, slot) =>
      ((match old with
        | some p => oldPlace c w t p
        | none => newPlace c w t row) : Work (Option MapPlace)).andThen fun at_ =>
        match at_ with
        | none => (Work.upd fun s => s.countTable t.desc.table 16 1).andThen fun _ => Work.ret none
        | some at_ =>
          (writeEntry c w t at_ row { tier := u, row := row, slot := slot, widened := true, ovf := false, valid := true }).andThen fun _ =>
            (Work.upd fun s => s.updTable t.desc.table fun x =>
              x.promote { row := row, tier := u, slot := slot, bucket := at_.bucket, widened := true }).andThen fun _ => Work.ret (some (u, slot))

/-- The rounding mode of a table's writeback (R57, R61). -/
def State.rowMode (s : State) (t : Table) (row first : Nat) : RowRm :=
  if t.desc.sround then
    let seed := ((s.tset? t.tset).map fun x => Nat.xor x.seed x.epoch).getD 0
    .sround seed t.desc.table row first
  else .fixed .nearest

/-- The writeback of an updated row (R62 to R64, R71, R182). -/
def writeBackRow (h : Nat) (c : CmdId) (w : Who) (t : Table) (o : OptDesc) (row : Nat) (ws : List F32) (st : OptState) : Work RowEnd := fun s =>
  let d := t.desc
  let old := t.promo? row
  let tier := (old.map (·.tier)).getD 0
  let m := s.rowMode t row 0
  let x := s.rowSpace t c
  let y := s.stateSpace t c
  let enc := d.encodeTier tier m ws
  let thr := ((s.tset? h).map (·.satThr)).getD 0
  let above := decide (thr < enc.sat)
  let states := stateCode (fun first => s.rowMode t row first) st
  ((if above then (widenRow h c w t row).orSkip c else Work.ret none).andThen fun wide =>
    let tier' := (wide.map (·.1)).getD tier
    let copy := match wide with
      | some (u, k) => copyOf u k
      | none => (old.map Promo.copy).getD .cold
    let auth := d.encodeTier tier' m ws
    let cold := d.encodeTier 0 m ws
    let side := encodeSide d.outlier m ws
    (writeWork c x w (d.vaOf copy row) auth.bytes).andThen fun _ =>
      (if copy = .cold then Work.ret () else writeWork c x w (d.vaOf .cold row) cold.bytes).andThen fun _ =>
        (if d.hasSide then writeWork c x w (d.sideVa row) side.1 else Work.ret ()).andThen fun _ =>
          (if states = [] then Work.ret () else writeWork c y w (stateVa o row) states).andThen fun _ =>
            (Work.upd fun s =>
              s.countTable d.table 10 (auth.sat + (if copy = .cold then 0 else cold.sat) + if d.hasSide then side.2 else 0)).andThen fun _ =>
                Work.ret (.written wide.isSome (above && wide.isNone))) s

/-- The gradient of a row from its staged sums (R180). -/
def gradOf (t : Table) (sums : List (Option Int)) : List F32 := sums.map fun v => toF32 .odd (.fin (x64Value (t.winT.getD (-100)) (v.getD 0)))

/-- A touched row: its staging slot, its value, its state, its update and its writeback (R180 to R183). -/
def applyRow (h : Nat) (a : ApplyJob) (t : Table) (o : OptDesc) (j : Nat) (c : CmdId) : Work (RowEnd × Nat) := fun s =>
  let w := whoApply h c
  let d := t.desc
  ((readWork c (s.stageSpace t c) w (o.slotVa d.slotBytes j) (64 + 8 * d.elems)).andThen fun b =>
    match b with
    | none => Work.ret (.lost, 0)
    | some b =>
      let row := field b 8 8
      let sums := (List.range d.elems).map fun i => stageVal (field b (64 + 8 * i) 8)
      if field b 16 8 = 0 then Work.ret (.untouched, row)
      else if s.poisoned.any (fun p => p.table == d.table && p.row == row) then Work.ret (.poisoned, row)
      else
        (rowValue c w t row).andThen fun v =>
          match v with
          | none => (Work.upd fun s => s.poisonRow d.table row false).andThen fun _ => Work.ret (.poisoned, row)
          | some v =>
            (readState c w t o row).andThen fun sb =>
              match sb with
              | none => (Work.upd fun s => s.poisonRow d.table row true).andThen fun _ => Work.ret (.poisoned, row)
              | some sb =>
                let eta := mulOdd o.lr a.mu
                let upd := updateRow t o eta (v.map (·.val)) (gradOf t sums) (stateOf d o sb)
                (Work.upd fun s => s.countReads d.table v).andThen fun _ =>
                  if sums.any (· == none) then Work.ret (.nonfinite, row)
                  else
                    match upd with
                    | none => Work.ret (.nonfinite, row)
                    | some (ws, st) => (writeBackRow h c w t o row ws st).andThen fun e => Work.ret (e, row)) s

/-! ## The account of a row -/

/-- An apply window changed. -/
def State.updApply (s : State) (h : Nat) (f : ApplyJob → ApplyJob) : State := s.updTset h fun t => { t with apply := t.apply.map f }

/-- A status of the window's command, with a row as its detail (R183, R356). -/
def State.rowCause (s : State) (c : CmdId) (st t row : Nat) : State := s.cause c st { object := t, value := row }

/-- A row's repairs are done by its own writeback (R428). -/
def State.clearRepairs (s : State) (t row : Nat) : State :=
  s.updTable t fun x => { x with repairs := x.repairs.filter fun e => e.1 ≠ row }

/-- A touched row is counted, written or not (R154, R356). -/
def State.countTouched (s : State) (h n : Nat) : State := s.updApply h fun a => { a with touched := a.touched + n }

/-- The end of a touched row is counted (R63 to R65, R183, R196, R479). -/
def State.rowDone (s : State) (h : Nat) (c : CmdId) (t row : Nat) (e : RowEnd) : State :=
  match e with
  | .untouched => s
  | .lost => (s.updApply h fun a => { a with lost := true }).cause c stAborted { object := t }
  | .poisoned => ((s.countTable t 14 1).rowCause c stPoison t row).countTouched h 1
  | .nonfinite => ((s.countTable t 13 1).updApply h fun a => { a with nonfinite := a.nonfinite + 1 }).countTouched h 1
  | .written widened refused =>
    let s := if widened then s.countTable t 11 1 else if refused then s.countTable t 12 1 else s
    (s.clearRepairs t row).updApply h fun a =>
      { a with touched := a.touched + 1, written := a.written + 1, widened := a.widened + bit1 widened
               promos := a.promos + bit1 widened, widenRefused := a.widenRefused + bit1 refused }

/-- A touched row whose access is refused or whose walk cannot be replayed (R183). -/
def State.rowStopped (s : State) (h : Nat) (c : CmdId) (t row st : Nat) : State :=
  let s := s.countTouched h 1
  if st = stProtection then (s.countTable t 22 1).rowCause c stProtection t row
  else (s.countTable t 15 1).rowCause c stWalkError t row

/-- The row of a staging slot, for a row that stops. -/
def State.slotRow (s : State) (t : Table) (o : OptDesc) (j : Nat) (c : CmdId) : Nat :=
  match (s.readVa c (s.stageSpace t c) (s.whoJob c) (u64 (o.slotVa t.desc.slotBytes j + 8)) 8).2 with
  | .ok b => leNat b
  | _ => 0

/-- One touched row of a window: true when it is done, false while it waits for a fault. -/
def State.applyOne (s : State) (h : Nat) (c : CmdId) (e : Nat × Nat) : State × Bool :=
  match (s.tset? h).bind (·.apply), s.table? e.1 with
  | some a, some t =>
    (match t.opt with
     | none => (s, true)
     | some o =>
       match (applyRow h a t o e.2 c).whole s with
       | (s, .ok (r, row)) => (s.rowDone h c e.1 row r, true)
       | (s, .stop st _) => (s.rowStopped h c e.1 (s.slotRow t o e.2 c) st, true)
       | (s, .wait) => (s, false))
  | _, _ => (s, true)

/-- The rows of a list are applied; those that wait stay (R183). -/
def State.applyRows (s : State) (h : Nat) (c : CmdId) (todo : List (Nat × Nat)) : State :=
  let (s, left) := todo.foldl (fun (acc : State × List (Nat × Nat)) e =>
    match acc.1.applyOne h c e with
    | (s, true) => (s, acc.2)
    | (s, false) => (s, acc.2 ++ [e])) (s, [])
  s.updApply h fun a => { a with todo := left }

end Sys2Proof.Machine
end

