-- ==== Sys2Proof/Machine/Arrays.lean ====
section
/-! DEFINITION. The projection arrays as every user runs them: their weight buffers (R216, R232), their errors (R244), the cells of a
tile (R225 to R229), and the multiply-adds they gate (R242). -/

namespace Sys2Proof.Machine

/-- ZGATE_EN (R250). -/
def State.zgate (s : State) : Bool := bitOf (s.reg 0xA0100).toNat 2

/-! ## Weight buffers (R216, R218, R232) -/

/-- Bytes of a half of a weight buffer. -/
def halfBytes : Nat := 2 ^ 19

def WeightHalf.size (h : WeightHalf) : Nat := (h.tiles.map (·.2.length)).foldl (· + ·) 0

/-- A column tile that an array's weight buffer holds for a use. -/
def ArrayUnit.tile? (x : ArrayUnit) (tag : StageTag) (t : Nat) : Option (List Byte) :=
  (x.halves.toList.filter fun h => h.tag == some tag).findSome? fun h => kget h.tiles t

/-- Bytes of a slice in which a column tile that exceeds one half streams through: 2,048 rows at 8-bit formats, 1,024 at 16-bit formats. -/
def WeightSet.sliceBytes (w : WeightSet) : Nat :=
  let rows := if codeWidth w.fmt = 1 then 2048 else 1024
  if w.groupLen ≤ rows then rows / w.groupLen * w.blockBytes else rows * 128 * codeWidth w.fmt

/-- A column tile is loaded: beside others of its use in the half filled last, else into the other half. One that exceeds a half leaves its
last two slices, and does not stay resident (R232). -/
def ArrayUnit.holdTile (x : ArrayUnit) (tag : StageTag) (w : WeightSet) (t : Nat) (bs : List Byte) : ArrayUnit :=
  let cur := x.halves.get x.half
  let other : Fin 2 := x.half + 1
  if halfBytes < bs.length then
    let parts := chunksOf w.sliceBytes bs (bs.length + 1)
    let slice := fun (k : Nat) => ({ tiles := [(t, parts.getD (parts.length - k) [])] } : WeightHalf)
    { x with halves := (x.halves.set other (slice 2)).set x.half (slice 1) }
  else if cur.tag = some tag ∧ cur.size + bs.length ≤ halfBytes then
    { x with halves := x.halves.set x.half { cur with tiles := cur.tiles ++ [(t, bs)] } }
  else { x with half := other, halves := x.halves.set other { tag := some tag, tiles := [(t, bs)] } }

/-- What a weight buffer holds for a use is lost. -/
def ArrayUnit.dropTiles (x : ArrayUnit) (tag : StageTag) : ArrayUnit :=
  { x with halves := x.halves.map fun h => if h.tag = some tag then {} else h }

/-- Nothing that the weight buffers hold of a weight set for LR rows outlives it. -/
def State.dropBasis (s : State) (h : Nat) : State := { s with arrays := s.arrays.map fun (x : ArrayUnit) => x.dropTiles ⟨none, h⟩ }

/-- A column tile in an array's weight buffer: resident, or read from memory by the feeder (R218, R232). -/
def loadTile (c : CmdId) (n : Fin 4) (tag : StageTag) (w : WeightSet) (t : Nat) : Work (List Byte) := fun s =>
  match (s.array n).tile? tag t with
  | some bs => (s, .ok bs)
  | none =>
    match s.readTile c w t with
    | (s, .ok bs) => (s.updArray n fun x => x.holdTile tag w t bs, .ok bs)
    | (s, r) => (s, r.pass)

/-- Column tiles in an array's weight buffer. -/
def loadTiles (c : CmdId) (n : Fin 4) (tag : StageTag) (w : WeightSet) (ts : List Nat) (acc : List (List Byte)) : Work (List (List Byte)) :=
  match ts with
  | [] => Work.ret acc
  | t :: rest => (loadTile c n tag w t).andThen fun bs => loadTiles c n tag w rest (acc ++ [bs])

/-! ## A layer's weights (R201, R222, R232) -/

/-- A layer of a chain as it starts: the buffer of its weight set is fixed, and its epoch noted (R201, R222, R233). -/
def State.newLayer (s : State) (j : Job) (p : ProjJob) (epoch : Option Nat) : ProjJob :=
  { p with
    inLayer := true, tile := 0, pass := 0, y := [], bufB := ((s.stageWset j p.layer).map (·.activeB)).getD false
    firstEpoch := if p.layer = 0 then epoch else p.firstEpoch, lastEpoch := epoch }

/-- The tag of a layer's activations and weights. -/
def Job.tag (j : Job) (p : ProjJob) : StageTag := ⟨some j.order, p.layer⟩

/-- The weight set of a layer, with the buffer that its layer reads (R222). -/
def State.layerWset (s : State) (j : Job) (p : ProjJob) : WeightSet := { (s.stageWset j p.layer).getD {} with activeB := p.bufB }

/-- The column tiles that array `i` of `n` holds from a stage's start, as many as fit in a half (R232). -/
def WeightSet.firstTiles (w : WeightSet) (g : StageDesc) (n i : Nat) : List Nat :=
  let all := List.range (ceilDiv w.n 128)
  (if g.func = 3 then all else all.filter fun t => t % n == i).take (halfBytes / w.tileBytes)

/-- The weights of a layer are loaded as it starts (R232). -/
def preload (j : Job) (p : ProjJob) (g : StageDesc) : Work Unit := fun s =>
  if g.func = 1 ∨ g.func = 4 then (s, .ok ())
  else
    let w := s.layerWset j p
    let on := s.onArrays
    Work.each (fun e => (loadTiles j.id e.1 (j.tag p) w (w.firstTiles g on.length e.2) []).andThen fun _ => Work.ret ()) on.zipIdx s

/-! ## Errors (R244) -/

/-- A parity error in an array: its tile is re-run, and a second error disables it (R244, code 0x0010). -/
def State.arrayParity (s : State) (n : Fin 4) : State :=
  let second := decide (1 ≤ (s.array n).errors)
  let s := s.updArray n fun x => { x with errors := x.errors + 1, parityReruns := min 255 (x.parityReruns + 1), parity := true, disabled := x.disabled || second }
  s.errorRecord { code := 0x0010, unit := 6, index := n.val, action := if second then 8 else 0 }

/-- What an event does to the arrays of a tile. -/
def State.arrayEvent (s : State) (used : List (Fin 4)) (e : ArrayEvent) : State :=
  match e with
  | .parity n => s.arrayParity n
  | .broadcast => used.foldl State.arrayParity s
  | .bufCe n => (s.updArray n fun x => { x with bufEcc := true }).countEngine 27 1
  | .bufUe n fails => (s.updArray n fun x => { x with bufUe := true }).errorRecord { code := 0x0011, unit := 6, index := n.val, action := if fails then 11 else 1 }

/-- The array that an event names. -/
def eventArray (e : ArrayEvent) : Option (Fin 4) :=
  match e with
  | .broadcast => none
  | .parity n | .bufCe n | .bufUe n _ => some n

/-- Whether a tile's events name only arrays of the tile. -/
def eventsFit (used : List (Fin 4)) (es : List ArrayEvent) : Bool :=
  es.all fun e => match eventArray e with
    | some n => used.contains n
    | none => true

/-- Whether a weight-buffer error leads to a reload, and whether one of the reloads fails (R244). -/
def reloads (es : List ArrayEvent) : Bool := es.any fun e => match e with
  | .bufUe _ _ => true
  | _ => false
def reloadFails (es : List ArrayEvent) : Bool := es.any fun e => match e with
  | .bufUe _ fails => fails
  | _ => false

/-- The tiles lost to weight-buffer errors, to be read again (R244). -/
def State.loseTiles (s : State) (tag : StageTag) (es : List ArrayEvent) : State :=
  es.foldl (fun s e => match e with
    | .bufUe n _ => s.updArray n fun x => x.dropTiles tag
    | _ => s) s

/-! ## The cells of a tile (R225, R229, R242) -/

/-- What one array gives of a tile: its cells, by row and column, and the multiply-adds it gated. -/
structure ArrayPart where
  cells : List (Nat × Nat × CellRes)
  gated : Nat
  deriving DecidableEq, Repr

/-- What a tile gives: the outputs of its rows, what each array did, and the rows, by place in the tile, that were not encoded. -/
structure TileOut where
  out : List (List CellRes)
  parts : List ArrayPart
  dead : List Nat := []
  steps : Nat := 0
  deriving DecidableEq, Repr

/-- A row of a tile: its sample vector, none when it was not encoded, and how many of its steps are no padding rows of CONV1D. -/
structure ActRow where
  sample : Option (List OpGroup)
  steps : Nat
  deriving DecidableEq, Repr

/-- Whether an operand is zero. -/
def zeroEl (x : Option Exact) : Bool :=
  match x with
  | some v => v.isZero
  | none => false

/-- Multiply-adds of two vectors that are not gated by a zero operand. -/
def liveMacs (a b : List OpGroup) : Nat :=
  ((a.map (·.els)).flatten.zip (b.map (·.els)).flatten).foldl (fun n e => if zeroEl e.1 || zeroEl e.2 then n else n + 1) 0

/-- Multiply-adds gated in an array of a tile of `steps` steps (R242). -/
def gatedMacs (zgate : Bool) (steps : Nat) (rows : List ActRow) (cols : List (List OpGroup)) : Nat :=
  let live := (rows.map fun r => match r.sample with
    | none => 0
    | some a => (cols.map fun b => if zgate then liveMacs a b else r.steps).foldl (· + ·) 0).foldl (· + ·) 0
  16384 * steps - live

/-- The outputs of rows against columns: every output of a row that was not encoded is NaN (R225, R226). -/
def cellRows (path : Path) (fn : Nat) (rows : List ActRow) (cols : List (List OpGroup)) (bias : List (Option F32)) : List (List CellRes) :=
  rows.map fun r => match r.sample with
    | none => cols.map fun _ => { val := f32NaN }
    | some a => (cols.zip bias).map fun e => stageElem path a e.1 e.2 fn

/-- Results by cell row and column; a row that was not encoded leaves its cells. -/
def cellsOf (rows : List ActRow) (out : List (List CellRes)) : List (Nat × Nat × CellRes) :=
  ((rows.zip out).zipIdx.map fun e => if e.1.1.sample.isNone then [] else e.1.2.zipIdx.map fun c => (e.2, c.2, c.1)).flatten

/-- Rows against the columns of each array. -/
def tileOut (path : Path) (fn : Nat) (zgate : Bool) (steps : Nat) (rows : List ActRow) (cols : List (List (List OpGroup) × List (Option F32))) : TileOut :=
  let outs := cols.map fun e => cellRows path fn rows e.1 e.2
  { out := rows.zipIdx.map fun e => (outs.map fun o => o.getD e.2 []).flatten
    parts := (cols.zip outs).map fun e => { cells := cellsOf rows e.2, gated := gatedMacs zgate steps rows e.1.1 }
    dead := (rows.zipIdx.filter fun e => e.1.sample.isNone).map (·.2)
    steps := steps }

/-- A cell's accumulators after a tile: they swap, so that the result drains (R216). -/
def Cell.ran (x : Cell) (r : CellRes) : Cell := { group := BitVec.ofInt 32 r.group, acc := x.drain, drain := r.acc }

/-- The cells of a row with one of them changed; cells never used are clear. -/
def setCell (l : List Cell) (col : Nat) (f : Cell → Cell) : List Cell :=
  let l := l ++ List.replicate (col + 1 - l.length) { group := 0 }
  l.set col (f (l.getD col { group := 0 }))

/-- What a tile leaves in an array: its cells, its re-run, and its gated multiply-adds (R216, R229, R242, R248). -/
def State.countPart (s : State) (n : Fin 4) (o : ArrayPart) : State :=
  let s := s.unitWork (16 + n.val) o.gated
  let again := o.cells.any fun e => e.2.2.rerun
  s.updArray n fun x =>
    { x with
      cells := o.cells.foldl (fun m e => sinsert m e.1 (setCell (sget [] m e.1) e.2.1 fun y => y.ran e.2.2)) x.cells
      wideReruns := if again then min 255 (x.wideReruns + 1) else x.wideReruns
      sat := x.sat || again }

/-- What a tile leaves in the arrays of its deal; the arrays that stayed gated for it gate every step (R242, R243). -/
def State.countTile (s : State) (d : Deal) (o : TileOut) : State :=
  let s := (d.arrays.zip o.parts).foldl (fun s e => s.countPart e.1 e.2) s
  d.idle.foldl (fun s n => s.unitWork (16 + n.val) (16384 * o.steps)) s

/-- How many tiles were re-run, and how many elements (R229). -/
def TileOut.reruns (o : TileOut) : Nat × Nat :=
  ((o.parts.filter fun x => x.cells.any fun e => e.2.2.rerun).length, (o.out.map fun r => (r.filter (·.rerun)).length).foldl (· + ·) 0)

end Sys2Proof.Machine
end

