-- ==== Sys2Proof/Machine/GatherRows.lean ====
section
/-! DEFINITION. GATHER and GATHER_SEQ: their work items as they are cut and dealt (R118, R119), the epoch they read at (R192, R198 to R201),
and the timeout of a minimum epoch (R200). -/

namespace Sys2Proof.Machine

/-- A gather that may start is cut into work items, which wait in the intake until they may be dealt (R118, R192). -/
def State.cutGather (s : State) (j : Job) : State := (s.notStarted j.id .running).makeItems j

/-- GATHER: the command is cut into work items, and pools each of its bags (R118, R137, R187). -/
def execGather (c : CmdId) (s : State) : Out := cmdRow s c opGather fun j s => s.cutGather j

/-- GATHER_SEQ: as GATHER, in CONCAT (R118, R140, R187). -/
def execGatherSeq (c : CmdId) (s : State) : Out := cmdRow s c opGatherSeq fun j s => s.cutGather j

/-- The epoch of the first layer of a fused chain: that of the table set of its weight set, or of T0 when it reads a fixed one (R201,
R233). -/
def State.fusedEpoch (s : State) (j : Job) : Option Nat :=
  match (s.stageSets j 0).head? with
  | some h => some (s.epochOf h)
  | none => ((s.table? (pktObj j.pkt)).map (·.tset)).map s.epochOf

/-- A gather begins at the epoch in force, a fused one with the first layer of its chain, its weights loaded (R192, R198, R232, R233). It
has begun, failed, or waits for a fault. -/
def State.beginGather (s : State) (j : Job) (sets : List Nat) : State :=
  let c := j.id
  let now := fun (s : State) (proj : Option ProjJob) => (s.begin c).updJob c fun j => { j with epochs := s.epochsOf sets, proj := proj }
  match if flFused j.pkt then j.chain.head? else none with
  | none => now s none
  | some g =>
    let layer := s.newLayer j {} (s.fusedEpoch j)
    match (preload j layer g).whole s with
    | (s, .wait) => s
    | (s, .stop st d) => s.fail c st d
    | (s, .ok _) => now s (some layer)

/-- A work item goes to a slice's queue (R119). -/
def State.dealTo (s : State) (w i : Nat) : State :=
  ({ s with rr := i }.updItem w fun w => { w with place := .queued i }).updSlice i fun x => { x with dispatch := x.dispatch ++ [w], anyWork := true }

/-- Whether the items of a command may be dealt: it has begun, or what it begins with is not held, or is to end with its TORN set (R192,
R204, R215). -/
def State.mayDeal (s : State) (c : CmdId) : Bool :=
  match s.job? c with
  | none => false
  | some j => !s.faultWait (.job c) && (s.gate j == .go || s.gate j == .torn)

/-- WORK_ITEM_DEAL: the oldest work item in the command intake that may be dealt goes to a slice's queue; the first of a command begins it
(R119, R192, R339). -/
def execWorkItemDeal (s : State) : Out :=
  actS s fun s =>
    match s.items.find? (fun w => w.place == .intake && s.mayDeal w.cmd), s.dealSlice with
    | some w, some i =>
      (match s.job? w.cmd with
       | none => s
       | some j =>
         match s.gate j, s.nextSets j with
         | .torn, _ => s.fail w.cmd stAborted
         | _, none => s.dealTo w.id i
         | _, some sets =>
           let s := s.beginGather j sets
           if (s.job? w.cmd).any fun k => k.epochs != [] then s.dealTo w.id i else s)
    | _, _ => s

/-- Whether a gather has waited for a minimum epoch for its context's timeout (R200, R362). -/
def State.minExpired (s : State) (j : Job) : Bool :=
  let ms := ((s.context? j.id.ctx).map (·.timeoutMs)).getD 0
  (s.nextSets j).isSome && j.epochs == [] && (s.minEpochs j).any (fun e => !epochReached (s.epochOf e.1) e.2) &&
    match j.heldSince with
    | some t => decide (t + ms * 1000000 ≤ s.time)
    | none => false

/-- COMMAND_TIMEOUT: a minimum epoch that is not reached in the context's timeout ends the command (R200). -/
def execCommandTimeout (c : CmdId) (s : State) : Out :=
  actS s fun s =>
    match s.job? c with
    | some j => if s.minExpired j then (s.endHold j true).fail c stAborted else s
    | none => s

end Sys2Proof.Machine
end

