-- ==== Sys2Proof/Machine/Window.lean ====
section
/-! DEFINITION. What an apply window does beside its touched rows (R194): buckets rebuilt (R430), rows restored and repaired (R214, R428,
R429), promotion lists (R77, R354), ADAPTIVE promotions and demotions (R77), directory clears (R174), and the sweeps of the patina sketches after a commit (R75). -/

namespace Sys2Proof.Machine

/-! ## Promotion and demotion (R68, R72, R476) -/

/-- How a promotion ends (R68, R204, R476). -/
inductive PromoEnd where
  | done
  | limit
  | noSlot
  | full
  | bad
  deriving DecidableEq, Repr

/-- The new copy of a promoted row, and its map entry (R67 to R69, R72). -/
def placeCopy (h : Nat) (c : CmdId) (w : Who) (t : Table) (row tier slot : Nat) (v : List Deq) : Work PromoEnd :=
  let d := t.desc
  (newPlace c w t row).andThen fun at_ =>
    match at_ with
    | none => (Work.upd fun s => s.countTable d.table 16 1).andThen fun _ => Work.ret .full
    | some at_ => fun s =>
      let e := d.encodeTier tier (.fixed .nearest) (v.map (·.val))
      ((writeWork c (s.rowSpace t c) w (d.vaOf (copyOf tier slot) row) e.bytes).andThen fun _ =>
        (writeEntry c w t at_ row { tier := tier, row := row, slot := slot, widened := false, ovf := false, valid := true }).andThen fun _ =>
          (Work.upd fun s =>
            ((s.updTable d.table fun x => x.promote { row := row, tier := tier, slot := slot, bucket := at_.bucket, widened := false }).countTable
              d.table 10 e.sat).updApply h fun a => { a with promos := a.promos + 1 }).andThen fun _ => Work.ret .done) s

/-- A row is promoted to a tier (R68, R72, R77, R204, R476). -/
def promoteRow (h : Nat) (c : CmdId) (w : Who) (t : Table) (row tier : Nat) : Work PromoEnd := fun s =>
  let d := t.desc
  let limit := ((s.tset? h).map (·.promoLimit)).getD 0
  let made := (((s.tset? h).bind (·.apply)).map (·.promos)).getD 0
  if (t.promo? row).isSome ∨ d.slotsOf tier = 0 then (s, .ok .noSlot)
  else if limit ≤ made then (s.countSet h 6 1, .ok .limit)
  else if s.isPoisoned d.table row then (s, .ok .bad)
  else
    match s.freeSlot t tier row with
    | none => (s, .ok .noSlot)
    | some slot =>
      ((rowValue c w t row).andThen fun v =>
        match v with
        | none => (Work.upd fun s => s.poisonRow d.table row false).andThen fun _ => Work.ret .bad
        | some v => (Work.upd fun s => s.countReads d.table v).andThen fun _ =>
            if encodable v then placeCopy h c w t row tier slot v else Work.ret .bad) s

/-- OVF of a row's primary bucket is cleared when no other row of it is held in its secondary bucket (R67). -/
def clearOvf (c : CmdId) (w : Who) (t : Table) (p : Promo) : Work Unit := fun s =>
  let p0 := (t.desc.buckets p.row).1
  let others := t.promoted.any fun x => x.row != p.row && (t.desc.buckets x.row).1 == p0 && x.bucket != p0
  if p.bucket = p0 ∨ others = true then (s, .ok ())
  else
    ((readBucket c w t p0).andThen fun b =>
      match b.2 with
      | none => Work.ret ()
      | some b => writeWork c (s.mapSpace t c) w (t.desc.bucketVa p0) ((setOvf b false).take 16)) s

/-- A promoted row is demoted: its map entry goes, and its slot at the commit (R72, R211). False when it has none that can be removed. -/
def demoteRow (c : CmdId) (w : Who) (t : Table) (row : Nat) : Work Bool :=
  match t.promo? row with
  | none => Work.ret false
  | some p =>
    (oldPlace c w t p).andThen fun at_ =>
      match at_ with
      | none => Work.ret false
      | some at_ =>
        (writeEntry c w t at_ row { tier := 0, row := 0, slot := 0, widened := false, ovf := false, valid := true }).andThen fun _ =>
          (clearOvf c w t p).andThen fun _ =>
            (Work.upd fun s => s.updTable t.desc.table fun x => x.demote row).andThen fun _ => Work.ret true

/-! ## Buckets rebuilt (R430) -/

/-- The bytes of a bucket from the slot registry. -/
def Table.bucketBytes (t : Table) (j : Nat) : List Byte :=
  let mine := t.promoted.filter fun p => p.bucket == j
  let over_ := t.promoted.any fun p => (t.desc.buckets p.row).1 == j && p.bucket != j
  let entry := fun (k : Nat) => match mine[k]? with
    | some p => ({ tier := p.tier, row := p.row, slot := p.slot, widened := p.widened, ovf := false, valid := true } : MapEntry)
    | none => { tier := 0, row := 0, slot := 0, widened := false, ovf := false, valid := true }
  setOvf ((List.range 4).map fun k => (entry k).bytes).flatten over_

/-- A bucket is rebuilt from the slot registry. -/
def rebuildBucket (c : CmdId) (w : Who) (t : Table) (j : Nat) : Work Unit := fun s =>
  ((writeWork c (s.mapSpace t c) w (t.desc.bucketVa j) (t.bucketBytes j)).andThen fun _ =>
    Work.upd fun s => s.updTable t.desc.table fun x => { x with badBuckets := x.badBuckets.filter fun b => b ≠ j }) s

/-! ## Rows repaired and restored (R428, R429, R214) -/

/-- One copy of a promoted row is re-encoded from the other (R71, R72, R428, R476). -/
def repairCopy (c : CmdId) (w : Who) (t : Table) (row : Nat) (cold : Bool) : Work Unit := fun s =>
  let d := t.desc
  match t.promo? row with
  | none => (s.updTable d.table fun x => { x with repairs := x.repairs.filter fun e => e ≠ (row, cold) }, .ok ())
  | some p =>
    let source := if cold then p.copy else .cold
    let target := if cold then .cold else p.copy
    if s.isPoisoned d.table row then (s, .ok ())
    else
      ((readSide c w t row).andThen fun side =>
        (readCopy c w t source row).andThen fun b =>
          match side, b with
          | some side, some b =>
            let v := d.values (d.fmtOf source) b side
            (Work.upd fun s => s.countReads d.table v).andThen fun _ =>
              if encodable v then fun s =>
                let e := d.encodeTier (if cold then 0 else p.tier) (.fixed .nearest) (v.map (·.val))
                ((writeWork c (s.rowSpace t c) w (d.vaOf target row) e.bytes).andThen fun _ =>
                  Work.upd fun s => (s.countTable d.table 10 e.sat).updTable d.table fun x =>
                    { x with repairs := x.repairs.filter fun e => e ≠ (row, cold) }) s
              else Work.ret ()
          | _, _ => Work.upd fun s => s.poisonRow d.table row false) s

/-- The promoted copy of a restored row: the snapshot's when it has one of the present tier's size, else encoded from the cold value
(R72, R429). A cold value that cannot be encoded leaves the row no promoted copy: the row is demoted and holds its cold value (R476; DESIGN
CHOICE: log entry 112). -/
def restoredCopy (c : CmdId) (w : Who) (t : Table) (p : Promo) (cold promoted : List Byte) (side : Option (List Byte)) : Work Unit := fun s =>
  let d := t.desc
  let put := fun (b : List Byte) => writeWork c (s.rowSpace t c) w (d.vaOf p.copy p.row) b
  if promoted.length = d.sizeOf p.copy then put promoted s
  else
    let v := d.values d.fmtCold cold side
    ((Work.upd fun s => s.countReads d.table v).andThen fun _ =>
      if encodable v then
        let e := d.encodeTier p.tier (.fixed .nearest) (v.map (·.val))
        (put e.bytes).andThen fun _ => Work.upd fun s => s.countTable d.table 10 e.sat
      else (demoteRow c w t p.row).andThen fun _ => Work.ret ()) s

/-- A poisoned row is written from its snapshot's bytes (R214, R429). -/
def restoreRow (h : Nat) (c : CmdId) (w : Who) (t : Table) (row : Nat) : Work Unit := fun s =>
  let d := t.desc
  match (s.poisoned.find? fun p => p.table == d.table && p.row == row).bind (·.bytes) with
  | none => (s, .ok ())
  | some (cold, promoted, side, state) =>
    let x := s.rowSpace t c
    let o := t.opt.getD {}
    let sd := if d.hasSide then some (side.take 16) else none
    ((writeWork c x w (d.vaOf .cold row) (cold.take (d.sizeOf .cold))).andThen fun _ =>
      ((match t.promo? row with
        | some p => restoredCopy c w t p cold promoted sd
        | none => Work.ret ()) : Work Unit).andThen fun _ =>
        (if d.hasSide then writeWork c x w (d.sideVa row) (side.take 16) else Work.ret ()).andThen fun _ =>
          (if t.opt.isSome ∧ stateBytes d o ≠ 0 then writeWork c (s.stateSpace t c) w (stateVa o row) (state.take (stateBytes d o)) else Work.ret ()).andThen fun _ =>
            Work.upd fun s => s.updApply h fun a => { a with restoredRows := a.restoredRows ++ [(d.table, row)] }) s

/-! ## The sketch (R75, R77, R430) -/

/-- The space of a table's patina sketch. -/
def State.patinaSpace (s : State) (t : Table) (c : CmdId) : Space := s.tableSpace t c 3 3

/-- The value of one counter; a lost sector's counters are rewritten as zero (R430). -/
def readCounter (c : CmdId) (w : Who) (t : Table) (va : Nat) : Work Nat := fun s =>
  let x := s.patinaSpace t c
  ((readWork c x w va 2).andThen fun b =>
    match b with
    | some b => Work.ret (leNat b)
    | none => (writeWork c x w (va / 64 * 64) (zeros 64)).andThen fun _ => Work.ret 0) s

/-- The least of counters (R73, R77). -/
def leastCounter (c : CmdId) (w : Who) (t : Table) (vas : List Nat) (m : Nat) : Work Nat :=
  match vas with
  | [] => Work.ret m
  | va :: rest => (readCounter c w t va).andThen fun n => leastCounter c w t rest (min m n)

/-- A sector of counters halved (R75). -/
def halveCounters (b : List Byte) : List Byte := ((List.range 32).map fun i => leBytes 2 (field b (2 * i) 2 / 2)).flatten

/-- The sectors of a sketch halved, by address; one that is lost is zeros. -/
def halvedSectors (x : Space) (w : Who) (vas : List Nat) : Work (List (Nat × List Byte)) :=
  match vas with
  | [] => Work.ret []
  | va :: rest =>
    (readWork noCmd x w va 64).andThen fun b =>
      (halvedSectors x w rest).andThen fun l => Work.ret ((va, (b.map halveCounters).getD (zeros 64)) :: l)

/-- A halved sector is written where it lies in this engine's memory, and waits to be sent to another node's (R75, R325). -/
def putHalved (x : Space) (w : Who) (t : Table) (e : Nat × List Byte) : Work Unit := fun s =>
  match s.xlate x.ctx e.1 true with
  | (s, .ok pa _) =>
    if s.isLocal pa then writeWork noCmd x w e.1 e.2 s
    else ({ s with fab := { s.fab with sweepOuts := s.fab.sweepOuts ++ [(t.desc.table, e)] } }, .ok ())
  | (s, _) => writeWork noCmd x w e.1 e.2 s

/-- The sweep of a table's sketch: every counter is halved, a sector at a time (R75; log entry 28). -/
def decaySketch (h : Nat) (t : Table) : Work Unit := fun s =>
  let x := s.patinaSpace t noCmd
  let w : Who := { joiner := .sweep h, cmdSeq := 0 }
  ((halvedSectors x w ((List.range (2 ^ t.desc.patinaLog2 / 8)).map fun i => u64 (t.desc.patinaBase + 64 * i))).andThen fun l =>
    Work.each (putHalved x w t) l) s

/-- A halved sector leaves for another node, or waits for a fault, a tag or the request of its line; it is lost where no route is left. -/
def State.sendHalved (s : State) (t : Table) (e : Nat × List Byte) : State × Bool :=
  let x := s.patinaSpace t noCmd
  let (s, r) := s.xlate x.ctx e.1 true
  match r with
  | .fault typ seg page pa => (s.faultFor x { joiner := .sweep t.tset } e.1 true typ seg page pa, false)
  | .ok pa _ =>
    if s.reachable pa then
      match s.remoteSend noCmd x.ctx pa e.2.length (some e.2) with
      | some s' => (s', true)
      | none => (s, false)
    else (s, true)
  | _ => (s, true)

/-- What can leave of the halved sectors leaves; the sweep of a table ends with the last of them. -/
def State.sendHalves (s : State) : State :=
  s.fab.sweepOuts.foldl (fun (s : State) e =>
    let (s, gone, h) := match s.table? e.1 with
      | some t => let (s, gone) := s.sendHalved t e.2; (s, gone, t.tset)
      | none => (s, true, 0)
    if gone then
      let s := { s with fab := { s.fab with sweepOuts := s.fab.sweepOuts.erase e } }
      if s.fab.sweepOuts.any (fun x => x.1 == e.1) then s else s.updTset h fun t => { t with sweeps := t.sweeps.erase e.1 }
    else s) s

/-- The sweeps of a set that are due: each is done whole, is skipped when its memory refuses it, or waits for a translation or another node
(R75). -/
def State.sweep (s : State) (h : Nat) : State :=
  (((s.tset? h).map (·.sweeps)).getD []).foldl (fun (s : State) n =>
    let ended := fun (s : State) => { s.updTset h fun t => { t with sweeps := t.sweeps.erase n } with fab := { s.fab with sweepGot := [] } }
    let sending := fun (s : State) => s.fab.sweepOuts.any fun e => e.1 == n
    match s.table? n with
    | none => ended s
    | some x =>
      if sending s then s
      else
        match s.flushSketch noCmd { joiner := .sweep h } h with
        | (s, false) => s
        | (s, true) =>
          match (decaySketch h x).whole s with
          | (s, .wait) => s
          | (s, .ok _) => if sending s then s.sendHalves else ended s
          | (s, _) => ended s) s

/-- The sweeps go on once a fault is resolved, or a request to another node has ended. -/
def State.sweepsGoOn (s : State) : State := (s.tsets.map (·.1)).foldl State.sweep s.sendHalves

/-- A request to another node has ended: what waited for its line or its tag goes on (R75, R379). -/
def State.remoteEnded (s : State) : State := s.retryRemote.sweepsGoOn

/-- The decays that fall due at a commit: a table whose previous sweep still runs waits for it, and the wait is counted (R75). -/
def State.decayDue (s : State) (h : Nat) : State :=
  match s.tset? h with
  | none => s
  | some t =>
    let due := ((s.tablesOf h).filter fun e => e.2.desc.decayCommits ≠ 0 ∧ t.commits % e.2.desc.decayCommits = 0).map (·.1)
    let s := (due.filter t.sweeps.contains).foldl (fun s n => s.countTable n 19 1) s
    (s.updTset h fun t => { t with sweeps := t.sweeps ++ due }).sweep h

/-- A sweep's access is denied, or its page has an error: the sweep of the sketch that holds the address is skipped, the increments of its page
are lost, and the others go on. -/
def State.skipSweep (s : State) (h va : Nat) : State :=
  let here := fun (n : Nat) => match s.table? n with
    | some x => decide (x.desc.patinaBase ≤ va) && decide (va < x.desc.patinaBase + 8 * 2 ^ x.desc.patinaLog2)
    | none => true
  let s := { s with
    sketchBuf := s.sketchBuf.filter fun e => !(here e.table && e.va / 2 ^ 16 == va / 2 ^ 16)
    fab := { s.fab with sweepOuts := s.fab.sweepOuts.filter fun e => !here e.1 } }
  (s.updTset h fun t => { t with sweeps := t.sweeps.filter fun n => !here n }).sweep h

/-- The tier that ADAPTIVE policy gives a candidate of a counter value, 0 for none (R77). A candidate that reaches HOT_THR in a table with no
hot tier is a warm one (DESIGN CHOICE: log entry 103). -/
def TableDesc.tierFor (d : TableDesc) (v : Nat) : Nat :=
  if d.hotThr ≠ 0 ∧ d.hotSlots ≠ 0 ∧ d.hotThr ≤ v then 2 else if d.warmThr ≠ 0 ∧ d.warmThr ≤ v then 1 else 0

/-! ## The pieces of a window -/

/-- A piece of a window that is not an image. -/
def windowWork (h : Nat) (c : CmdId) (e : WindowWork) : Work Unit := fun s =>
  let w := whoApply h c
  let on := fun (t : Nat) (f : Table → Work Unit) => match s.table? t with
    | some x => f x s
    | none => (s, .ok ())
  match e with
  | .image => (s, .ok ())
  | .restoreRow t row => on t fun x => restoreRow h c w x row
  | .repair t row cold => on t fun x => repairCopy c w x row cold
  | .rebuild t j => on t fun x => rebuildBucket c w x j
  | .entry t action row => on t fun x =>
      if action = 3 then
        (demoteRow c w x row).andThen fun ok => if ok then Work.ret () else Work.upd fun s => s.countSet h 8 1
      else
        (promoteRow h c w x row action).andThen fun e =>
          if e = .done ∨ e = .limit then Work.ret () else Work.upd fun s => s.countSet h 8 1
  | .promote t row => on t fun x =>
      (leastCounter c w x (x.desc.patinaVas row) 65535).andThen fun v =>
        let tier := x.desc.tierFor v
        if tier = 0 then Work.ret ()
        else
          (promoteRow h c w x row tier).andThen fun e =>
            if e = .bad then Work.upd fun s => s.countTable t 16 1 else Work.ret ()
  | .demote t row => on t fun x =>
      (leastCounter c w x (x.desc.patinaVas row) 65535).andThen fun v =>
        if v < x.desc.demoteThr then (demoteRow c w x row).andThen fun _ => Work.ret () else Work.ret ()
  | .clearDir t => on t fun x s =>
      match s.clearDir c w x (((s.tset? h).map (·.epoch)).getD 0 + 1) with
      | (s, .ok _) => (s, .ok ())
      | (s, r) => (s, r.pass)

/-- A list in the order that `n` free picks from number `k` on take it. -/
def freeOrder {α : Type} (k n : Nat) (l : List α) : List α :=
  match n with
  | 0 => l
  | n + 1 =>
    match l[Config.free k % l.length]? with
    | some x => x :: freeOrder (k + 1) n (l.eraseIdx (Config.free k % l.length))
    | none => l

/-- A list in a free order: touched rows of a window, and Armature's own order (R77, R194; log entry 5). -/
def State.anyOrder {α : Type} (s : State) (l : List α) : State × List α :=
  ({ s with fresh := s.fresh + l.length }, freeOrder s.fresh l.length l)

/-- The promotion lists due at a commit, in the order they apply, and those that wait (R211). -/
def TableSet.dueLists (t : TableSet) : List PromoList × List PromoList := t.lists.partition fun l => epochReached t.epoch l.epoch

/-- What ADAPTIVE policy looks at in a table (R77): candidates, and promoted rows not WIDENED. -/
def State.adaptive (s : State) (t : Nat) (x : Table) : State × List WindowWork :=
  if x.desc.promoMode = 1 then
    let (s, demote) := s.anyOrder ((x.promoted.filter fun p => !p.widened).map fun p => WindowWork.demote t p.row)
    let (s, promote) := s.anyOrder (x.cand.map fun e => WindowWork.promote t e.1)
    (s, (if x.desc.demoteThr = 0 then [] else demote) ++ promote)
  else (s, [])

/-- The pieces of an APPLY_EPOCH's window beside its touched rows, in the order the model takes them (log entry 29). -/
def State.listWork (s : State) (h : Nat) : State × List WindowWork :=
  match s.tset? h with
  | none => (s, [])
  | some t =>
    let ts := s.tablesOf h
    let rebuild := (ts.map fun e => e.2.badBuckets.map fun j => WindowWork.rebuild e.1 j).flatten
    let restore := (s.poisoned.filter fun p => p.bytes.isSome && ts.any fun e => e.1 == p.table).map fun p => WindowWork.restoreRow p.table p.row
    let repair := (ts.map fun e => e.2.repairs.map fun r => WindowWork.repair e.1 r.1 r.2).flatten
    let (due, later) := t.dueLists
    let entries := (due.map fun l => l.entries.map fun (a, b, r) => WindowWork.entry a b r).flatten
    let late := (due.filter fun l => l.epoch ≠ t.epoch).length
    let (s, adapt) := ts.foldl (fun (acc : State × List WindowWork) e =>
      let (s, l) := acc.1.adaptive e.1 e.2
      (s, acc.2 ++ l)) (s, [])
    let clear := if (t.epoch + 2) % 2 ^ 32 = t.clearEpoch % 2 ^ 32 then ts.map (fun e => WindowWork.clearDir e.1) else []
    let s := if late = 0 then s else s.countSet h 7 late
    (s.updTset h fun t => { t with lists := later }, rebuild ++ restore ++ repair ++ entries ++ adapt ++ clear)

end Sys2Proof.Machine
end

