-- ==== Sys2Proof/Machine/Image.lean ====
section
/-! DEFINITION. Snapshot images (R350, R351): their sections, how a SNAPSHOT reads them (R212) and how a RESTORE checks and writes them
(R213). -/

namespace Sys2Proof.Machine

/-- MAJOR of ENG_IDENT (R13). -/
def engMajor : Nat := 1

/-- A run of bytes of a table's structure in a section: its class, address and length, and the number of its row, slot, bucket or
sector. -/
structure ImgPart where
  cls : Nat
  va : Nat
  len : Nat
  num : Nat
  deriving DecidableEq, Repr

/-- A section: its header fields, its own bytes, and the runs of memory that follow them (R350, R351). -/
structure ImgSec where
  kind : Nat
  table : Nat := 0xFFFF
  data : List Byte := []
  parts : List ImgPart := []
  deriving DecidableEq, Repr

/-- LENGTH of a section. -/
def ImgSec.length (x : ImgSec) : Nat := x.data.length + (x.parts.map (·.len)).foldl (· + ·) 0

/-- The 32-byte header of a section. -/
def secHeader (kind table length : Nat) : List Byte := leBytes 2 kind ++ leBytes 2 table ++ zeros 4 ++ leBytes 8 length ++ zeros 16

/-- Padding of a section to a multiple of 64 bytes. -/
def secPad (length : Nat) : Nat := roundUp (32 + length) 64 - (32 + length)

/-! ## The sections of a table set (R351) -/

/-- The SET section's data. -/
def State.setData (s : State) (h : Nat) (t : TableSet) : List Byte :=
  leBytes 2 h ++ leBytes 2 t.plan ++ leBytes 4 t.epoch ++ leBytes 8 t.seed ++ leBytes 8 t.adamSteps ++ leBytes 8 (s.now .core) ++ leBytes 8 t.commits ++
    leBytes 1 engMajor ++ zeros 1 ++ leBytes 2 (s.tablesOf h).length ++ zeros 20

/-- The TABLE section's data. -/
def tableData (t : Table) : List Byte :=
  let d := t.desc
  let opt := (t.opt.map (·.opt)).getD 0xFF
  let p1 := if opt = 2 then t.p1.toNat else 0
  let p2 := if opt = 2 then t.p2.toNat else 0
  leBytes 2 d.table ++ leBytes 2 d.elems ++ leBytes 1 (d.fmtWarm * 16 + d.fmtHot) ++ leBytes 1 (d.group * 16 + d.fmtCold) ++ leBytes 1 opt ++
    zeros 1 ++ leBytes 4 p1 ++ leBytes 4 p2 ++ leBytes 8 d.rows ++ leBytes 4 d.coarse.toNat ++ zeros 4

/-- The sections of one table, in order. -/
def Table.sections (t : Table) : List ImgSec :=
  let d := t.desc
  let sec := fun (kind n : Nat) (f : Nat → ImgPart) => ({ kind := kind, table := d.table, parts := (List.range n).map f } : ImgSec)
  let o := t.opt.getD {}
  let st := if t.opt.isSome then stateBytes d o else 0
  [{ kind := 2, table := d.table, data := tableData t }] ++
    [sec 3 d.rows fun n => ⟨t.cls, d.vaOf .cold n, d.sizeOf .cold, n⟩] ++
    (if d.tiered then [sec 4 (2 ^ d.mapLog2) fun j => ⟨2, d.bucketVa j, 64, j⟩] else []) ++
    (if d.warmSlots ≠ 0 then [sec 5 d.warmSlots fun k => ⟨t.cls, d.vaOf (.warm k) 0, d.sizeOf (.warm k), k⟩] else []) ++
    (if d.hotSlots ≠ 0 then [sec 6 d.hotSlots fun k => ⟨t.cls, d.vaOf (.hot k) 0, d.sizeOf (.hot k), k⟩] else []) ++
    (if d.hasSide then [sec 7 d.rows fun n => ⟨t.cls, d.sideVa n, 16, n⟩] else []) ++
    (if st ≠ 0 then [sec 8 d.rows fun n => ⟨5, stateVa o n, st, n⟩] else []) ++
    [sec 9 (2 ^ d.patinaLog2 / 8) fun i => ⟨3, u64 (d.patinaBase + 64 * i), 64, i⟩]

/-- A promotion list in the format of R354. -/
def PromoList.bytes (l : PromoList) (h : Nat) : List Byte :=
  leBytes 2 h ++ zeros 2 ++ leBytes 4 l.epoch ++ leBytes 4 l.entries.length ++ zeros 4 ++
    (l.entries.map fun (t, a, r) => leBytes 2 t ++ leBytes 1 a ++ zeros 5 ++ leBytes 8 r).flatten

/-- The sections of a set. -/
def State.sections (s : State) (h : Nat) : List ImgSec :=
  match s.tset? h with
  | none => []
  | some t =>
    [{ kind := 1, data := s.setData h t }] ++ ((s.tablesOf h).map fun e => e.2.sections).flatten ++
      [{ kind := 10, data := (t.lists.map fun l => l.bytes h).flatten }, { kind := 0xFFFF }]

/-! ## Reading (R212) -/

/-- `n` free bytes (log entry 5). -/
def State.freeBytes (s : State) (n : Nat) : List Byte := (List.range n).map fun i => (Config.openWord (s.fresh + i)).truncate 8

/-- What a lost run of an image means (R428, R430): sketch counters are rewritten as zero, a slot that holds no row has no value, and
any other loss ends the command. -/
def lostPart (c : CmdId) (w : Who) (t : Table) (kind : Nat) (p : ImgPart) : Work (List Byte) := fun s =>
  let d := t.desc
  let n := d.table
  let promoted := (t.promo? p.num).isSome
  let owner := fun (tier : Nat) => t.promoted.find? fun x => x.tier == tier && x.slot == p.num
  let poison : Work (List Byte) := Work.fail stPoison { object := n, value := p.num }
  let slot := fun (tier : Nat) => match owner tier with
    | some x => ((Work.upd fun s => s.markRepair n x.row false).andThen fun _ => Work.fail stAborted { object := n, value := x.row }) s
    | none => (s.took, .ok (s.freeBytes p.len))
  if kind = 9 then ((writeWork c (s.patinaSpace t c) w p.va (zeros 64)).andThen fun _ => Work.ret (zeros 64)) s
  else if kind = 5 then slot 1
  else if kind = 6 then slot 2
  else if kind = 4 then ((Work.upd fun s => s.markBucket n p.num).andThen fun _ => Work.fail stAborted { object := n, value := p.num }) s
  else if kind = 8 then ((Work.upd fun s => s.poisonRow n p.num true).andThen fun _ => poison) s
  else if kind = 3 ∧ promoted = true then ((Work.upd fun s => s.markRepair n p.num true).andThen fun _ => Work.fail stAborted { object := n, value := p.num }) s
  else ((Work.upd fun s => s.poisonRow n p.num false).andThen fun _ => poison) s

/-- The runs of a section, read in order. -/
def readParts (c : CmdId) (w : Who) (t : Table) (kind : Nat) (ps : List ImgPart) (acc : List Byte) : Work (List Byte) :=
  match ps with
  | [] => Work.ret acc
  | p :: rest => fun s =>
    ((readWork c (s.tableSpace t c p.cls 3) w p.va p.len).andThen fun b =>
      match b with
      | some b => readParts c w t kind rest (acc ++ b)
      | none => (lostPart c w t kind p).andThen fun b => readParts c w t kind rest (acc ++ b)) s

/-- An image read section by section. -/
def readImage (c : CmdId) (w : Who) (xs : List ImgSec) (acc : List Byte) : Work (List Byte) :=
  match xs with
  | [] => Work.ret acc
  | x :: rest => fun s =>
    let t := (s.table? x.table).getD {}
    ((readParts c w t x.kind x.parts x.data).andThen fun b =>
      readImage c w rest (acc ++ secHeader x.kind x.table x.length ++ b ++ zeros (secPad x.length))) s

/-! ## Checking an image (R351) -/

/-- A broken image (R350, R351, R477). -/
def badImage {α : Type} (off value : Nat) : Work α :=
  Work.fail stMalformed { reason := 0x47, object := opRestore, index := 0x8000 + off % 2 ^ 15, value := value }

/-- Bytes of an image in the command's context: a lost one ends the command (R430). -/
def imageRead (c : CmdId) (w : Who) (va n : Nat) : Work (List Byte) := fun s =>
  ((readWork c (s.cmdSpace c) w va n).andThen fun b =>
    match b with
    | some b => Work.ret b
    | none => Work.fail stAborted { object := 0xFFFF, value := va }) s

/-- Where bytes of an image differ from what is expected, leaving out the fields that may differ. -/
def firstOdd (a b : List Byte) (skip : Nat → Bool) : Option Nat :=
  (List.range a.length).find? fun i => !skip i && field a i 1 != field b i 1

/-- Fields of a SET section that the loaded set does not fix (R351): all but PLAN, MAJOR, NTABLE and the reserved bytes (R477). -/
def setSkips (i : Nat) : Bool := !(i == 2 || i == 3 || decide (40 ≤ i))

/-- Fields of a TABLE section that the loaded descriptors do not fix: P1 and P2. -/
def tableSkips (i : Nat) : Bool := decide (8 ≤ i) && decide (i < 16)

/-! ## Promotion lists (R354) -/

/-- The entries of a list from its bytes. -/
def promoEntries (b : List Byte) (n : Nat) : List (Nat × Nat × Nat) :=
  (List.range n).map fun i => (field b (16 * i) 2, field b (16 * i + 2) 1, field b (16 * i + 8) 8)

/-- The rules of one entry of a list, from the bytes of its entries (R354). -/
def State.entryRules (s : State) (h : Nat) (b : List Byte) (i : Nat) : List FieldRule :=
  let o := 16 * i
  let t := field b o 2
  let listed := match s.table? t with
    | some x => x.tset == h && x.desc.promoMode == 2
    | none => false
  let rows := ((s.table? t).map (·.desc.rows)).getD 0
  let at_ := 0x8010 + o
  let act := field b (o + 2) 1
  let rsv := (List.range 5).find? fun k => field b (o + 3 + k) 1 ≠ 0
  [⟨listed, at_, t⟩, ⟨act == 1 || act == 2 || act == 3, at_ + 2, act⟩,
   ⟨rsv.isNone, at_ + 3 + rsv.getD 0, field b (o + 3 + rsv.getD 0) 1⟩,
   ⟨decide (field b (o + 8) 8 < rows) && decide (field b (o + 8) 8 < 2 ^ 40), at_ + 8, field b (o + 8) 8⟩]

/-- Lists one after another, from an offset: each with its offset, its COUNT and its bytes, as far as they go. -/
def splitLists (b : List Byte) (off fuel : Nat) : List (Nat × Nat × List Byte) :=
  match fuel with
  | 0 => []
  | fuel + 1 =>
    if b = [] then []
    else
      let n := field b 8 4
      (off, n, b) :: splitLists (b.drop (16 + 16 * n)) (off + 16 + 16 * n) fuel

/-- The rules of a list of an image (R354, R477). -/
def State.listRules (s : State) (h n : Nat) (b : List Byte) : List FieldRule :=
  [⟨field b 0 2 == h, 0x8000, field b 0 2⟩, reservedRule b 2 2, ⟨decide (16 + 16 * n ≤ b.length), 0x8008, n⟩, reservedRule b 12 4] ++
    if 16 + 16 * n ≤ b.length then ((List.range n).map (s.entryRules h (b.drop 16))).flatten else []

/-- The first rule that the lists of an image break: its offset in the LIST section, and the value found (R354, R477). -/
def State.brokenList (s : State) (h : Nat) (b : List Byte) : Option (Nat × Nat) :=
  (splitLists b 0 (b.length + 1)).findSome? fun e => (firstBroken (s.listRules h e.2.1 e.2.2)).map fun r => (e.1 + r.index - 0x8000, r.value)

/-- The lists of a LIST section. -/
def promoLists (b : List Byte) : List PromoList :=
  (splitLists b 0 (b.length + 1)).map fun e => { epoch := field e.2.2 4 4, entries := promoEntries (e.2.2.drop 16) e.2.1 }

/-- The sections of an image against those of the loaded set, from an offset: each section with the offset of its data and its length. -/
def checkSections (h : Nat) (c : CmdId) (w : Who) (img : Nat) (xs : List ImgSec) (off : Nat) (acc : List (Nat × Nat × ImgSec)) :
    Work (List (Nat × Nat × ImgSec)) :=
  match xs with
  | [] => Work.ret acc
  | x :: rest =>
    (imageRead c w (u64 (img + off)) 32).andThen fun b =>
      let n := field b 8 8
      let go := checkSections h c w img rest (off + 32 + n + secPad n) (acc ++ [(off + 32, n, x)])
      if field b 0 2 ≠ x.kind then badImage off (field b 0 2)
      else if field b 2 2 ≠ x.table then badImage (off + 2) (field b 2 2)
      else if field b 4 4 ≠ 0 then badImage (off + 4) (field b 4 4)
      else if x.kind ≠ 10 ∧ n ≠ x.length then badImage (off + 8) n
      else if zeroRange b 16 16 = false then
        let i := ((List.range 16).find? fun i => field b (16 + i) 1 ≠ 0).getD 0
        badImage (off + 16 + i) (field b (16 + i) 1)
      else if x.kind = 10 then
        (imageRead c w (u64 (img + off + 32)) n).andThen fun d s =>
          match s.brokenList h d with
          | some (at_, v) => badImage (off + 32 + at_) v s
          | none => go s
      else if x.kind = 1 ∨ x.kind = 2 then
        (imageRead c w (u64 (img + off + 32)) n).andThen fun d =>
          match firstOdd x.data d (if x.kind = 1 then setSkips else tableSkips) with
          | some i => badImage (off + 32 + i) (field d i 1)
          | none => go
      else go

/-! ## Writing an image back (R213) -/

/-- The rows that a bucket of the map holds. -/
def bucketPromos (b : List Byte) (j : Nat) : List Promo :=
  ([0, 1, 2, 3].map (mapEntry b)).filterMap fun e =>
    if e.valid && (e.tier == 1 || e.tier == 2) then some { row := e.row, tier := e.tier, slot := e.slot, bucket := j, widened := e.widened } else none

/-- A bucket enters the slot registry and the filter (R67, R69). -/
def Table.learnBucket (t : Table) (b : List Byte) (j : Nat) : Table :=
  let ps := bucketPromos b j
  { t with
    promoted := t.promoted ++ ps
    filter := if t.desc.filterLog2 = 0 then t.filter else (ps.map fun p => t.desc.filterBits p.row).flatten.foldl ninsert t.filter
    badBuckets := if (searchBucket b 0).invalid then t.badBuckets ++ [j] else t.badBuckets }

/-- The runs of a section written back. -/
def writeParts (c : CmdId) (w : Who) (n kind va : Nat) (ps : List ImgPart) : Work Unit :=
  match ps with
  | [] => Work.ret ()
  | p :: rest =>
    (imageRead c w (u64 va) p.len).andThen fun b s =>
      ((writeWork c (s.tableSpace ((s.table? n).getD {}) c p.cls 3) w p.va b).andThen fun _ =>
        (Work.upd fun s => if kind = 4 then s.updTable n fun t => t.learnBucket b p.num else s).andThen fun _ =>
          writeParts c w n kind (va + p.len) rest) s

/-- One section written back. -/
def writeSection (h : Nat) (c : CmdId) (w : Who) (img : Nat) (e : Nat × Nat × ImgSec) : Work Unit :=
  let (off, n, x) := e
  let va := u64 (img + off)
  if x.kind = 1 then
    (imageRead c w va 64).andThen fun b => Work.upd fun s =>
      (s.updTset h fun t => { t with seed := field b 8 8, adamSteps := field b 16 8, commits := field b 32 8 }).updApply h fun a =>
        { a with snapEpoch := field b 4 4 }
  else if x.kind = 2 then
    (imageRead c w va 32).andThen fun b => Work.upd fun s => s.updTable x.table fun t =>
      { t with p1 := BitVec.ofNat 32 (field b 8 4), p2 := BitVec.ofNat 32 (field b 12 4), promoted := [], freed := [], filter := [], badBuckets := []
               repairs := [], cand := [] }
  else if x.kind = 10 then
    (imageRead c w va n).andThen fun b => Work.upd fun s => s.updTset h fun t => { t with lists := promoLists b }
  else writeParts c w x.table x.kind va x.parts

/-- The image of a RESTORE is written to the set's regions (R213). -/
def restoreImage (h : Nat) (c : CmdId) (img : Nat) : Work Unit := fun s =>
  let w := whoApply h c
  ((checkSections h c w img (s.sections h) 0 []).andThen fun xs => Work.each (writeSection h c w img) xs) s

end Sys2Proof.Machine
end

