-- ==== Sys2Proof/Machine/Regen.lean ====
section
/-! DEFINITION. A scatter's references and contributions: the stream program run again (R81, R152), bags and their gradients (R159 to
R161), alignment and coalescing (R163, R164, R167), and the heavy-hitter sketch (R170, R171). -/

namespace Sys2Proof.Machine

/-! ## References (R81, R152, R156) -/

/-- The entry of a port, read for a command (R86, R342). -/
def State.portFor (s : State) (j : Job) (env : SEnv) (a : Arch) (p : Nat) : State × Rd × Option Nat :=
  match portIndex env a p with
  | none => (s, .ok [], none)
  | some i =>
    let n := widthBytes (modeWidth a.mode p)
    match s.readOperand j.id j.pkt (j.portDesc p) (i * n) n with
    | (s, .ok bs) => (s, .ok bs, some (leNat bs))
    | (s, r) => (s, r, none)

/-- What a work item of a scatter gives: its references, and the error that aborted it, if one did (R115, R116). -/
structure ItemRefs where
  refs : List RowRef
  err : Option (Nat × ErrDetail) := none
  deriving DecidableEq, Repr

/-- A read of a port that gives no bytes: the work item waits, or is aborted (R116). -/
def Rd.aborts (r : Rd) (acc : List RowRef) : Pass ItemRefs :=
  match (r.pass : Pass Unit) with
  | .stop st d => .ok ⟨acc.reverse, some (st, d)⟩
  | _ => .wait

/-- The program of a work item run again from a state; `fuel` bounds the instructions (a program that never ends keeps its command
waiting). References are gathered newest first. -/
def State.regen (s : State) (j : Job) (env : SEnv) (prog : List (BitVec 32)) (a : Arch) (budget : Nat) (acc : List RowRef) (fuel : Nat) :
    State × Pass ItemRefs :=
  match fuel with
  | 0 => (s, .wait)
  | fuel + 1 =>
    let stop := fun (s : State) (d : Nat) => (s, Pass.ok (⟨acc.reverse, some (stProgram, { reason := d, value := a.bag })⟩ : ItemRefs))
    if 65536 ≤ budget then stop s 3
    else
      match decodeS (prog.getD a.pc.toNat 0) with
      | none => stop s 5
      | some (.ldx d p chk) =>
        (match s.portFor j env a p.val with
         | (s, .ok _, raw) => s.regen j env prog (ldxEff a d p.val chk raw).retire (if p.val = 0 then 0 else budget + 1) acc fuel
         | (s, r, _) => (s, r.aborts acc))
      | some (.ldw p) =>
        (match s.portFor j env a p.val with
         | (s, .ok _, raw) => s.regen j env prog (ldwEff a p.val raw).retire (if p.val = 0 then 0 else budget + 1) acc fuel
         | (s, r, _) => (s, r.aborts acc))
      | some (.run ra) =>
        if runOk env a = false then stop s 7
        else if a.entry < a.entryEnd then
          (match s.portFor j env a 0 with
           | (s, .ok _, raw) =>
             (match if modeWeighted a.mode then s.portFor j env { a with cur := some a.entry } 1 else (s, Rd.ok [], some 0) with
              | (s, .ok _, wraw) =>
                let (a', r) := runOne env a ra (raw.getD 0) (wraw.getD (allOnes (widthBytes (modeWidth a.mode 1))))
                s.regen j env prog a' 0 (r :: acc) fuel
              | (s, r, _) => (s, r.aborts acc))
           | (s, r, _) => (s, r.aborts acc))
        else s.regen j env prog (runEnd a) 0 acc fuel
      | some i =>
        match plainEff env i a with
        | .error d => stop s d
        | .retire a' items ended =>
          let refs := items.filterMap fun q => match q with
            | .ref r => some r
            | .bagEnd _ _ => none
          let acc := refs.reverse ++ acc
          if ended then (s, .ok ⟨acc.reverse, none⟩) else s.regen j env prog a' (if resetsBudget i then 0 else budget + 1) acc fuel

/-- The references of each work item of a scatter; one that an error aborts does not keep the others from running (R115, R116, R118,
R152). -/
def State.regenItems (s : State) (j : Job) (im : Image) (items : List (Nat × Nat × Option (Nat × Nat))) (acc : List ItemRefs) :
    State × Pass (List ItemRefs) :=
  match items with
  | [] => (s, .ok acc)
  | (first, bags, piece) :: rest =>
    let env := j.env (2 ^ im.fanLog2) im.portUse.toNat ⟨j.id, 0, 1⟩
    let a := startArch env j.id (pktHandle j.pkt) 1 im.mode0 j.bag.sc first bags piece
    match s.regen j env im.code a 0 [] (2 ^ 64) with
    | (s, .ok x) => s.regenItems j im rest (acc ++ [x])
    | (s, .stop st d) => (s, .stop st d)
    | (s, .wait) => (s, .wait)

/-- Bag lengths in entries (R344). -/
def Job.bagLens (j : Job) : List Nat := (List.range (j.offs.length - 1)).map fun b => j.offs.getD (b + 1) 0 - j.offs.getD b 0

/-- Every reference of a scatter, work item by work item. -/
def State.regenAll (s : State) (j : Job) : State × Pass (List ItemRefs) :=
  match s.image? (pktHandle j.pkt) with
  | some im => s.regenItems j im (cutBags j.id j.bagLens j.fan 0 0 0) []
  | none => (s, .stop stAborted {})

/-! ## Bags and gradients (R159 to R161) -/

/-- A bag of a scatter: its kept positions and count, its gradient bytes, its saved positions. -/
structure GradBag where
  bag : Nat
  refs : List RowRef
  kept : List Nat
  grad : List Byte
  posns : List Nat
  deriving DecidableEq, Repr

/-- Whether a reference is kept (R129). -/
def State.isKept (s : State) (r : RowRef) : Bool :=
  match r.table.bind s.table? with
  | some t => r.valid && decide (r.row < t.desc.rows)
  | none => false

/-- The gradient and the saved positions of bags, read in turn (R141, R159, R346). -/
def State.gradBags (s : State) (j : Job) (refs : List RowRef) (bs : List Nat) (acc : List GradBag) : State × Pass (List GradBag) :=
  match bs with
  | [] => (s, .ok acc)
  | b :: rest =>
    let n := s.bagEntries j
    let w := outWidth (opFmt j.pkt)
    let mode := opMode j.pkt
    let mine := refs.filter (·.bag == b)
    match s.readOperand j.id j.pkt (pktD2 j.pkt) (areaAt 0 j.bag.vstride (w * n) b) (w * n) with
    | (s, .ok g) =>
      (match if mode = 2 ∨ mode = 4 then s.readOperand j.id j.pkt j.bag.pos (areaAt 0 j.bag.pstride (4 * n) b) (4 * n) else (s, Rd.ok []) with
       | (s, .ok ps) =>
         let x : GradBag := { bag := b, refs := mine, kept := (mine.filter s.isKept).map (·.pos), grad := g
                              posns := if ps = [] then [] else (List.range n).map fun i => field ps (4 * i) 4 }
         s.gradBags j refs rest (acc ++ [x])
       | (s, r) => (s, r.pass))
    | (s, r) => (s, r.pass)

/-- An element of the gradient area (R159). -/
def gradAt (f : Nat) (g : List Byte) (i : Nat) : FVal :=
  let w := outWidth f
  let c := field g (w * i) w
  if f = 0 then f32Value (BitVec.ofNat 32 c) else if f = 1 then b16Value c else h16Value c

/-- The contributions of a kept reference to element `i` (R159). -/
def contribsAt (p : PoolSpec) (f : Nat) (x : GradBag) (r : RowRef) (i : Nat) : List FVal :=
  let g := gradAt f x.grad
  let n := x.kept.length
  if p.mode = 0 then [g i]
  else if p.mode = 1 then [(g i).div (.fin (.ofNat n))]
  else if p.mode = 6 then [rsqrtOf (g i) n]
  else if p.mode = 3 then [(g i).mul (f32Value r.weight)]
  else if p.mode = 5 then [g (r.pos * p.elems + i)]
  else
    let k := if p.mode = 2 then 1 else p.k
    (List.range k).filterMap fun j => if x.posns.getD (j * p.elems + i) 0xFFFFFFFF = r.pos then some (g (j * p.elems + i)) else none

/-- The tables against which the position mismatches of a bag count (R160). -/
def GradBag.mismatches (x : GradBag) (t0 : Nat) : List Nat :=
  (x.posns.filter fun q => q != 0xFFFFFFFF && !x.kept.contains q).map fun q =>
    match x.refs.find? fun r => r.pos == q && r.table.isSome with
    | some r => r.table.getD t0
    | none => t0

/-- The larger of two magnitudes as fractions. -/
def maxMag (a b : Nat × Nat) : Nat × Nat := if a.1 * b.2 < b.1 * a.2 then b else a

/-- The magnitude of a contribution: 0 when it is not finite (R164). -/
def magOf (v : FVal) : Nat × Nat :=
  match v with
  | .fin x => (x.num, x.den)
  | _ => (0, 1)

/-- What pass 1 finds for a table (R156): K, and the largest finite magnitude. -/
def State.passStat (s : State) (p : PoolSpec) (f : Nat) (bags : List GradBag) (t : Nat) : PassStat :=
  let each := fun (x : GradBag) => x.refs.filter fun r => r.table == some t && s.isKept r
  let k := (bags.map fun x => (each x).length).foldl (· + ·) 0
  let m := (bags.map fun x => (each x).map fun r => (List.range p.elems).map fun i => (contribsAt p f x r i).map magOf).flatten.flatten.flatten
  let top := m.foldl maxMag (0, 1)
  { table := t, k := k, magNum := top.1, magDen := top.2 }

/-! ## The window exponent (R164) -/

def clampT (t : Int) : Int := max (-100) (min 127 t)

/-- T of a GROUP table from the statistics of its members. -/
def groupT (l : List PassStat) : Int :=
  let top := (l.map fun x => (x.magNum, x.magDen)).foldl maxMag (0, 1)
  let k := (l.map (·.k)).foldl (· + ·) 0
  if top.1 = 0 then -100 else clampT (log2Frac top.1 top.2 + 1 + ((clog2 k - 24 : Nat) : Int))

/-! ## Alignment and coalescing (R163, R167) -/

/-- The aligned contributions of one or more kept references to one row: per element its sum, whether any reached it, and how many
truncated to zero. -/
structure RowSum where
  table : Nat
  row : Nat
  vals : List (Option Int)
  hit : List Bool
  trunc : List Nat
  occur : Nat
  clamp : Nat
  deriving DecidableEq, Repr

/-- A kept reference's own sum. -/
def rowSum (p : PoolSpec) (f : Nat) (t : Int) (x : GradBag) (r : RowRef) : RowSum :=
  let cols := (List.range p.elems).map fun i => (contribsAt p f x r i).map (alignX64 t)
  { table := r.table.getD 0, row := r.row, vals := cols.map fun c => sumAligned (c.map (·.1)), hit := cols.map fun c => !c.isEmpty
    trunc := cols.map fun c => (c.filter (·.2.2)).length, occur := 1
    clamp := (cols.map fun c => (c.filter (·.2.1)).length).foldl (· + ·) 0 }

/-- Two sums of one row. -/
def RowSum.plus (a b : RowSum) : RowSum :=
  { a with
    vals := (a.vals.zip b.vals).map fun e => stagePlus e.1 e.2
    hit := (a.hit.zip b.hit).map fun e => e.1 || e.2
    trunc := (a.trunc.zip b.trunc).map fun e => e.1 + e.2
    occur := a.occur + b.occur
    clamp := a.clamp + b.clamp }

/-- A sum joins those of its row (R167). -/
def joinSum (l : List RowSum) (x : RowSum) : List RowSum :=
  if l.any (fun y => y.table == x.table && y.row == x.row) then l.map fun y => if y.table = x.table ∧ y.row = x.row then y.plus x else y
  else l ++ [x]

/-- The staging adds of a row's sum: one for each 64-element segment that a contribution touched, or one of zeros; OCCUR goes with the
first (R167). -/
def RowSum.adds (x : RowSum) (heavy : Bool) : List StageAdd :=
  let segs := (List.range (ceilDiv x.vals.length 64)).filter fun g => ((x.hit.drop (64 * g)).take 64).any id
  let mk := fun (g : Nat) (first : Bool) =>
    ({ table := x.table, row := x.row, seg := g, vals := (x.vals.drop (64 * g)).take 64, occur := if first then (x.occur : Int) else 0
       trunc := ((((x.trunc.drop (64 * g)).take 64).foldl (· + ·) 0 : Nat) : Int), heavy := heavy } : StageAdd)
  match segs with
  | [] => [mk 0 true]
  | g :: rest => mk g true :: rest.map fun g => mk g false

/-- What a row's sum adds to its accumulator in quadrant `q`, segment by segment; its counts go with the first (R167, R171). -/
def RowSum.heavyAdds (x : RowSum) (q : Nat) : List StageAdd :=
  (List.range (ceilDiv x.vals.length 64)).map fun g =>
    { table := x.table, row := x.row, seg := g, quad := q, vals := (x.vals.drop (64 * g)).take 64, occur := if g = 0 then (x.occur : Int) else 0
      trunc := if g = 0 then ((x.trunc.foldl (· + ·) 0 : Nat) : Int) else 0, heavy := true }

/-- The staging adds of a work item: windows of 64 kept references outside heavy rows (R167). -/
def itemAdds (sums : List RowSum) : List StageAdd :=
  ((chunksOf 64 sums (sums.length + 1)).map fun w => ((w.foldl joinSum []).map fun x => x.adds false).flatten).flatten

/-! ## The heavy-hitter sketch (R170, R171) -/

/-- The four counters of a row in a quadrant's sketch (R170). -/
def sketchKeys (q table row : Nat) : List Nat :=
  [0, 1, 2, 3].map fun j => 8192 * q + 2048 * j + pmHash table (Nat.xor row ((j + 1) * 2 ^ 52)) % 2048

def HeavyState.least (x : HeavyState) (q table row : Nat) : Nat := ((sketchKeys q table row).map (sget 0 x.sketch)).foldl min 65535

/-- A kept reference of quadrant `q` is counted; answers whether a candidate found the list full (R170). -/
def HeavyState.feed (x : HeavyState) (q table row thr : Nat) : HeavyState × Bool :=
  let y := { x with sketch := (sketchKeys q table row).foldl (fun m k => sput 0 m k (min 65535 (sget 0 m k + 1))) x.sketch }
  if y.least q table row < thr ∨ y.cands.contains (q, table, row) = true then (y, false)
  else if (y.cands.filter (·.1 == q)).length < 64 then ({ y with cands := y.cands ++ [(q, table, row)] }, false)
  else (y, true)

/-- The score of a candidate row (R171). -/
def HeavyState.score (x : HeavyState) (e : Nat × Nat) : Nat :=
  ([0, 1, 2, 3].map fun q => x.least q e.1 e.2).foldl (· + ·) 0

/-- Insert by falling score, then by table and row (R171). -/
def HeavyState.insert (x : HeavyState) (e : Nat × Nat) (l : List (Nat × Nat)) : List (Nat × Nat) :=
  match l with
  | [] => [e]
  | y :: rest =>
    let a := x.score e
    let b := x.score y
    if b < a ∨ (a = b ∧ (e.1 < y.1 ∨ (e.1 = y.1 ∧ e.2 < y.2))) then e :: y :: rest else y :: x.insert e rest

/-- The candidates in the order in which they are chosen (R171). -/
def HeavyState.ranked (x : HeavyState) : List (Nat × Nat) := ((x.cands.map (·.2)).dedup).foldl (fun l e => x.insert e l) []

end Sys2Proof.Machine
end

