-- ==== Sys2Proof/Machine/Scatter.lean ====
section
/-! DEFINITION. SCATTER_GRAD: pass 1 and the step group (R156, R157), pass 2 (R159 to R171), staging adds and rollback (R168, R175,
R176), the flush of heavy rows (R171), and the end of a scatter (R177). -/

namespace Sys2Proof.Machine

/-- The optimiser descriptor of a table. -/
def State.optOf (s : State) (t : Nat) : OptDesc := ((s.table? t).bind (·.opt)).getD {}

/-- A scatter's own state changed. -/
def State.updScatter (s : State) (c : CmdId) (f : ScatterJob → ScatterJob) : State :=
  s.updJob c fun j => { j with scatter := j.scatter.map f }

/-- The heavy-row state of a scatter: its group's, or its own (R170). -/
def State.heavyOf (s : State) (x : ScatterJob) : HeavyState := if x.group then ((s.tset? x.tset).map (·.heavy)).getD {} else x.heavy
def State.setHeavy (s : State) (c : CmdId) (x : ScatterJob) (y : HeavyState) : State :=
  if x.group then s.updTset x.tset fun t => { t with heavy := y } else s.updScatter c fun x => { x with heavy := y }

/-! ## Pass 1 (R156) -/

/-- The kept references of a work item are counted in the sketch of its quadrant, which the dealing chooses: a free value (R170). -/
def State.feedItem (s : State) (c : CmdId) (x : ScatterJob) (refs : List RowRef) : State :=
  let q := s.freeNat % 4
  let (y, lost) := (refs.filter s.isKept).foldl (fun (a : HeavyState × List Nat) r =>
    let t := r.table.getD 0
    let (y, full) := a.1.feed q t r.row (s.optOf t).heavyThr
    (y, if full then a.2 ++ [t] else a.2)) (s.heavyOf x, [])
  lost.foldl (fun s t => s.countTable t 18 1) (s.took.setHeavy c x y)

/-- What pass 1 counts: drops and kept references (R129, R153), mismatches (R160). -/
def State.countPass1 (s : State) (c : CmdId) (refs : List RowRef) (wrong : List Nat) : State :=
  let s := refs.foldl (fun s r =>
    if s.isKept r then
      let s := s.countCtx c.ctx 9 1
      (match r.table with
       | some t => s.countTable t 1 1
       | none => s)
    else
      let s := s.countCtx c.ctx 6 1
      match r.table with
      | some t => s.countTable t 0 1
      | none => s) s
  wrong.foldl (fun s t => s.countTable t 9 1) s

/-- What a pass of a scatter reads: the references of its work items, its bags, and the errors that it met, in the order of the work items. -/
structure ScatterData where
  items : List (List RowRef)
  bags : List GradBag
  errs : List (Nat × ErrDetail) := []
  deriving DecidableEq, Repr

/-- The references and bags of a scatter, read in full: an error aborts its work item, and the others run to their ends (R115, R116). The
gradients are read when no work item was aborted. -/
def State.scatterData (s : State) (j : Job) : State × Pass ScatterData :=
  match s.regenAll j with
  | (s, .ok items) =>
    let refs := items.map (·.refs)
    let errs := items.filterMap (·.err)
    if errs ≠ [] then (s, .ok { items := refs, bags := [], errs := errs })
    else
      (match s.gradBags j refs.flatten (List.range (pktCount j.pkt)) [] with
       | (s, .ok bags) => (s, .ok { items := refs, bags := bags })
       | (s, .stop st d) => (s, .ok { items := refs, bags := [], errs := [(st, d)] })
       | (s, .wait) => (s, .wait))
  | (s, .stop st d) => (s, .stop st d)
  | (s, .wait) => (s, .wait)

/-- A scatter fails with every error that it met (R177). -/
def State.failAll (s : State) (c : CmdId) (errs : List (Nat × ErrDetail)) : State :=
  match errs with
  | [] => s
  | e :: rest => (rest.foldl (fun s e => s.cause c e.1 e.2) (s.cause c e.1 e.2)).fail c e.1 e.2

/-! ## Heavy rows are chosen (R171) -/

/-- Heavy rows are chosen in rank order, and each takes its slot. One that can take none is passed over: because MAX_TOUCHED slots are taken
(R171), or because the access to its slot is refused, cannot be replayed or finds lost data (DESIGN CHOICE: log entry 109); lost data marks
the step failed (R479). None while a slot waits for a fault. -/
def State.choose (s : State) (c : CmdId) (h : Nat) (es acc : List (Nat × Nat)) : State × Option (List (Nat × Nat)) :=
  match es with
  | [] => (s, some acc)
  | e :: rest =>
    if 32 ≤ acc.length then (s, some acc)
    else
      match s.table? e.1 with
      | none => s.choose c h rest acc
      | some t =>
        match s.takeSlot c (s.whoJob c) t (t.opt.getD {}) e.2 with
        | (s, .slot _) => s.choose c h rest (acc ++ [e])
        | (s, .stop .wait) => (s, none)
        | (s, .stop (.bad _)) => (s.markFailed h c).choose c h rest acc
        | (s, _) => s.choose c h rest acc

/-- The heavy rows of a scatter's group, or of a FIXED scatter, are chosen once its sketches are whole; none while a slot waits for a fault
(R171). -/
def State.chooseHeavy (s : State) (c : CmdId) (x : ScatterJob) : State × Option (List (Nat × Nat)) :=
  let y := s.heavyOf x
  if y.chosen then (s, some y.rows)
  else
    match s.choose c x.tset y.ranked [] with
    | (s, some rows) => (s.setHeavy c x { y with chosen := true, rows := rows }, some rows)
    | r => r

/-- A group closes, and its heavy rows are chosen (R157, R171). -/
def State.closeGroup (s : State) (h : Nat) : State :=
  let t := (s.tset? h).getD {}
  let s := s.updTset h fun t => { t with groupClosed := true }
  match t.groupClosed, t.members.findSome? fun c => ((s.job? c).bind (·.scatter)).map fun x => (c, x) with
  | false, some (c, x) => (s.chooseHeavy c x).1
  | _, _ => s

/-- Pass 1 ends: its counts, its statistics, its sketch. A member with CLOSE closes its group; a FIXED scatter's heavy rows are chosen (R156,
R157, R170, R171). Errors end the command once every work item has run (R115, R116). -/
def State.endPass1 (s : State) (j : Job) (x : ScatterJob) (d : ScatterData) : State :=
  let c := j.id
  let refs := d.items.flatten
  let p := s.poolSpec j
  let wrong := (d.bags.map fun b => b.mismatches (pktObj j.pkt)).flatten
  let stats := j.tables.map fun t => s.passStat p (opFmt j.pkt) d.bags t
  let s := s.countPass1 c refs wrong
  let s := d.items.foldl (fun s it => match (s.job? c).bind (·.scatter) with
    | some x => s.feedItem c x it
    | none => s) s
  let s := s.updJob c fun j =>
    { j with
      phase := .running, drops := (refs.filter fun r => !s.isKept r).length, mismatch := wrong.length
      empty := (d.bags.filter fun b => b.kept.isEmpty).length
      scatter := j.scatter.map fun x => { x with stats := stats, pass1 := true, next := false } }
  if d.errs ≠ [] then s.failAll c d.errs
  else if x.group then (if flClose j.pkt then s.closeGroup x.tset else s)
  else
    match (s.job? c).bind (·.scatter) with
    | some x => (s.chooseHeavy c x).1
    | none => s

/-- The T that a FIXED table of the command already has in the step, when it is another one (R165). -/
def State.fixedConflict (s : State) (j : Job) : Bool :=
  (j.slots.zip j.bag.fixedT).any fun e =>
    match e.1.bind s.table? with
    | some t => ((t.opt.map (·.winFixed)).getD false) && t.winT != none && t.winT != some e.2
    | none => false

/-- The FIXED tables of a command take its T for the step (R165). -/
def State.takeFixedT (s : State) (j : Job) : State :=
  (j.slots.zip j.bag.fixedT).foldl (fun s e =>
    match e.1 with
    | some t => if (s.optOf t).winFixed then s.updTable t fun x => { x with winT := some e.2 } else s
    | none => s) s

/-- A scatter starts: it waits for the next step if it must, and runs pass 1 (R155 to R157, R165). -/
def State.startScatter (s : State) (j : Job) : State :=
  let c := j.id
  match j.scatter with
  | none => s
  | some x =>
    let st := ((s.tset? x.tset).map (·.st)).getD .torn
    if x.pass1 then s
    else if st = .torn then s.fail c stAborted
    else if x.next && st != .opened then (s.notStarted c .waiting)
    else if s.fixedConflict j then (s.countSet x.tset 10 1).complete c stStepClosed { object := x.tset }
    else
      match s.scatterData j with
      | (s, .wait) => s.await c
      | (s, .stop st d) => s.fail c st d
      | (s, .ok d) => (s.takeFixedT j).endPass1 j x d

/-- SCATTER_GRAD: pass 1 over the regenerated references (R156). -/
def execScatterGrad (c : CmdId) (s : State) : Out := cmdRow s c opScatter fun j s => s.startScatter j

/-! ## Pass 2 (R157 to R171) -/

/-- The members of a group that are in progress. -/
def State.groupJobs (s : State) (h : Nat) : List Job :=
  s.jobs.filter fun k => match k.scatter with
    | some x => x.group && x.tset == h
    | none => false

/-- Whether a member's pass 1, or pass 2, has ended. -/
def Job.pass1Ended (k : Job) : Bool := k.phase == .finishing || ((k.scatter.map (·.pass1)).getD true)
def Job.pass2Ended (k : Job) : Bool :=
  k.phase == .finishing || match k.scatter with
    | some x => x.pass2 && x.adds.isEmpty
    | none => true

/-- Whether pass 2 of a scatter may start (R157). -/
def State.mayPass2 (s : State) (x : ScatterJob) : Bool :=
  x.pass1 && !x.pass2 && !x.rolling &&
    (!x.group || (((s.tset? x.tset).map (·.groupClosed)).getD false && (s.groupJobs x.tset).all (·.pass1Ended)))

/-- The window exponent of each GROUP table of a set is found from its members (R164). -/
def State.findT (s : State) (h : Nat) : State :=
  let stats := ((s.groupJobs h).filterMap (·.scatter)).map (·.stats) |>.flatten
  { s with tables := s.tables.map fun (e : Nat × Table) =>
    if e.2.tset = h ∧ e.2.winT = none ∧ ((e.2.opt.map (·.winFixed)).getD true) = false ∧ stats.any (fun x => x.table == e.1) = true then
      (e.1, { e.2 with winT := some (groupT (stats.filter fun x => x.table == e.1)) })
    else e }

/-- The sums of a work item's kept references, with the T of their tables. -/
def State.itemSums (s : State) (j : Job) (bags : List GradBag) (refs : List RowRef) : List RowSum :=
  let p := s.poolSpec j
  (refs.filter s.isKept).filterMap fun r =>
    (bags.find? (·.bag == r.bag)).map fun b =>
      rowSum p (opFmt j.pkt) ((((r.table.bind s.table?).bind (·.winT))).getD (-100)) b r

/-- The adds of a scatter: through coalescing, and into heavy-row accumulators; the quadrant of an item is free (R167, R171). -/
def State.passAdds (s : State) (j : Job) (heavy : List (Nat × Nat)) (bags : List GradBag) (items : List (List RowRef)) :
    List StageAdd × List StageAdd × List RowSum :=
  let sums := items.map fun it => s.itemSums j bags it
  let isHeavy := fun (x : RowSum) => heavy.contains (x.table, x.row)
  let adds := (sums.map fun l => itemAdds (l.filter fun x => !isHeavy x)).flatten
  let hs := (sums.zipIdx.map fun (l, i) => ((l.filter isHeavy).map fun x => x.heavyAdds (Config.free (s.fresh + i) % 4)).flatten).flatten
  (adds, hs, sums.flatten)

/-- Pass 2 of a scatter: its contributions leave for staging (R156, R163, R167). The references count in K of the step for good: a rollback
takes none of them back (R165; DESIGN CHOICE: log entry 110). -/
def State.runPass2 (s : State) (j : Job) (x : ScatterJob) : State :=
  let c := j.id
  match s.chooseHeavy c x with
  | (s, none) => s
  | (s, some rows) =>
    match s.scatterData j with
    | (s, .wait) => s
    | (s, .stop st d) => s.fail c st d
    | (s, .ok d) =>
      if d.errs ≠ [] then s.failAll c d.errs else
      let items := d.items
      let (adds, heavy, sums) := s.passAdds j rows d.bags items
      let ts := j.slots.map fun t => ((t.bind s.table?).bind (·.winT)).getD (-128)
      let s := { s with fresh := s.fresh + items.length }
      let s := sums.foldl (fun s r => s.countTable r.table 8 (r.trunc.foldl (· + ·) 0)) s
      let s := j.tables.foldl (fun s t => s.updTable t fun e => { e with stepK := e.stepK + (sums.filter fun r => r.table == t).length }) s
      (s.closeWait 4 (agentCmd c) false none none).updJob c fun j =>
        { j with
          trunc := (sums.map fun r => r.trunc.foldl (· + ·) 0).foldl (· + ·) 0
          clamp := (sums.map (·.clamp)).foldl (· + ·) 0
          scatter := j.scatter.map fun x => { x with pass2 := true, adds := adds, heavyAdds := heavy, usedT := ts } }

/-! ## The end of a scatter (R177) -/

/-- A scatter whose contributions are all in staging ends (R29, R131, R160, R177, R356). -/
def State.checkScatter (s : State) (c : CmdId) : State :=
  match s.job? c with
  | none => s
  | some j =>
    match j.scatter with
    | none => s
    | some x =>
      if j.phase = .running ∧ x.pass2 = true ∧ x.rolling = false ∧ x.adds = [] ∧ x.heavyAdds = [] then
        let t := leNat (x.usedT.map fun (v : Int) => BitVec.ofInt 8 v)
        let s := s.updJob c fun j => { j with words := [t, j.drops, j.trunc, j.clamp, j.mismatch] }
        let s := if j.drops = 0 ∧ j.empty = 0 ∧ j.mismatch = 0 then s else s.cause c stDrops
        let s := if j.clamp = 0 then s else s.cause c stClamped
        s.finish c
      else s

/-- A scatter's pass 2 that may not start yet waits for its group (R157, R452). -/
def State.groupWait (s : State) (c : CmdId) (x : ScatterJob) : State :=
  if x.group && x.pass1 && !x.pass2 && !s.waiting 4 (agentCmd c) then
    s.openWait 4 (agentCmd c) (agentGroup x.tset (s.epochOf x.tset)) x.tset 1
  else s

/-- PASS2_START: pass 2 of a scatter, once its group has closed and every pass 1 has ended, or at once in FIXED mode (R157). -/
def execPass2Start (c : CmdId) (s : State) : Out :=
  actS s fun s =>
    match s.job? c with
    | none => s
    | some j =>
      match j.scatter with
      | none => s
      | some x =>
        if j.phase = .running ∧ s.faultWait (.job c) = false then
          (if s.mayPass2 x then ((if x.group then s.findT x.tset else s).runPass2 j x).checkScatter c else s.groupWait c x)
        else s

/-! ## Staging adds (R168, R175, R176) -/

/-- The scatters that share the heavy-row accumulators of a command: its group, or itself (R171). -/
def State.heavyShare (s : State) (c : CmdId) (x : ScatterJob) : List Job :=
  if x.group then s.groupJobs x.tset else s.jobs.filter fun k => decide (k.id = c)

/-- Whether two adds go to one segment of one accumulator. -/
def StageAdd.sameSeg (a b : StageAdd) : Bool := a.table == b.table && a.row == b.row && a.quad == b.quad && a.seg == b.seg

/-- A heavy-row accumulator takes an add (R171). -/
def heavyPlus (l : List StageAdd) (a : StageAdd) : List StageAdd :=
  if l.any a.sameSeg then
    l.map fun b => if a.sameSeg b then
      { b with vals := (b.vals.zip a.vals).map (fun e => stagePlus e.1 e.2), occur := b.occur + a.occur, trunc := b.trunc + a.trunc } else b
  else l ++ [a]

/-- The accumulators of the heavy rows of a command, segment by segment, of each quadrant (R171). -/
def State.accumulators (s : State) (c : CmdId) (x : ScatterJob) : List StageAdd :=
  (((s.heavyShare c x).filterMap (·.scatter)).map (·.heavyAdds)).flatten.foldl heavyPlus []

/-- One staging add of a command has been made. -/
def ScatterJob.madeOne (x : ScatterJob) (a : StageAdd) : ScatterJob :=
  { x with adds := x.adds.drop 1, done := if x.rolling then x.done else a :: x.done }

/-- A segment of an accumulator is in staging: each scatter has contributed its own part of it (R171, R176). -/
def ScatterJob.flushed (x : ScatterJob) (a : StageAdd) : ScatterJob :=
  { x with heavyAdds := x.heavyAdds.filter fun b => !a.sameSeg b, done := x.heavyAdds.filter a.sameSeg ++ x.done }

/-- A flush's add has been made, or no scatter that has not failed has a part of it. -/
def State.madeFlush (s : State) (c : CmdId) (x : ScatterJob) (a : StageAdd) : State :=
  let share := s.heavyShare c x
  let s := share.foldl (fun s k => s.updScatter k.id (·.flushed a)) (s.updScatter c fun x => { x with adds := x.adds.drop 1 })
  share.foldl (fun s k => s.checkScatter k.id) s

/-- A staging add of a command (R168, R175, R176, R479). Of a flush, the sum of what the scatters that have not failed added; a refused one
ends the command that carries it, whose own part is undone, and the others' parts wait for a further flush. -/
def State.stageOneAdd (s : State) (c : CmdId) (x : ScatterJob) (a : StageAdd) : State :=
  let flush := a.heavy && !x.rolling
  match s.table? a.table, if flush then (s.accumulators c x).find? a.sameSeg else some a with
  | none, _ => s.loseAdds c x.tset
  | some _, none => s.madeFlush c x a
  | some t, some b =>
    match s.addToSlot c (s.whoJob c) t (t.opt.getD {}) b with
    | (s, .slot _) => if flush then s.madeFlush c x a else (s.updScatter c (·.madeOne a)).checkScatter c
    | (s, .full) =>
      if x.rolling then s.loseAdds c x.tset
      else s.fail c stStaging { object := a.table, value := t.slots, limit := (t.opt.getD {}).maxTouched }
    | (s, .stop .wait) => s
    | (s, .stop (.stop st d)) => if x.rolling then s.loseAdds c x.tset else s.fail c st d
    | (s, .stop _) => if x.rolling then s.loseAdds c x.tset else (s.loseAdds c x.tset).fail c stAborted { object := a.table, value := a.row }

/-- STAGING_ADD: the oldest staging add of a command is made (R168). -/
def execStagingAdd (c : CmdId) (s : State) : Out :=
  actSWhen s (!s.faultWait (.job c)) fun s =>
    match (s.job? c).bind (·.scatter) with
    | some x =>
      (match x.adds with
       | a :: _ => s.stageOneAdd c x a
       | [] => s)
    | none => s

/-! ## The flush of heavy rows (R171) -/

/-- HEAVY_ROW_FLUSH: after the last pass 2 the accumulators are flushed as staging adds, which the command named carries (R171). -/
def execHeavyRowFlush (c : CmdId) (s : State) : Out :=
  actS s fun s =>
    match (s.job? c).bind (·.scatter) with
    | none => s
    | some x =>
      let share := s.heavyShare c x
      let acc := s.accumulators c x
      if x.pass2 && !x.rolling && decide (acc ≠ []) && share.all (·.pass2Ended) then s.updScatter c fun x => { x with adds := x.adds ++ acc }
      else s

end Sys2Proof.Machine
end

