-- ==== Sys2Proof/Machine/Epochs.lean ====
section
/-! DEFINITION. The states of a table set (R187, R188): APPLY_EPOCH and RESTORE as they are accepted (R189, R190, R213), the entry into
DRAINING, WRITING and COMMITTING (R191 to R196), the failed step (R195), SNAPSHOT (R212), promotion lists (R354), and the checkpoint
staging service (R429). -/

namespace Sys2Proof.Machine

/-! ## Acceptance (R189, R190) -/

/-- μ of an APPLY_EPOCH: its immediate, or 1.0 (R343). -/
def muOf (p : List Byte) : F32 :=
  match desc (pktD0 p) with
  | .imm v => BitVec.ofNat 32 v
  | _ => f32One

/-- A set goes from OPEN to PENDING under a command, and its group closes (R188, R189); the wait for R191 opens (R452). -/
def State.enterPending (s : State) (c : CmdId) (h : Nat) (a : ApplyJob) : State :=
  let e := s.epochOf h
  (((s.closeGroup h).updTset h fun t => { t with st := if t.st = TsState.torn then t.st else .pending, apply := some a }).updJob c fun j =>
    { j with phase := .running }).openWait 4 (agentCmd c) (agentGroup h e) h 3

/-- APPLY_EPOCH is accepted in OPEN, where the expected epoch is compared and the step closed, or waits for it (R189, R190, R215). -/
def State.tryApply (s : State) (j : Job) : State :=
  let c := j.id
  let h := pktObj j.pkt
  match s.tset? h with
  | none => s.fail c stAborted
  | some t =>
    if t.st = .torn then s.fail c stAborted
    else if t.st ≠ .opened ∨ t.apply.isSome = true then s.await c
    else if pktCount j.pkt ≠ t.epoch then s.complete c stEpochMismatch { value := pktCount j.pkt, limit := t.epoch }
    else s.enterPending c h { cmd := c, isRestore := false, mu := muOf j.pkt }

/-- APPLY_EPOCH: waits for OPEN, compares the expected epoch, and closes the step (R189, R190, R215). -/
def execApplyEpoch (c : CmdId) (s : State) : Out := cmdRow s c opApply fun j s => s.tryApply j

/-- The image address of a SNAPSHOT or RESTORE (R350). -/
def imageVa (p : List Byte) : Nat :=
  match desc (pktD0 p) with
  | .ref va => va
  | _ => 0

/-- RESTORE is accepted in OPEN or TORN: its image is checked, and the set goes to PENDING, or stays TORN, for the window that writes it
(R188, R213, R351). -/
def State.tryRestore (s : State) (j : Job) : State :=
  let c := j.id
  let h := pktObj j.pkt
  let img := imageVa j.pkt
  match s.tset? h with
  | none => s.fail c stAborted
  | some t =>
    if (t.st ≠ .opened ∧ t.st ≠ .torn) ∨ t.apply.isSome = true then s.await c
    else
      match checkSections h c (s.whoJob c) img (s.sections h) 0 [] s with
      | (s, .ok _) => s.enterPending c h { cmd := c, isRestore := true, image := img }
      | (s, .stop st d) => s.complete c st d
      | (s, .wait) => s.await c

/-- RESTORE: waits for OPEN or TORN, and begins the window that writes its image (R188, R213, R351). -/
def execRestore (c : CmdId) (s : State) : Out := cmdRow s c opRestore fun j s => s.tryRestore j

/-- The commands that wait for a set to enter OPEN are accepted as it does, in the order in which they came (R189). -/
def State.acceptWaiting (s : State) (h : Nat) : State :=
  (s.jobs.filter fun j => j.phase == .waiting && pktObj j.pkt == h && !s.faultWait (.job j.id)).foldl (fun s j =>
    if pktOpcode j.pkt = opApply then s.tryApply j else if pktOpcode j.pkt = opRestore then s.tryRestore j else s) s

/-- Scatters that waited for the next step join it (R155). -/
def State.joinNext (s : State) (h : Nat) : State :=
  { s with jobs := s.jobs.map fun (j : Job) => { j with scatter := j.scatter.map fun x => if x.tset = h then { x with next := false } else x } }

/-! ## Leaving PENDING (R191, R195) -/

/-- The scatters of a set. -/
def State.scatters (s : State) (h : Nat) : List Job :=
  s.jobs.filter fun k => pktOpcode k.pkt == opScatter &&
    match k.scatter with
    | some x => x.tset == h
    | none => k.parsed && s.setOf0 k == h

/-- A scatter that has nothing left to do in staging. -/
def Job.staged (k : Job) : Bool :=
  match k.scatter with
  | some x => x.adds.isEmpty && x.heavyAdds.isEmpty
  | none => true

/-- The conditions of R191 for a set under a command. -/
def State.mayDrain (s : State) (h : Nat) (c : CmdId) : Bool :=
  let order := ((s.job? c).map (·.order)).getD 0
  (s.groupJobs h).all (fun k => k.pass2Ended && k.staged) &&
    (s.scatters h).all (fun k => !(k.id.ctx == c.ctx && k.id.queue == c.queue && decide (k.order < order))) &&
    (s.scatters h).all (fun k => match k.scatter with
      | some x => x.group || x.next
      | none => true) &&
    (s.reading h ++ s.dueReaders h).all fun k => pktOpcode k.pkt != opSnapshot

/-- The command of a window completes with its counts, in form A (R196, R356). -/
def State.endWindow (s : State) (h : Nat) (a : ApplyJob) : State :=
  let t := (s.tset? h).getD {}
  let n := if a.isRestore then a.discarded else if a.lost then a.written else a.touched
  let s := s.updJob a.cmd fun j =>
    { j with words := [n, sat16 a.nonfinite + sat16 a.widened * 2 ^ 16, sat16 a.widenRefused, t.windowNs, t.epoch] }
  let s := s.closeWait 4 (agentCmd a.cmd) false none none
  let s := s.closeWait 1 (agentCmd a.cmd) false (some a.lastReader) none
  (s.closeWait 3 (agentCmd a.cmd) false none none).finish a.cmd

/-- A set goes back to OPEN, or stays TORN, with a new empty step and no commit (R188, R195). The next step is marked failed when a
directory clear was skipped (R480). Nothing changes while the record's write waits. -/
def State.backToOpen (s : State) (h : Nat) (a : ApplyJob) (seq : Nat) (clearFailed : Bool) : State :=
  let t := (s.tset? h).getD {}
  let new := { t with st := if t.st = TsState.torn then t.st else .opened, failed := false, apply := none, seq := seq
                      clearEpoch := if clearFailed then t.clearEpoch else t.epoch }
  match s.putRecord h a.cmd new with
  | (s, .wait) => s
  | (s, r) =>
    let s := match r with
      | .stop st d => s.cause a.cmd st { object := 0xFFFF, value := d.value }
      | _ => s
    let s := (((s.setTset h new).emptyStep h).joinNext h).endWindow h a
    let s := if clearFailed then s.markFailed h a.cmd else s
    if new.st = .opened then s.acceptWaiting h else s

/-- The directories of a set cleared, as one piece of work (R174). -/
def clearWork (h : Nat) (c : CmdId) (epoch : Nat) : Work Unit := fun s =>
  match s.clearDirs c (whoApply h c) (s.tablesOf h) epoch with
  | (s, .ok _) => (s, .ok ())
  | (s, r) => (s, r.pass)

/-- Whether every directory of a set has been cleared: cleared, skipped for a status, or waiting (R174, R195, R480). -/
def State.clearAll (s : State) (h : Nat) (c : CmdId) (epoch : Nat) : State × Option Bool :=
  match (clearWork h c epoch).whole s with
  | (s, .ok _) => (s, some true)
  | (s, .stop st d) => (s.cause c st { object := 0xFFFF, value := d.value }, some false)
  | (s, .wait) => (s, none)

/-- A failed step ends: its directories are cleared, its mark too, and the command completes with ABORTED_FAULT (R195). The set stays as it
is while a fault is served. -/
def State.failStep (s : State) (h : Nat) (a : ApplyJob) (seq : Nat) : State :=
  match s.clearAll h a.cmd (s.epochOf h) with
  | (s, none) => s
  | (s, some ok) => (s.cause a.cmd stAborted).backToOpen h a seq (!ok)

/-- The apply window begins: DRAINING (R187, R192, R452). -/
def State.startWindow (s : State) (h : Nat) (a : ApplyJob) : State :=
  let e := s.epochOf h
  let g := agentCmd a.cmd
  let s := s.closeWait 4 g false none none
  let s := s.updTset h fun t => { t with st := .draining, apply := some { a with start := s.now .core } }
  (s.openWait 1 g 0 h e).openWait 3 g 0 h (e + 1)

/-- ENTER_DRAINING: a PENDING set enters DRAINING once every condition of R191 holds, or goes back to OPEN when its step is marked failed
(R188, R195). A RESTORE discards the step, its mark with it. -/
def execEnterDraining (tset : Nat) (s : State) : Out :=
  actSWhen s (!s.faultWait (.apply tset)) fun s =>
    match s.tset? tset with
    | none => s
    | some t =>
      match t.apply with
      | none => s
      | some a =>
        if t.st = .pending ∧ s.mayDrain tset a.cmd = true then
          (if t.failed ∧ a.isRestore = false then s.failStep tset a t.seq else s.startWindow tset a)
        else s

/-! ## WRITING (R192, R194, R209) -/

/-- The slots in use of a bucket of the directory, in the step of an epoch (R174). -/
def usedSlots (b : List Byte) (epoch : Nat) : List Nat :=
  ([0, 1, 2, 3].filter fun k => field b (16 * k + 8) 4 == epoch).map fun k => field b (16 * k + 12) 4

/-- The touched slots of a table, read from its directory; rows of a lost bucket cannot be found (R154, R479). -/
def touchedOf (h : Nat) (c : CmdId) (t : Table) (o : OptDesc) (epoch : Nat) (bs : List Nat) (acc : List Nat) : Work (List Nat) :=
  match bs with
  | [] => Work.ret acc
  | b :: rest => fun s =>
    ((readWork c (s.stageSpace t c) (whoApply h c) (o.dirVa b) 64).andThen fun x =>
      match x with
      | some x => touchedOf h c t o epoch rest (acc ++ usedSlots x epoch)
      | none => (Work.upd fun s => (s.updApply h fun a => { a with lost := true }).cause c stAborted { object := t.desc.table }).andThen fun _ =>
          touchedOf h c t o epoch rest acc) s

/-- The touched slots of the tables of a set. -/
def touchedAll (h : Nat) (c : CmdId) (epoch : Nat) (ts : List (Nat × Table)) (acc : List (Nat × Nat)) : Work (List (Nat × Nat)) :=
  match ts with
  | [] => Work.ret acc
  | (n, t) :: rest =>
    match t.opt with
    | none => touchedAll h c epoch rest acc
    | some o =>
      if t.slots = 0 then touchedAll h c epoch rest acc
      else
        (touchedOf h c t o epoch (List.range o.buckets) []).andThen fun l =>
          touchedAll h c epoch rest (acc ++ l.map fun j => (n, j))

/-- A SEQ made odd, and made even (R208, R209). -/
def seqOdd (n : Nat) : Nat := if n % 2 = 1 then n else (n + 1) % 2 ^ 32
def seqEven (n : Nat) : Nat := if n % 2 = 0 then n else (n + 1) % 2 ^ 32

/-- FIXED tables whose K of the step exceeds 2^24 (R165). -/
def State.countRisk (s : State) (h : Nat) : State :=
  ((s.tablesOf h).filter fun e => ((e.2.opt.map (·.winFixed)).getD false) && decide (2 ^ 24 < e.2.stepK)).foldl (fun s e => s.countTable e.1 17 1) s

/-- One piece of a window: done, skipped with its status, or waiting (R480). -/
def State.runPiece (s : State) (h : Nat) (a : ApplyJob) (e : WindowWork) : State × Bool :=
  let work := if e = .image then restoreImage h a.cmd a.image else windowWork h a.cmd e
  match work.whole s with
  | (s, .ok _) => (s, true)
  | (s, .wait) => (s, false)
  | (s, .stop st d) =>
    let s := s.cause a.cmd st { object := 0xFFFF, value := d.value }
    (match e with
     | .entry _ _ _ => s.countSet h 8 1
     | .clearDir _ => s.updApply h fun a => { a with failNext := true }
     | .image => s.updApply h fun a => { a with lost := true }
     | _ => s, true)

/-- The pieces of a window in order, as far as they go. -/
def State.runPieces (s : State) (h : Nat) (a : ApplyJob) (l : List WindowWork) : State :=
  match l with
  | [] => s.updApply h fun a => { a with work := [] }
  | e :: rest =>
    match s.runPiece h a e with
    | (s, true) => s.runPieces h a rest
    | (s, false) => s.updApply h fun a => { a with work := e :: rest }

/-- The work of a window is listed once its rows are done. -/
def State.listPieces (s : State) (h : Nat) (a : ApplyJob) : State :=
  let (s, l) := if a.isRestore then (s, WindowWork.image :: (s.tablesOf h).map fun e => WindowWork.clearDir e.1) else s.listWork h
  s.updApply h fun a => { a with work := l, listed := true }

/-- A window goes on: its rows, then its other work. -/
def State.runWindow (s : State) (h : Nat) : State :=
  match (s.tset? h).bind (·.apply) with
  | none => s
  | some a =>
    let s := s.applyRows h a.cmd a.todo
    match (s.tset? h).bind (·.apply) with
    | none => s
    | some a =>
      if a.todo ≠ [] then s
      else
        let s := if a.listed then s else s.listPieces h a
        match (s.tset? h).bind (·.apply) with
        | none => s
        | some a => s.runPieces h a a.work

/-- The sketches of a set are whole in memory before its rows are rewritten, so that Armature reads every increment (R74, R77). -/
def State.sketchFirst (s : State) (h : Nat) (c : CmdId) (run : State → State) : State :=
  match s.flushSketch c (whoApply h c) h with
  | (s, true) => run s
  | (s, false) => s

/-- The step's touched rows are found, SEQ goes odd, and the rows are rewritten (R194, R208, R209). When SEQ cannot be written the step is
handled as a failed one (R480). -/
def State.startWriting (s : State) (h : Nat) (t : TableSet) (a : ApplyJob) : State :=
  let c := a.cmd
  let find := if a.isRestore then Work.ret [] else touchedAll h c t.epoch (s.tablesOf h) []
  match find.whole s with
  | (s, .wait) => s
  | (s, r) =>
    let (s, todo) := match r with
      | .ok l => s.anyOrder l
      | .stop st d => (s.cause c st { object := 0xFFFF, value := d.value }, [])
      | .wait => (s, [])
    let slots := ((s.tablesOf h).map fun e => e.2.slots).foldl (· + ·) 0
    let odd := seqOdd t.seq
    match s.putRecord h c { t with seq := odd } with
    | (s, .ok _) =>
      let s := s.updTset h fun t => { t with seq := odd, st := if t.st = TsState.torn then t.st else .writing }
      let s := s.updApply h fun a => { a with todo := todo, discarded := slots }
      let s := s.closeWait 1 (agentCmd c) false (some a.lastReader) none
      ((if a.isRestore then s else s.countRisk h)).runWindow h
    | (s, .stop st d) => (s.cause c st { object := 0xFFFF, value := d.value }).failStep h a t.seq
    | (s, _) => s

/-- ENTER_WRITING: every reading command at epoch e has ended its reads, those accepted before DRAINING began included, and the window's
writes begin (R192, R197, R209). -/
def execEnterWriting (tset : Nat) (s : State) : Out :=
  actSWhen s (!s.faultWait (.apply tset)) fun s =>
    match s.tset? tset with
    | none => s
    | some t =>
      match t.apply with
      | none => s
      | some a => if t.st = .draining ∧ s.reading tset = [] ∧ s.dueReaders tset = [] then s.sketchFirst tset a.cmd fun s => s.startWriting tset t a
        else s

/-! ## COMMITTING (R194) -/

/-- P1 and P2 of an Adam table after a commit (R181, R194). -/
def Table.advance (t : Table) : Table :=
  match t.opt with
  | some o => if o.opt = 2 then { t with p1 := mulOdd t.p1 o.beta1, p2 := mulOdd t.p2 o.beta2 } else t
  | none => t

/-- The tables of a set at a commit: staging slots and demoted rows' slots are free, candidate lists cleared, Adam's powers advanced (R76, R194,
R211). -/
def State.commitTables (s : State) (h : Nat) (adv : Bool) : State :=
  { s with tables := s.tables.map fun (e : Nat × Table) =>
    if e.2.tset = h then (e.1, { (if adv then e.2.advance else e.2) with freed := [], cand := [] }) else e }

/-- Armature rebuilds filter regions of a set to clear the bits of demoted rows: at which commits is free (R69, R70; log entry 113). -/
def State.rebuildFilters (s : State) (h : Nat) : State :=
  (s.tablesOf h).foldl (fun s e =>
    if e.2.desc.filterLog2 = 0 then s
    else if s.freeNat % 2 = 1 then s.took.updTable e.1 Table.rebuildFilter else s.took) s

/-- Armed weight sets of a table set flip (R222). -/
def State.flipWeights (s : State) (h : Nat) : State :=
  { s with wsets := s.wsets.map fun (e : Nat × WeightSet) =>
    if e.2.bound && e.2.tset == h && e.2.armed then (e.1, { e.2 with activeB := !e.2.activeB, armed := false }) else e }

/-- Restored rows are sound from the commit on, each with its record (R214, R429); a RESTORE of the set whose image
was written whole makes every row of it sound. -/
def State.soundRows (s : State) (h : Nat) (a : ApplyJob) : State :=
  let mine := fun (p : PoisonedRow) =>
    if a.isRestore then !a.lost && (s.tablesOf h).any fun e => e.1 == p.table else a.restoredRows.contains (p.table, p.row)
  let gone := s.poisoned.filter mine
  let s := { s with poisoned := s.poisoned.filter fun p => !mine p }
  if a.isRestore then s
  else gone.foldl (fun s p => s.errorRecord { code := 0x001C, action := 13, ctx := s.ownerOf p.table, addr := s.rowPa p.table p.row p.stateOnly, table := p.table, tset := h, row := p.row, detail := p.snapEpoch }) s

/-- The set after a commit (R185, R194, R208, R213). A RESTORE counts as a commit, on from the count of its image (R75; DEDUCED: log entry
78). -/
def TableSet.committed (t : TableSet) (a : ApplyJob) (now : Nat) : TableSet :=
  { t with
    st := .opened, epoch := (t.epoch + 1) % 2 ^ 32, seq := seqEven t.seq, commitTime := now, windowNs := now - a.start, failed := false
    restored := a.isRestore, snapEpoch := if a.isRestore then a.snapEpoch else 0, apply := none
    adamSteps := if a.isRestore then t.adamSteps else t.adamSteps + 1, commits := t.commits + 1
    clearEpoch := if a.isRestore ∨ (t.epoch + 2) % 2 ^ 32 = t.clearEpoch % 2 ^ 32 then (t.epoch + 1) % 2 ^ 32 else t.clearEpoch }

/-- The counters of a window (R203, R448). -/
def State.countWindow (s : State) (h : Nat) (a : ApplyJob) (t : TableSet) : State :=
  let s := ((s.countSet h 0 1).countMax 4 h 1 t.windowNs).countSet h 5 (if a.lost then a.written else a.touched)
  if a.isRestore = false ∧ t.bound < t.windowNs then s.countSet h 2 1 else s

/-- The commit (R194, R480): the record is written, and then all of it takes effect; decays that fall due come after it (R75). -/
def State.commit (s : State) (h : Nat) (t : TableSet) (a : ApplyJob) : State :=
  let c := a.cmd
  let new := t.committed a (s.now .core)
  match s.putRecord h c new with
  | (s, .wait) => s.updTset h fun t => { t with st := if t.st = TsState.torn then t.st else .committing }
  | (s, r) =>
    let s := match r with
      | .stop st d => s.cause c st { object := 0xFFFF, value := d.value }
      | _ => s
    let s := ((((s.commitTables h (!a.isRestore)).rebuildFilters h).setTset h new).emptyStep h).flipWeights h
    let s := ((s.soundRows h a).joinNext h).countWindow h a new
    let s := s.endWindow h a
    let s := if a.failNext then s.markFailed h c else s
    (s.decayDue h).acceptWaiting h

/-- A RESTORE whose image could not be written leaves a TORN set TORN, its step empty (R188, R215; DEDUCED: log entry 79). -/
def State.noRestore (s : State) (h : Nat) (t : TableSet) (a : ApplyJob) : State := s.backToOpen h a t.seq a.failNext

/-- Whether a write of a command that has ended is not acknowledged yet: the window of an APPLY_EPOCH that a DRAIN's deadline ended (R209, R392). -/
def State.unacked (s : State) (c : CmdId) : Bool :=
  (s.wc.any fun e => e.waiters.any fun w => match w with
    | .job d _ => d == c
    | _ => false) || s.fab.remote.any fun r => r.isWrite && r.cmd == c

/-- A window goes on, and commits once every write of it is done and acknowledged (R194, R209). -/
def State.tryCommit (s : State) (h : Nat) : State :=
  let s := s.runWindow h
  match s.tset? h with
  | none => s
  | some t =>
    match t.apply with
    | none => s
    | some a =>
      let busy := match s.job? a.cmd with
        | some j => j.acks != 0 || !j.outs.isEmpty
        | none => s.unacked a.cmd
      if a.todo ≠ [] ∨ a.work ≠ [] ∨ a.listed = false then s
      else if t.st = .torn ∧ a.lost then s.noRestore h t a
      else if busy then s.updTset h fun t => { t with st := if t.st = TsState.torn then t.st else .committing }
      else s.commit h t a

/-- ENTER_COMMITTING: the window's writes are done; the step commits and readers go on at e + 1 (R194). A TORN set's RESTORE runs its whole
window here (R188). -/
def execEnterCommitting (tset : Nat) (s : State) : Out :=
  actSWhen s (!s.faultWait (.apply tset)) fun s =>
    match s.tset? tset with
    | none => s
    | some t =>
      match t.apply with
      | none => s
      | some a =>
        if t.st = .torn ∧ a.listed = false then
          let s := (s.updApply tset fun a => { a with start := s.now .core }).startWriting tset t a
          if (((s.tset? tset).bind (·.apply)).map (·.listed)).getD false then s.tryCommit tset else s
        else if t.st = .writing ∨ t.st = .committing ∨ t.st = .torn then s.tryCommit tset
        else s

/-! ## SNAPSHOT (R212) -/

/-- A SNAPSHOT reads its set, and writes the image (R212, R350). -/
def State.runSnapshot (s : State) (j : Job) : State :=
  let c := j.id
  let h := pktObj j.pkt
  match s.flushSketch c (s.whoJob c) h with
  | (s, false) => s.await c
  | (s, true) =>
  match readImage c (s.whoJob c) (s.sections h) [] s with
  | (s, .wait) => s.await c
  | (s, .stop st d) => s.fail c st d
  | (s, .ok b) =>
    let s := (s.updJob c fun j => { j with phase := .running, value0 := s.epochOf h, value1 := b.length }).endReads c
    (s.writeVa c (s.cmdSpace c) (imageVa j.pkt) b).complete c

/-- SNAPSHOT: begins as a reading command, at one epoch (R187, R197, R212). -/
def execSnapshot (c : CmdId) (s : State) : Out :=
  cmdRow s c opSnapshot fun j s =>
    if j.epochs ≠ [] then s.runSnapshot j
    else
      match s.gate j with
      | .torn => s.fail c stAborted
      | .held => s.notStarted c .accepted
      | .full => s.notStarted c .accepted
      | .go =>
        let s := s.updJob c fun k => { k with epochs := s.epochsOf [pktObj j.pkt] }
        match s.job? c with
        | some j => s.runSnapshot j
        | none => s

/-! ## Promotion lists (R354) -/

/-- A list's address in its packet or memory, past its header: its bytes (R342, R354). -/
def State.listBytes (s : State) (j : Job) : State × Rd := s.readOperand j.id j.pkt (pktDX j.pkt) 16 (16 * field j.block 8 4)

/-- PROMO_LIST: a list is checked whole and waits for the commit it names (R211, R354); one that names a TORN set is not served (R197,
R215). -/
def execPromoList (c : CmdId) (s : State) : Out :=
  subRow s c subPromoList fun j s =>
    let b := j.block
    let h := field b 0 2
    let n := field b 8 4
    if s.isTorn h then s.complete c stAborted else
    match firstBroken [reservedRule b 2 2, reservedRule b 12 4] with
    | some r => s.malformed j 0x47 r.index r.value
    | none =>
      match s.listBytes j with
      | (s, .wait) => s.await c
      | (s, .stop st d) => s.complete c st d
      | (s, .bad _) => s.complete c stAborted
      | (s, .ok es) =>
        match firstBroken ((List.range n).map (s.entryRules h es)).flatten with
        | some r => s.malformed j 0x47 (r.index % 2 ^ 16) r.value
        | none => (s.updTset h fun t => { t with lists := t.lists ++ [{ epoch := field b 4 4, entries := promoEntries es n }] }).complete c

/-! ## The checkpoint staging service (R429) -/

/-- A poisoned row whose bytes have been asked for and have not come. -/
def PoisonedRow.asked (p : PoisonedRow) (t row : Nat) : Bool :=
  p.table == t && p.row == row && p.requestedAt.isSome && p.bytes.isNone && !p.stuck

/-- CHECKPOINT_SERVICE_REPLY: the bytes of a poisoned row stand in the firmware region for the next apply window (R214, R429). -/
def execCheckpointServiceReply (table row : Nat) (cold promoted side state : List Byte) (s : State) : Out :=
  act s fun s =>
    { s with poisoned := s.poisoned.map fun (p : PoisonedRow) =>
      if p.asked table row then { p with bytes := some (cold, promoted, side, state) } else p }

/-- RESTORE_TIMEOUT: the service has not answered within RESTORE_MS: the row stays poisoned, with record 0x001B (R429). -/
def execRestoreTimeout (table row : Nat) (s : State) : Out :=
  act s fun s =>
    let late := fun (p : PoisonedRow) => p.asked table row && (p.requestedAt.any fun t => decide (t + 1000000 * s.restoreMs ≤ s.time))
    if s.poisoned.any late then
      let set := ((s.table? table).map (·.tset)).getD 0xFFFF
      let s := { s with poisoned := s.poisoned.map fun (p : PoisonedRow) => if late p then { p with stuck := true } else p }
      s.errorRecord { code := 0x001B, action := 4, ctx := s.ownerOf table, addr := s.rowPa table row false, table := table, tset := set, row := row, detail := 1 }
    else s

end Sys2Proof.Machine
end

