-- ==== Sys2Proof/Machine/MemRows.lean ====
section
/-! DEFINITION. Memory requests (R22, R126, R295, R300), their completion (R256, R306, R307), write-combining drains (R297, R298),
regulator refills (R300), thermal levels (R302), capacity ports (R306, R307), access counters (R326, R327) and the configuration mailbox
(R472, R473). -/

namespace Sys2Proof.Machine

/-! ## Issue of misses (R22, R126, R295 to R300) -/

/-- The first request of a stream's issue list goes to its end: dropped with the rest of the stream's work. -/
def State.popIssue (s : State) (k : Nat) : State := s.updStream k fun x => { x with issue := x.issue.drop 1 }

/-- Bytes of a merged request. -/
def MissReq.bytes (r : MissReq) : Nat := 64 * (r.hi + 1 - r.lo)

/-- The partition of a request (R299). -/
def State.missPart (s : State) (r : MissReq) : Nat := s.partOf r.cmdCtx

/-- Slice read tags in use: those of memory reads and of remote reads without their response (R22, R295, R325). -/
def State.sliceTags (s : State) (slice : Nat) : Nat :=
  (s.memReqs.filter (·.slice == slice)).length +
    (s.fab.remote.filter fun r => match r.mem with
      | some m => m.slice == slice
      | none => false).length

/-- A remote line of a gather leaves as a RD_REQ (R325, R379). -/
def State.issueRemote (s : State) (k : Nat) (r : MissReq) (m : MemReq) : State :=
  match s.freePick (s.fab.remote.map (·.tag)) 4096 with
  | (_, none) => s
  | (s', some tag) =>
    let pa := r.line + 64 * r.lo
    let f : Frame := { typ := ftRdReq, tc := 2, dst := r.line / 2 ^ 50, len := r.bytes, ctx := r.ctx, tag := tag, addr := pa }
    let q : RemoteReq := { tag := tag, node := r.line / 2 ^ 50, addr := pa, len := r.bytes, isWrite := false, sentAt := s.time,
                           cmd := r.cmd, ctx := r.ctx, mem := some m }
    if s.fab.assigned = false ∨ s.fab.remote.any (fun x => x.addr / 256 == pa / 256) = true then s
    else
      match ({ s' with fab := { s'.fab with remote := s'.fab.remote ++ [q] } } : State).sendRouted f with
      | some s' => s'.popIssue k
      | none => s

/-- A request that is issued brings every sector from its lowest to its highest: they are in the line's fill (R126, R256). -/
def State.markIssued (s : State) (r : MissReq) : State :=
  if r.direct then s
  else
    let mask := ((List.range (r.hi + 1 - r.lo)).map (· + r.lo)).foldl (fun a k => a + 2 ^ k) 0
    let held := ((s.lookup (localOf r.line)).map fun w => (s.way (setOf (lineNo (localOf r.line))) w).sv.toNat).getD 0
    let issue := fun (f : Fill) => { f with need := Nat.lor f.need (mask - Nat.land mask held), issued := Nat.lor f.issued mask }
    { s with rc := { s.rc with fills := s.rc.fills.map fun f => if s.lastFill r.line == some f then issue f else f } }

/-- The last fill into a way has ended: the way is unlocked, or freed when nothing sound arrived; the snoops that waited for it are answered,
and what waited for a way goes on (R257, R269). -/
def State.unlockWay (s : State) (line w : Nat) : State :=
  let set := setOf (lineNo (localOf line))
  let x := s.way set w
  let s := if x.sv = 0 then s.evict set w 0 else s.setWay set w { x with lock := false }
  (s.runSnoops line).wayFreed

/-- Fill entries of a line end: those that `out` names (R256). -/
def State.endFills (s : State) (line : Nat) (out : Fill → Bool) : State :=
  let gone := (s.fillsOf line).filter out
  let s := { s with rc := { s.rc with fills := s.rc.fills.filter fun f => !(f.line == line && out f) } }
  match gone.head?.bind (·.way) with
  | some w => if s.fillPending line then s else s.unlockWay line w
  | none => s

/-- A read that a lost port takes from its waiters: they ask again (R307). -/
def State.dropReads (s : State) (line stream : Nat) (direct : Bool) : State :=
  if direct then { s with rc := { s.rc with direct := s.rc.direct.filter fun e => !(e.1 == line && e.2.stream == stream) } }
  else s.endFills line fun _ => true

/-- A joiner's stream meets the loss of a capacity port as a fault (R307, R319). -/
def State.portLostFault (s : State) (ctx : Nat) (w : Joiner) (pa : Nat) : State :=
  match s.segOf ctx w.vline with
  | none => s
  | some (i, g) => (s.streamFault w.stream 1 ctx w.vline 3 i (pageNo g w.vline) pa (.rowRef w.stream)).holdRefs w.stream

/-- Reads of a line on a lost port are failed back to their requesters (R307). -/
def State.failBack (s : State) (ctx line stream : Nat) (direct : Bool) : State :=
  (s.waitersOf line stream direct).foldl (fun s w => s.portLostFault ctx w line) (s.dropReads line stream direct)

/-- The front request of a stream is issued, or waits (R22, R126, R298, R300). -/
def State.issueMiss (s : State) (k : Nat) : State :=
  match (s.stream k).issue with
  | [] => s
  | r :: _ =>
    let t := s.targetOf r.line
    let p := s.missPart r
    let m : MemReq := { tag := s.nextId, slice := k / 8, stream := k, line := r.line, lo := r.lo, hi := r.hi, target := t, ctx := r.ctx,
                        cmdCtx := r.cmdCtx, cmd := r.cmd, direct := r.direct }
    if 2048 ≤ s.sliceTags (k / 8) then s
    else
      match t with
      | .remote node =>
        if s.fab.assigned = false ∨ s.usableRoutes node 2 = [] then
          let b := s.lineBag k r.line
          let s := (s.popIssue k).dropReads r.line k true
          if (s.stream k).item ≠ none ∧ (s.stream k).arch.cmd = r.cmd then s.abortFrom k b stAborted {} else s
        else s.issueRemote k r m
      | _ =>
        if s.wc.any (·.waits r.line) then s.drain r.line
        else if s.wc.any (fun e => e.line == r.line) then s
        else if s.onLostPort (localOf r.line) then (s.popIssue k).failBack r.ctx r.line k r.direct
        else
          let portOk := match t with
            | .capacity n => s.portTakes n
            | _ => true
          if portOk && s.mayIssue p (bucketOf t false) r.bytes (s.richFor p t) then
            let s := ((s.chargeTo p (bucketOf t false) r.bytes).popIssue k).markIssued r
            { s with memReqs := s.memReqs ++ [m], nextId := s.nextId + 1 }
          else s

/-- MISS_REQUEST_ISSUE: the front request of a closed window takes its tags and is issued (R22, R126, R300). -/
def execMissRequestIssue (st : StreamId) (s : State) : Out := actS s (·.issueMiss st.key)

/-- REFILL: every regulated bucket is refilled, each 10 ns, and the writes that waited for tokens are tried again (R300, R301). -/
def execRefill (s : State) : Out :=
  actSWhen s (decide (s.refillAt + 10 ≤ s.time)) fun s => ({ s.refillAll with refillAt := s.time } : State).unparkAll

/-! ## Capacity ports (R306) and access counters (R326, R327) -/

def State.updCap (s : State) (n : Nat) (f : CapPort → CapPort) : State :=
  if h : n < 8 then { s with cap := s.cap.set n (f s.cap[n]) } else s

/-- A response's DevLoad (R306). -/
def State.devLoad (s : State) (n load : Nat) : State :=
  s.updCap n fun p =>
    let p := { p with devLoad := load, lightSince := if load ≤ 1 then some (p.lightSince.getD s.time) else none }
    let due := match p.lastHalve with
      | some t => decide (t + 1000 ≤ s.time)
      | none => true
    if load = 3 && due then { p with limit := max 64 (p.limit / 2), lastHalve := some s.time } else p

/-- TAG_LIMIT_RAISE: ten µs of light or optimal responses double a port's tag limit (R306). -/
def execTagLimitRaise (port : Fin 8) (s : State) : Out :=
  let p := s.cap.get port
  let due := match p.lightSince with
    | some t => decide (t + 10000 ≤ s.time)
    | none => false
  actSWhen s (due && decide (p.limit < 512)) fun s =>
    (s.updCap port fun p => { p with limit := min 512 (p.limit * 2), lightSince := some s.time }).unparkAll

/-- The merged counts of every port go to memory (R326). -/
def State.flushCounts (s : State) : State :=
  let t := (s.countCache.flatMap (·.2)).foldl (fun s e => s.storeFirmware (s.countAddr e.1) (leBytes 2 e.2)) s
  { t with countCache := [] }

/-- The sectors of the count array that are not known to hold zeros: those that memory lists, or a write on its way or the row cache holds. -/
def State.countSectors (s : State) : List Nat :=
  let lo := localOf s.countBase
  let inRange := fun (k : Nat) => decide (lo ≤ 64 * k) && decide (64 * k < lo + 2 ^ 24)
  let four := fun (a : Nat) => ([0, 1, 2, 3] : List Nat).map fun k => a / 256 * 4 + k
  let stored : List Nat := s.mem.map fun (e : Host.Cell) => e.1 / 64
  let waiting : List Nat := s.wc.flatMap fun (e : WcEntry) => four (localOf e.line)
  let cached : List Nat := (s.rc.ways.filter fun e => !e.2.mir).flatMap fun e => four (256 * lineFrom (e.1 / 16) e.2.tag)
  ((stored ++ waiting ++ cached ++ s.poison).dedup).filter inRange

/-- One sector of the count array at a sweep: a count that has reached the threshold unmarked is reported, then every count is halved and
every mark cleared; a sector that cannot be read becomes zeros (R327, R430; log entry 97). -/
def State.sweepCounts (s : State) (k : Nat) : State :=
  let pa := s.physOf (64 * k)
  match s.loadFirmware pa 64 { Access.firmware with ue := { code := 0x0007, action := 12 } } with
  | (s, none) => s.storeFirmware pa (zeros 64)
  | (s, some b) =>
    let s := foldN 32 s fun s i =>
      let v := field b (2 * i) 2
      if bitOf v 15 = false ∧ s.hotThr ≤ v ∧ v ≠ 0 then s.hotPage (32 * (k - localOf s.countBase / 64) + i) v else s
    s.storeFirmware pa (((List.range 32).map fun i => leBytes 2 (field b (2 * i) 2 % 2 ^ 15 / 2)).flatten)

/-- ACCESS_COUNT_DECAY: while counting is enabled, a sweep halves every count and clears its mark (R327, R331). -/
def execAccessCountDecay (s : State) : Out :=
  actWhen s (s.hotEn && s.decayMs != 0 && decide (s.decayAt + 1000000 * s.decayMs ≤ s.time)) fun s =>
    let s := s.flushCounts
    { s.countSectors.foldl State.sweepCounts s with decayAt := s.time }

/-- CAPACITY_LINK_UP: a port whose link has trained carries transactions (R303, R331). -/
def execCapacityLinkUp (port : Fin 8) (bifurcated : Bool) (s : State) : Out :=
  let p := s.cap.get port
  actSWhen s (s.boot.memLocked && !p.noPll && p.st == 0) fun s => (s.updCap port fun p => { p with st := 1, bifurcated := bifurcated }).unparkAll

/-- CAPACITY_PORT_LOST: reads in flight are failed back, writes in flight are lost with their records, and the port shows LOST
(R307, R427). -/
def execCapacityPortLost (port : Fin 8) (s : State) : Out :=
  actSWhen s ((s.cap.get port).st == 1) fun s =>
    let s := s.updCap port fun p => { p with st := 2 }
    let s := s.errorRecord { code := 0x0009, unit := 4, index := port.val, action := 8 }
    let mine := s.memReqs.filter fun (m : MemReq) => m.target == Target.capacity port.val
    let s := { s with memReqs := s.memReqs.filter fun (m : MemReq) => m.target != Target.capacity port.val }
    let s := mine.foldl (fun s m => s.failBack m.ctx m.line m.stream m.direct) s
    let lost := fun (e : WcEntry) => !e.parked && s.isLocal e.line && s.onLostPort (localOf e.line)
    let s := (s.wc.filter lost).foldl (fun s e =>
      let s := s.errorRecord { code := 0x0009, unit := 4, index := port.val, action := 12, addr := e.line }
      if e.draining then s.wcAck e.line else ({ s with wc := s.wc.map fun x => if x = e then { x with draining := true } else x } : State).wcAck e.line) s
    s.unparkAll

/-! ## Completion (R256, R306, R307) -/

/-- A sector read from memory: its data, or none when it is lost (R427). -/
def State.readSector (s : State) (a : Nat) (ue : Bool) : Option Sector := if ue then none else s.memSector a

/-- What the sectors of a returned request hold. -/
def State.readBack (s : State) (m : MemReq) (ue : Nat) : List (Nat × Option Sector) :=
  ((List.range (m.hi + 1 - m.lo)).map (· + m.lo)).map fun k => (k, s.readSector (localOf m.line + 64 * k) (bitOf ue k))

/-- Sectors reach the way that a fill reserved; a valid sector keeps what it holds (R256, R257). -/
def Way.fillFrom (x : Way) (got : List (Nat × Option Sector)) : Way :=
  got.foldl (fun (x : Way) e =>
    match e.2 with
    | some d => if bitOf x.sv.toNat e.1 then x else { (x.putSector e.1 d) with sv := x.sv ||| BitVec.ofNat 4 (2 ^ e.1) }
    | none => x) x

/-- The state in which a sector reaches a joiner. -/
def sectorState (d : Option Sector) : SectorState :=
  match d with
  | some d => .data d
  | none => .bad

/-- Sectors reach the waiters of a list that need them. -/
def State.deliverAll (s : State) (ws : List Joiner) (got : List (Nat × Option Sector)) : State :=
  ws.foldl (fun s w => s.deliver w ((got.filter fun e => bitOf w.mask e.1).map fun e => (e.1, sectorState e.2))) s

/-- What a waiter of a mask still waits for after sectors have come. -/
def maskLeft (got : List (Nat × Option Sector)) (m : Nat) : Nat := m - Nat.land m ((got.map (·.1)).foldl (fun a k => a + 2 ^ k) 0)

/-- The sectors of a read that took no fill entry go to the waiters of its stream (R251, R256). -/
def State.landDirect (s : State) (line stream : Nat) (got : List (Nat × Option Sector)) : State :=
  let t := s.deliverAll (s.waitersOf line stream true) got
  { t with rc := { t.rc with direct := (t.rc.direct.map fun e =>
      if e.1 = line ∧ e.2.stream = stream then (e.1, { e.2 with mask := maskLeft got e.2.mask }) else e).filter fun e => e.2.mask != 0 } }

/-- The sectors of a returned fill go into its way and to the joiners; an entry that has all its sectors ends (R256, R257). -/
def State.landFill (s : State) (line : Nat) (got : List (Nat × Option Sector)) : State :=
  let s := match (s.lastFill line).bind (·.way) with
    | some w =>
      let set := setOf (lineNo (localOf line))
      (s.setWay set w ((s.way set w).fillFrom got)).touch set w
    | none => s
  let s := s.deliverAll (s.waitersOf line 0 false) got
  (s.updFills line fun f =>
    { f with need := maskLeft got f.need, issued := maskLeft got f.issued
             joiners := (f.joiners.map fun w => { w with mask := maskLeft got w.mask }).filter fun w => w.mask != 0 }).endFills line fun f => f.need == 0

/-- The sectors of a returned request reach those who wait for them (R256). -/
def State.landSectors (s : State) (m : MemReq) (got : List (Nat × Option Sector)) : State :=
  if m.direct then s.landDirect m.line m.stream got else s.landFill m.line got

/-- What the record of a lost sector names: the row of the first fetch that waits for it, which is read from its cold copy or poisoned
(R424, R428; log entry 60). -/
def State.fillError (s : State) (m : MemReq) (k : Nat) : ErrInfo :=
  let none_ : ErrInfo := { code := 0x0007, action := 12, ctx := m.ctx }
  match (s.waitersOf m.line m.stream m.direct).find? fun w => bitOf w.mask k with
  | none => none_
  | some w =>
    match (s.stream w.stream).fetches.find? fun f => f.id == w.fetch with
    | none => none_
    | some f =>
      let sector := w.vline / 64 + k
      let ofCopy := decide (f.va / 64 ≤ sector) && decide (sector ≤ (f.va + f.size - 1) / 64)
      { none_ with action := if ofCopy && f.copy != .cold then 3 else 4
                   table := f.ref.table.getD 0xFFFF
                   tset := ((f.ref.table.bind s.table?).map (·.tset)).getD 0xFFFF
                   row := f.ref.row }

/-- The records of an uncorrectable read (R426). -/
def State.readErrors (s : State) (m : MemReq) (got : List (Nat × Option Sector)) : State :=
  got.foldl (fun t e =>
    match e.2, m.target with
    | none, .capacity _ => t.readError (s.fillError m e.1) (m.line + 64 * e.1)
    | none, .channel _ => t.readError (s.fillError m e.1) (m.line + 64 * e.1)
    | _, _ => t) s

/-- MEMORY_READ_COMPLETE: read data returns, fills the line and serves the joiners (R256, R306, R307, R326). -/
def execMemoryReadComplete (tag : Nat) (ue : BitVec 4) (devLoad : BitVec 2) (s : State) : Out :=
  actS s fun s =>
    match s.memReqs.find? (·.tag == tag) with
    | none => s
    | some m =>
      let got := s.readBack m ue.toNat
      let s := { s with memReqs := s.memReqs.erase m }
      let s := s.moved m.target (64 * (m.hi + 1 - m.lo))
      let s := (s.readErrors m got).landSectors m got
      match m.target with
      | .capacity n => ((s.devLoad n devLoad.toNat).countAccess (localOf m.line)).unparkAll
      | _ => s

/-- MEMORY_WRITE_ACK: a drain is acknowledged by its channel or port (R29, R298, R306). -/
def execMemoryWriteAck (line : Nat) (devLoad : BitVec 2) (s : State) : Out :=
  actS s fun s =>
    let s := s.wcAck line
    match s.targetOf line with
    | .capacity n => if s.isLocal line then (s.devLoad n devLoad.toNat).countAccess (localOf line) else s
    | _ => s

/-- WC_ENTRY_AGE: an entry has existed for AGE_NS and drains (R297). -/
def execWcEntryAge (line : Nat) (s : State) : Out :=
  actSWhen s (s.wc.any fun e => e.waits line && isPoolLine line && decide (e.born + s.wcAgeNs ≤ s.time)) (·.drain line)

/-! ## Thermal levels (R302) -/

def State.updStack (s : State) (k : Fin 16) (f : Stack → Stack) : State := { s with hbm := s.hbm.set k (f (s.hbm.get k)) }

/-- The level that a temperature raises a stack to. -/
def raisedLevel (level temp : Nat) : Nat := if 105 < temp then 2 else if 95 < temp then max level 1 else level

/-- Whether a temperature is below the threshold at which a level is lowered. -/
def belowLower (level temp : Nat) : Bool := if level = 2 then decide (temp < 102) else decide (temp < 92)

/-- TEMPERATURE_REPORT: a stack reports; its level is raised at once, and the time below the lower threshold is kept (R302;
log entry 19). -/
def execTemperatureReport (stack : Fin 16) (temp : BitVec 8) (s : State) : Out :=
  act s fun s => s.updStack stack fun x =>
    let level := raisedLevel (if x.lost then 0 else x.level) temp.toNat
    { x with
      level := level, temp := temp.toNat, lost := false, lastReport := s.time
      belowSince := if level = 0 ∨ belowLower level temp.toNat = false then none
        else some (if level = x.level then x.belowSince.getD s.time else s.time) }

/-- THROTTLE_LOWER: the temperature has stayed below the lower threshold for 100 µs (R302). -/
def execThrottleLower (stack : Fin 16) (s : State) : Out :=
  let x := s.hbm.get stack
  let due := match x.belowSince with
    | some t => decide (t + 100000 ≤ s.time)
    | none => false
  actWhen s (due && !x.lost && x.level != 0) fun s => s.updStack stack fun x =>
    { x with level := x.level - 1, belowSince := if x.level = 2 && belowLower 1 x.temp then some s.time else none }

/-- SENSOR_LOST: a stack that reports nothing for 100 µs is held at level 2 (R302). -/
def execSensorLost (stack : Fin 16) (s : State) : Out :=
  let x := s.hbm.get stack
  actWhen s (!x.lost && s.boot.poolReady && decide (x.lastReport + 100000 ≤ s.time)) fun s =>
    (s.updStack stack fun x => { x with lost := true, level := 2, belowSince := none }).errorRecord
      { code := 0x001A, unit := 12, index := stack.val, action := 8 }

/-! ## The configuration mailbox (R472, R473) -/

/-- A write of CT_CFG_CTL: with GO, a configuration request is sent, or completes at once with STATUS 4 (R472, R473). -/
def State.cfgGo (s : State) (v : BitVec 32) : State :=
  if s.cfg.busy then s
  else
    let n := bitsOf v.toNat 21 19
    let fields := v &&& 0x07FC0FFC
    let s := { s with cfg := { s.cfg with fields := fields } }
    if bitOf v.toNat 31 = false then s
    else
      let ok := if h : n < 8 then (s.cap[n]).st == 1 && (!bitOf v.toNat 18 || (s.cap[n]).bifurcated) else false
      if ok then
        { s with cfg := { s.cfg with busy := true, status := 0 }, cfgSentAt := s.time }.send (.cfgRequest fields s.cfg.data)
      else { s with cfg := { s.cfg with status := 4 } }

/-- CT_CFG_GO (R472, R473). -/
def execCtCfgGo (r : Requester) (v : BitVec 32) (s : State) : Out := actReg s 0x90090 r (·.cfgGo v)

/-- CFG_REQUEST_DONE: the request completes, or has had no completion for 50 ms (R472). -/
def execCfgRequestDone (status : BitVec 3) (data : BitVec 32) (s : State) : Out :=
  actWhen s (s.cfg.busy && decide (status.toNat < 4) && (status != 3 || decide (s.cfgSentAt + 50000000 ≤ s.time))) fun s =>
    { s with cfg := { s.cfg with busy := false, status := status.toNat
                                 data := if status = 0 ∧ bitOf s.cfg.fields.toNat 26 = false then data else s.cfg.data } }

end Sys2Proof.Machine
end

