-- ==== Sys2Proof/Machine/Project.lean ====
section
/-! DEFINITION. PROJECT and the chains of fused gathers, layer by layer and tile by tile (R225 to R240), the reconstruction of LR rows
(R241), array errors (R244), and ARRAY_EN (R246, R250). -/

namespace Sys2Proof.Machine

/-! ## Inputs (R226, R233 to R239) -/

/-- How the samples of a stage are encoded for the arrays: format, group length, vectors of a sample, and elements of a vector. -/
structure ActShape where
  fmt : Nat
  group : Nat
  vecs : Nat
  elems : Nat
  deriving DecidableEq, Repr

/-- The shape of a stage's samples: INTERACT has F vectors (R237); BWD_X takes F32 elements as B16 and others as they are (R235); a
convolution's are the rows of its sequence (R239). -/
def State.actShape (s : State) (j : Job) (p : ProjJob) (g : StageDesc) : ActShape :=
  let w := (s.stageWset j p.layer).getD {}
  let x := (projBlock j.block).xfmt
  if g.func = 1 then ⟨g.ifmt, 32, interF g.param, interD g.param⟩
  else if g.func = 3 then ⟨if x = 0 then 1 else x, 32, 1, w.n⟩
  else if g.func = 2 then ⟨g.ifmt, w.groupLen, 1, s.elemsOf j⟩
  else ⟨g.ifmt, w.groupLen, 1, w.k⟩

/-- A sample's vectors encoded one after another; none when it holds a NaN or an infinity (R226). -/
def ActShape.encode (h : ActShape) (x : List F32) : Option (List Byte) :=
  if x.all f32Finite then
    some ((List.range h.vecs).map fun i => (encodeSample h.fmt h.group ((x.drop (i * h.elems)).take h.elems)).getD []).flatten
  else none

/-- The vectors of an encoded sample. -/
def ActShape.decode (h : ActShape) (b : List Byte) : List (List OpGroup) :=
  let n := rowSize h.fmt h.elems h.group
  (List.range h.vecs).map fun i => rowGroups h.fmt h.group h.elems (b.drop (i * n))

/-- Elements of an area in F32, B16 or H16, as F32 (R348). -/
def areaElems (f n : Nat) (b : List Byte) : List F32 := (List.range n).map fun i => toF32 .odd (gradAt f b i)

/-- The space of the feeder's accesses to activations, gradients, outputs and scratch (class SCRATCH: R258, R218, R320). -/
def State.feederSpace (s : State) (c : CmdId) : Space := { s.cmdSpace c with cls := 7, source := 4, holder := some feederHolder }

/-- Bytes of an operand as work: an error in them ends the command. -/
def operandWork (c : CmdId) (p : List Byte) (d off n : Nat) : Work (List Byte) := fun s =>
  match s.readOperandAs c (s.feederSpace c) p d off n with
  | (s, .ok bs) => (s, .ok bs)
  | (s, r) => (s, r.pass)

/-- The scratch area of a command (R348). -/
def Job.scratch (j : Job) : Nat :=
  match projPart j.pkt j.block with
  | some b => (projBlock b).scratch
  | none => 0

/-- Bytes of a sample's elements, and of the whole sample with its scale entries, in the scratch area (R233). -/
def ActShape.scratchCodes (h : ActShape) : Nat := h.elems * codeWidth h.fmt
def ActShape.scratchBytes (h : ActShape) : Nat := h.scratchCodes + ceilDiv h.elems h.group * scaleWidth h.fmt

/-- A sample in the scratch area: its elements, then one scale entry per group; samples follow one another (R233; DESIGN CHOICE: log
entry 36). -/
def ActShape.toScratch (h : ActShape) (b : List Byte) : List Byte := b.take h.scratchCodes ++ b.drop (codeBytes h.fmt h.elems h.group)
def ActShape.ofScratch (h : ActShape) (b : List Byte) : List Byte :=
  let n := codeBytes h.fmt h.elems h.group - h.scratchCodes
  let z := if h.fmt = 7 then field b (b.length - 2) 1 else 0
  b.take h.scratchCodes ++ List.replicate n (BitVec.ofNat 8 z) ++ b.drop h.scratchCodes

/-- The encoded sample of row `i` of a layer, `r` its sample and position; none for one that is not encoded (R226, R233 to R235). -/
def sampleWork (j : Job) (p : ProjJob) (g : StageDesc) (h : ActShape) (e : (Nat × Nat) × Nat) : Work (Option (List Byte)) :=
  let n := h.vecs * h.elems
  if j.rowLost e.1 = true ∨ p.dead.contains e.2 = true then Work.ret none
  else if p.layer ≠ 0 then
    (operandWork j.id j.pkt j.scratch (e.2 * h.scratchBytes) h.scratchBytes).andThen fun b => Work.ret (some (h.ofScratch b))
  else if isBagOp (pktOpcode j.pkt) then
    Work.ret (h.encode ((List.range j.sampleBags).map fun b => sget [] j.pooled (e.1.1 * j.sampleBags + b)).flatten)
  else
    let f := (projBlock j.block).xfmt
    (operandWork j.id j.pkt (if g.func = 3 then (projBlock j.block).dy else pktD0 j.pkt) (e.1.1 * n * outWidth f) (n * outWidth f)).andThen fun b =>
      Work.ret (h.encode (areaElems f n b))

/-- The encoded samples of the rows of a tile. -/
def samplesWork (j : Job) (p : ProjJob) (g : StageDesc) (h : ActShape) (rows : List ((Nat × Nat) × Nat)) (acc : List (Option (List Byte))) :
    Work (List (Option (List Byte))) :=
  match rows with
  | [] => Work.ret acc
  | e :: rest => (sampleWork j p g h e).andThen fun x => samplesWork j p g h rest (acc ++ [x])

/-- The row of a sequence that tap `u` of output position `t` reads, none for a padding row (R239). -/
def ConvParam.tap (c : ConvParam) (len t u : Nat) : Option Nat :=
  let r := t * c.stride + u * c.dil
  if c.pad ≤ r ∧ r - c.pad < len then some (r - c.pad) else none

/-- The rows of a sequence that output positions read, from the first to the last (R239). -/
def ConvParam.window (c : ConvParam) (len : Nat) (ts : List Nat) : List Nat :=
  let used := (ts.map fun t => (List.range c.kw).filterMap (c.tap len t)).flatten
  match used with
  | [] => []
  | x :: rest =>
    let lo := rest.foldl min x
    (List.range (rest.foldl max x + 1 - lo)).map (· + lo)

/-- The sequence window of a tile of CONV1D: each input row is encoded once (R226, R239). -/
def Job.convWindow (j : Job) (g : StageDesc) (h : ActShape) (rows : List (Nat × Nat)) : Nat × List (Option (List Byte)) :=
  let b := ((rows.head?).map (·.1)).getD 0
  let seq := sget [] j.pooled b
  let win := (convParam g.param).window (j.bagLen b) (rows.map (·.2))
  (win.headD 0, win.map fun r => if j.bagsLost.contains b then none else h.encode ((seq.drop (r * h.elems)).take h.elems))

/-- The activations of a tile, from the activation buffer where it holds them, else converted into the half that is not in use (R216,
R226). -/
def actsWork (j : Job) (p : ProjJob) (g : StageDesc) (h : ActShape) (rows : List (Nat × Nat)) : Work ActHalf := fun s =>
  let tag := j.tag p
  match s.feeder.acts.toList.find? fun a => a.tag == some tag && a.tile == p.tile && decide (rows.length ≤ a.rows.length || g.func = 2) with
  | some a => (s, .ok a)
  | none =>
    let put := fun (s : State) (a : ActHalf) =>
      let k : Fin 2 := s.feeder.half + 1
      ({ s with feeder := { s.feeder with acts := s.feeder.acts.set k a, half := k } }, Pass.ok a)
    if g.func = 2 then
      let (first, win) := j.convWindow g h rows
      put s { tag := some tag, tile := p.tile, first := first, rows := win }
    else
      match samplesWork j p g h (rows.zipIdx.map fun e => (e.1, p.tile + e.2)) [] s with
      | (s, .ok xs) => put s { tag := some tag, tile := p.tile, rows := xs }
      | (s, .stop st d) => (s, .stop st d)
      | (s, .wait) => (s, .wait)

/-- A group of zeros: a padding row of CONV1D reads as 0 (R239). -/
def zeroGroups (h : ActShape) : List OpGroup := List.replicate (ceilDiv h.elems h.group) { els := padGroup h.group [], scale := some .one }

/-- The row of a tile of CONV1D at output position `t`. -/
def convRow (c : ConvParam) (h : ActShape) (a : ActHalf) (len t : Nat) : ActRow :=
  let taps := (List.range c.kw).map (c.tap len t)
  let parts := taps.map fun r => match r with
    | none => some (zeroGroups h)
    | some r => (a.rows.getD (r - a.first) none).map fun b => (h.decode b).flatten
  { sample := if parts.all (·.isSome) then some (parts.reduceOption.flatten) else none
    steps := (taps.filter (·.isSome)).length * h.elems }

/-! ## Tiles -/

/-- Bias values of columns [a, b) (R219, R225). -/
def biasWork (c : CmdId) (w : WeightSet) (a b : Nat) : Work (List (Option F32)) := fun s =>
  if w.bias = false then (s, .ok (List.replicate (b - a) none))
  else
    match s.readVa c (s.weightSpace c w) (s.whoJob c) (u64 (w.biasBase + 4 * a)) (4 * (b - a)) with
    | (s, .ok bs) => (s, .ok ((List.range (b - a)).map fun i => some (BitVec.ofNat 32 (field bs (4 * i) 4))))
    | (s, r) => (s, r.pass)

/-- A weight as BWD_X takes it: its value converted to B16 by round to odd (R235). -/
def backWeight (g : OpGroup) (m : Nat) : Option Exact :=
  match (g.els.getD m none), g.scale with
  | some x, some sc => (b16Value (fmtB16.round .odd (x.mul sc)).1).exact?
  | _, _ => none

/-- Groups of 32 of plain values (R235, R236). -/
def plainGroups (l : List (Option Exact)) : List OpGroup :=
  (chunksOf 32 l (l.length + 1)).map fun els => { els := padGroup 32 els, scale := some .one }

/-- Column k of Wᵀ: row k of the weight set, along N in groups of 32 (R235). -/
def backColumn (w : WeightSet) (cols : List (List OpGroup)) (k : Nat) : List OpGroup :=
  plainGroups (cols.map fun col => match col[k / w.groupLen]? with
    | some g => backWeight g (k % w.groupLen)
    | none => none)

/-- The columns of column tile `t` of a FWD or CONV1D stage, with their bias, from an array's weight buffer (R220, R225). -/
def fwdColumns (c : CmdId) (w : WeightSet) (tag : StageTag) (n : Fin 4) (t : Nat) : Work (List (List OpGroup) × List (Option F32)) :=
  (loadTile c n tag w t).andThen fun bs =>
    (biasWork c w (128 * t) (min (128 * t + 128) w.n)).andThen fun bias => Work.ret (tileColumns w bs t, bias)

/-- The columns of output tile `t` of BWD_X: rows of the weight set, over all its column tiles (R235). -/
def backColumns (c : CmdId) (w : WeightSet) (tag : StageTag) (n : Fin 4) (t : Nat) : Work (List (List OpGroup) × List (Option F32)) :=
  (loadTiles c n tag w (List.range (ceilDiv w.n 128)) []).andThen fun tiles =>
    let all := columnsOf w tiles w.n
    let cols := (List.range (min 128 (w.k - 128 * t))).map fun i => backColumn w all (128 * t + i)
    Work.ret (cols, cols.map fun _ => none)

/-- The columns of each array of a pass, from column tile `t0` on. -/
def passColumns (f : Fin 4 → Nat → Work (List (List OpGroup) × List (Option F32))) (ns : List (Fin 4)) (t0 : Nat)
    (acc : List (List (List OpGroup) × List (Option F32))) : Work (List (List (List OpGroup) × List (Option F32))) :=
  match ns with
  | [] => Work.ret acc
  | n :: rest => (f n t0).andThen fun x => passColumns f rest (t0 + 1) (acc ++ [x])

/-- A column of a WGRAD operand along the samples: codes of a B16 or H16 area, `n` to a sample (R236). -/
def gradColumn (f n count : Nat) (b : List Byte) (k : Nat) : List OpGroup :=
  plainGroups ((List.range count).map fun i => operandOf f 0 (field b (2 * (i * n + k)) 2))

/-- A WGRAD tile: rows k and columns j of the sum over the samples; X is in XFMT and dY in the stage's input format (R236, R348). -/
def wgradTile (j : Job) (g : StageDesc) (ns : List (Fin 4)) (t0 : Nat) (rows : List (Nat × Nat)) : Work TileOut := fun s =>
  let k := wgradK g.param
  let n := wgradN g.param
  let m := pktCount j.pkt
  let f := (projBlock j.block).xfmt
  ((operandWork j.id j.pkt (pktD0 j.pkt) 0 (2 * m * k)).andThen fun x =>
    (operandWork j.id j.pkt (projBlock j.block).dy 0 (2 * m * n)).andThen fun dy =>
      let steps := roundUp m 32
      let rs := rows.map fun r => ({ sample := some (gradColumn f k m x r.1), steps := steps } : ActRow)
      let cols := ns.zipIdx.map fun e =>
        let cs := (List.range (min 128 (n - 128 * (t0 + e.2)))).map fun i => gradColumn g.ifmt n m dy (128 * (t0 + e.2) + i)
        (cs, cs.map fun _ => (none : Option F32))
      Work.ret (tileOut .w16 g.outfn s.zgate steps rs cols)) s

/-- The pairs of INTERACT, in its order (R237). -/
def interPairs (f : Nat) : List (Nat × Nat) :=
  ((List.range f).map fun a => ((List.range f).filter fun b => decide (a < b)).map fun b => (a, b)).flatten

/-- The cells of the samples of one array of INTERACT, on its diagonal blocks: row f and column g see elements of v_f and v_g (R237,
R238). -/
def interPart (g : StageDesc) (zgate : Bool) (xs : List (Option (List (List OpGroup)))) : ArrayPart :=
  let f := interF g.param
  let steps := roundUp (interD g.param) 32
  let blk := interBlock f
  let vecs := xs.map fun r => r.getD []
  let live := fun (vs : List (List OpGroup)) => (vs.map fun a => (vs.map fun b => if zgate then liveMacs a b else steps).foldl (· + ·) 0).foldl (· + ·) 0
  { cells := (vecs.zipIdx.map fun e => (e.1.zipIdx.map fun a => e.1.zipIdx.map fun b =>
      (e.2 * blk + a.2, e.2 * blk + b.2, stageElem (pathOf g.ifmt) a.1 b.1 none g.outfn)).flatten).flatten
    gated := 16384 * steps - (vecs.map live).foldl (· + ·) 0 }

/-- An INTERACT tile: each array holds 128 ÷ F' samples (R237, R238). -/
def interTile (g : StageDesc) (zgate : Bool) (xs : List (Option (List (List OpGroup)))) : TileOut :=
  let pairs := interPairs (interF g.param)
  { out := xs.map fun r => match r with
      | none => pairs.map fun _ => { val := f32NaN }
      | some vs => pairs.map fun e => stageElem (pathOf g.ifmt) (vs.getD e.1 []) (vs.getD e.2 []) none g.outfn
    parts := (chunksOf g.perArray xs (xs.length + 1)).map (interPart g zgate)
    dead := (xs.zipIdx.filter fun e => e.1.isNone).map (·.2)
    steps := roundUp (interD g.param) 32 }

/-- The work of a tile on arrays `ns`: its rows, from column tile `t0` on. -/
def tileWork (j : Job) (p : ProjJob) (g : StageDesc) (rows : List (Nat × Nat)) (ns : List (Fin 4)) (t0 : Nat) : Work TileOut := fun s =>
  let w := s.layerWset j p
  let h := s.actShape j p g
  let c := j.id
  if g.func = 4 then wgradTile j g ns t0 rows s
  else
    ((actsWork j p g h rows).andThen fun a =>
      let one := fun (i : Nat) => (a.rows.getD i none).map h.decode
      if g.func = 1 then Work.ret (interTile g s.zgate ((List.range rows.length).map one))
      else
        let steps := if g.func = 3 then roundUp w.n 32 else w.kp
        let rs := rows.zipIdx.map fun e =>
          if g.func = 2 then convRow (convParam g.param) h a (j.bagLen e.1.1) e.1.2
          else ({ sample := (one e.2).map (·.flatten), steps := steps } : ActRow)
        (passColumns (if g.func = 3 then backColumns c w (j.tag p) else fwdColumns c w (j.tag p)) ns t0 []).andThen fun cols =>
          Work.ret (tileOut (if g.func = 3 then .w16 else pathOf w.fmt) g.outfn s.zgate steps rs cols)) s

/-! ## Outputs -/

/-- The output format of a command (R345, R348). -/
def Job.outFmt (j : Job) : Nat := if isBagOp (pktOpcode j.pkt) then opFmt j.pkt else bitsOf (pktOparam j.pkt) 3 0

/-- Where a row's outputs start in D2's area, in elements: rows are packed, a convolution's sample holding as many positions as its
longest (R346; log entry 35). -/
def Job.outAt (j : Job) (n : Nat) (r : Nat × Nat) : Nat :=
  let most := if j.isConv then (j.sampleRows.map fun e => e.2 + 1).foldl Nat.max 1 else 1
  (r.1 * most + r.2) * n

/-- The bags of a row's sample. -/
def Job.rowBags (j : Job) (r : Nat × Nat) : List Nat := (List.range j.sampleBags).map fun i => r.1 * j.sampleBags + i

/-- The table that the outputs of a row count against: of its first bag that names one. A PROJECT's rows have none (R62, R134). -/
def Job.rowTable (j : Job) (m : Sparse Nat) (r : Nat × Nat) : Option Nat :=
  if isBagOp (pktOpcode j.pkt) then (j.rowBags r).findSome? fun b => kget m b else none

/-- Counts of outputs against a table, where there is one. -/
def State.countAgainst (s : State) (t : Option Nat) (n k : Nat) : State :=
  match t with
  | some t => s.countTable t n k
  | none => s

/-- The outputs of the last stage are converted, written, and counted where they were clamped (R62, R146, R227). -/
def State.writeOuts (s : State) (j : Job) (n col : Nat) (rows : List ((Nat × Nat) × List F32)) : State :=
  let f := j.outFmt
  rows.foldl (fun (s : State) e =>
    if j.rowLost e.1 then s
    else
      let cs := e.2.map fun y => convertOut f { val := f32Value y }
      let s := s.countAgainst (j.rowTable j.lowTab e.1) 10 (cs.filter (·.2)).length
      match refVa (pktD2 j.pkt) with
      | none => s
      | some va => s.writeVa j.id (s.feederSpace j.id) (va + (j.outAt n e.1 + col) * outWidth f) ((cs.map fun c => leBytes (outWidth f) c.1).flatten)) s

/-- The rows of a tile enter the scratch area in the next stage's input format; a row that cannot be encoded has no sample from there on
(R226, R233). -/
def State.writeScratch (s : State) (j : Job) (p : ProjJob) (next : StageDesc) (rows : List ((Nat × Nat) × List F32)) : State × List Nat :=
  let h := s.actShape j { p with layer := p.layer + 1 } next
  match refVa j.scratch with
  | none => (s, [])
  | some va =>
    rows.zipIdx.foldl (fun (acc : State × List Nat) e =>
      let i := p.tile + e.2
      match if j.rowLost e.1.1 then none else h.encode e.1.2 with
      | none => (acc.1, acc.2 ++ [i])
      | some b => (acc.1.writeVa j.id (acc.1.feederSpace j.id) (va + i * h.scratchBytes) (h.toScratch b), acc.2)) (s, [])

/-! ## Layers (R201, R233) -/

/-- A layer begins at the epoch in force, its weights loaded, once it may (R201, R232, R233). -/
def State.startLayer (s : State) (j : Job) (p : ProjJob) : State :=
  let c := j.id
  match s.gate j with
  | .torn => s.fail c stAborted
  | .held => s
  | .full => s
  | .go =>
    let sets := s.stageSets j p.layer
    let layer := s.newLayer j p ((sets.head?).map s.epochOf)
    match j.chain[p.layer]? with
    | none => s
    | some g =>
      match (preload j layer g).whole s with
      | (s, .wait) => s
      | (s, .stop st d) => s.fail c st d
      | (s, .ok _) => (s.begin c).updJob c fun j => { j with readsEnded := false, epochs := s.epochsOf sets, proj := some layer }

/-- A number for a field that the spec gives no value. -/
def State.openOr (s : State) (x : Option Nat) : State × Nat :=
  match x with
  | some n => (s, n)
  | none => (s.took, (Config.openWord s.fresh).toNat % 2 ^ 32)

/-- A chain ends: form P, and the status of R148 and R245 (R356). A layer that reads no table set has no epoch: the field is open (log
entry 37). -/
def State.endChain (s : State) (c : CmdId) : State :=
  match s.job? c with
  | none => s
  | some j =>
    let p := j.proj.getD {}
    let (s, first) := s.openOr p.firstEpoch
    let (s, last) := s.openOr p.lastEpoch
    let s := s.updJob c fun j => { j with words := [p.rerunTiles, p.rerunElems, first, last, j.drops] }
    let s := if p.rerunTiles = 0 then s else s.cause c stWide
    let s := if j.clamp = 0 then s else s.cause c stClamped
    let s := if j.drops = 0 ∧ j.empty = 0 then s else s.cause c stDrops
    (s.endReads c).finish c

/-- A layer ends: the next begins by its own row, or the command ends (R233). -/
def State.endLayer (s : State) (j : Job) (p : ProjJob) : State :=
  let c := j.id
  match j.chain[p.layer + 1]? with
  | none => (s.updJob c fun j => { j with proj := some p }).endChain c
  | some _ => (s.updJob c fun j => { j with proj := some { p with layer := p.layer + 1, inLayer := false, tile := 0, pass := 0, y := [] } }).endReads c

/-- Outputs of rows that were not encoded are counted as non-finite ones, against the table of the lowest position whose contribution
is not finite (R134, R226). -/
def State.countDead (s : State) (j : Job) (rows : List (Nat × Nat)) (dead : List Nat) (cols : Nat) : State :=
  dead.foldl (fun s i => match rows[i]? with
    | some r => if j.rowLost r then s else s.countAgainst (j.rowTable j.badTab r) 6 cols
    | none => s) s

/-- A tile that has run: its results are kept or written, and the next tile, or the end of the layer, follows (R227, R231, R233). -/
def State.tileDone (s : State) (j : Job) (p : ProjJob) (g : StageDesc) (rows : List (Nat × Nat)) (t1 n : Nat) (o : TileOut) : State :=
  let c := j.id
  let ys := o.out.map fun row => row.map (·.val)
  let s := s.countDead j rows o.dead (((ys.head?).map (·.length)).getD 0)
  let next := j.chain[p.layer + 1]?
  let s := if next.isNone then s.writeOuts j n (128 * p.pass) (rows.zip ys) else s
  let rowEnd := decide (n ≤ 128 * t1) || g.func == 1
  let y := if next.isNone then [] else ys.zipIdx.map fun e => p.y.getD e.2 [] ++ e.1
  let p := { p with rerunTiles := p.rerunTiles + o.reruns.1, rerunElems := p.rerunElems + o.reruns.2 }
  if rowEnd = false then s.updJob c fun j => { j with proj := some { p with y := y, pass := t1 } }
  else
    let (s, lost) := match next with
      | some x => s.writeScratch j p x (rows.zip y)
      | none => (s, [])
    let p := { p with y := [], dead := p.dead ++ lost, tile := p.tile + rows.length, pass := 0 }
    if j.sampleRows.length ≤ p.tile then s.endLayer j p else s.updJob c fun j => { j with proj := some p }

/-- The next tile of a command runs to its end on the arrays dealt to it (R225, R231, R244). -/
def State.runTile (s : State) (j : Job) (p : ProjJob) (g : StageDesc) (d : Deal) (es : List ArrayEvent) : State :=
  let rows := j.tileRows p d.arrays.length
  let n := s.stageCols j p.layer
  let t1 := min (p.pass + d.arrays.length) (ceilDiv n 128)
  match (tileWork j p g rows d.arrays p.pass).whole (s.loseTiles (j.tag p) es) with
  | (t, .wait) => s.onlyFaults t
  | (s, .stop st x) => if reloads es then s.fail j.id stAborted else s.fail j.id st x
  | (s, .ok o) =>
    let s := es.foldl (fun s e => s.arrayEvent d.arrays e) ((s.countTile d o).endDeal d.user)
    if reloadFails es then s.fail j.id stAborted else s.tileDone j p g rows t1 n o

/-! ## LR rows (R241) -/

/-- The LR rows of a tile that are still awaited, with their bytes. -/
def State.lrRows (s : State) (x : LrTile) : List (Nat × Fetch × List Byte) :=
  x.rows.filterMap fun e => ((s.stream e.1).fetches.find? (·.id == e.2)).bind fun f => (f.bytes f.va f.size).map fun b => (e.1, f, b)

/-- The rows of an LR tile end with an error: their bags are lost. -/
def State.lrFail (s : State) (rows : List (Nat × Fetch × List Byte)) (st : Nat) (d : ErrDetail) : State :=
  rows.foldl (fun s e => s.abortFrom e.1 e.2.1.ref.bag st d) { s with feeder := { s.feeder with lr := none } }

/-- The work of a pass of an LR tile: the coefficient rows are the samples, and the basis the weight set (R241). -/
def lrWork (c : CmdId) (d : TableDesc) (w : WeightSet) (rows : List (List Byte)) (ns : List (Fin 4)) (t0 : Nat) : Work TileOut := fun s =>
  let rs := rows.map fun b => ({ sample := some (lrSample d b (pathOf w.fmt)), steps := w.kp } : ActRow)
  ((passColumns (fwdColumns c { w with bias := false } ⟨none, d.lrBasis⟩) ns t0 []).andThen fun cols =>
    Work.ret (tileOut (pathOf w.fmt) 0 s.zgate w.kp rs cols)) s

/-- A row of an LR table that has been reconstructed reaches the lanes, its outlier columns from its side entry (R53, R55, R241). -/
def State.lrLand (s : State) (t : Table) (k : Nat) (f : Fetch) (es : List (F32 × Bool)) : State :=
  let row := es.map fun e => ({ val := e.1, sat := e.2, bad := !f32Finite e.1 } : Deq)
  s.landRow k t f (mergeSide t.desc row (f.side.bind fun va => f.bytes va 16))

/-- The next tile of the LR reconstruction runs to its end (R241, R244). -/
def State.runLr (s : State) (d : Deal) (es : List ArrayEvent) : State :=
  match s.feeder.lr with
  | none => s
  | some x =>
    let rows := s.lrRows x
    let drop := ({ s with feeder := { s.feeder with lr := none } } : State).endDeal .lr
    match rows, s.table? x.table with
    | e :: _, some t =>
      (match s.wset? t.desc.lrBasis with
       | none => drop
       | some w =>
         match (lrWork e.2.1.ref.src.cmd t.desc w (rows.map (·.2.2)) d.arrays x.pass).whole (s.loseTiles ⟨none, t.desc.lrBasis⟩ es) with
         | (u, .wait) => s.onlyFaults u
         | (s, .stop st z) => (s.endDeal .lr).lrFail rows (if reloads es then stAborted else st) z
         | (s, .ok o) =>
           let s := es.foldl (fun s e => s.arrayEvent d.arrays e) ((s.countTile d o).endDeal .lr)
           if reloadFails es then s.lrFail rows stAborted {}
           else
             let out := o.out.zipIdx.map fun r => x.out.getD r.2 [] ++ r.1.map fun c => (c.val, c.big)
             let pass := x.pass + d.arrays.length
             if pass < s.lrTiles x.table then
               { s with feeder := { s.feeder with lr := some { x with rows := rows.map (fun e => (e.1, e.2.1.id)), pass := pass, out := out } } }
             else
               (rows.zip out).foldl (fun s r => s.lrLand t r.1.1 r.1.2.1 r.2) { s with feeder := { s.feeder with lr := none } })
    | _, _ => drop

/-! ## The rows -/

/-- PROJECT: a chain of stages on the arrays; its layers start one by one (R233). -/
def execProject (c : CmdId) (s : State) : Out :=
  cmdRow s c opProject fun j s =>
    match j.proj with
    | none => (s.notStarted c .running).updJob c fun j => { j with proj := some {} }
    | some p => if p.inLayer then s else s.startLayer j p

/-- LAYER_START: the next layer of a chain begins once the one before it has ended for every sample, its results in the scratch area, or
is held for an apply window (R201, R233). -/
def execLayerStart (c : CmdId) (s : State) : Out :=
  actSWhen s (!s.faultWait (.job c)) fun s =>
    match s.job? c with
    | none => s
    | some j =>
      match j.proj with
      | none => s
      | some p => if p.inLayer = false ∧ j.outs = [] ∧ (j.phase = .running ∨ j.phase = .waiting) then s.startLayer j p else s

/-- The tile of a command ends. -/
def State.cmdTileEnd (s : State) (c : CmdId) (d : Deal) (es : List ArrayEvent) : State :=
  match s.job? c with
  | none => s
  | some j =>
    match j.proj with
    | none => s
    | some p =>
      match j.chain[p.layer]? with
      | some g => if s.faultWait (.job c) then s else s.runTile j p g d es
      | none => s

/-- TILE_END: the tile of a user that is in progress ends on its arrays, with what R244 names or nothing (R231, R241, R243). -/
def execTileEnd (u : TileUser) (es : List ArrayEvent) (s : State) : Out :=
  actS s fun s =>
    match s.deal? u with
    | none => s
    | some d =>
      if eventsFit d.arrays es = false then s
      else
        match u with
        | .cmd c => s.cmdTileEnd c d es
        | .lr => s.runLr d es

/-- A write of PA_CTL: one that would clear every bit of ARRAY_EN is ignored, and a cleared bit disables its array until reset (R246,
R250). -/
def State.writePaCtl (s : State) (v : BitVec 32) : State :=
  if bitsOf v.toNat 7 4 = 0 then s
  else
    allArrays.foldl (fun (s : State) n => if bitOf v.toNat (4 + n.val) then s else s.updArray n fun x => { x with disabled := true })
      (s.setReg 0xA0100 (v &&& 0xF4))

/-- ARRAY_EN: a write of PA_CTL (R250). -/
def execArrayEn (r : Requester) (v : BitVec 32) (s : State) : Out := actReg s 0xA0100 r (·.writePaCtl v)

end Sys2Proof.Machine
end

