-- ==== Sys2Proof/Machine/Dump.lean ====
section
/-! DEFINITION. The state spaces that DEBUG READ copies (R458): their bytes and their scope. The values are those State holds; the layouts
that the spec does not give are DESIGN CHOICE (log entry 41). -/

namespace Sys2Proof.Machine

/-! ## Space 1: lane accumulators (R132, R458) -/

/-- The positions of a stream's current bag that it has passed: none of their references waits in its reference queue. -/
def Stream.passed (x : Stream) : Nat :=
  x.queue.foldl (fun p q => match q with
    | .ref r => if r.bag = x.arch.bag then min p r.pos else p
    | .bagEnd _ _ => p) (x.arch.entry * 2 ^ x.fanLog2 + x.arch.k)

/-- Whether every position of a subtree has been passed and its kept rows have arrived. -/
def BagAcc.nodeDone (a : BagAcc) (passed lo l : Nat) : Bool :=
  decide (lo + 2 ^ l ≤ passed) &&
    a.kept.all fun e => decide (e.2 < lo) || decide (lo + 2 ^ l ≤ e.2) || a.leaves.any fun x => x.pos == e.2

/-- The first subtree of a level, in a piece that begins at `lo`, that is formed while its parent is not (R132, R133). -/
def BagAcc.openNode (a : BagAcc) (passed lo l : Nat) : Option Nat :=
  ((List.range (2 ^ (12 - l))).map fun i => lo + i * 2 ^ l).find? fun p =>
    a.nodeDone passed p l && (l == 12 || !a.nodeDone passed (p / 2 ^ (l + 1) * 2 ^ (l + 1)) (l + 1))

/-- The partial result of an element over a subtree: an F32, or an X64 sum; nothing where the subtree is ABSENT (R132, R143). -/
def PoolSpec.nodeValue (p : PoolSpec) (a : BagAcc) (lo l i : Nat) : Nat :=
  let cs := (a.leaves.filter fun x => decide (lo ≤ x.pos) && decide (x.pos < lo + 2 ^ l)).map fun x => contribOf (p.mode == 3) x i
  if p.det then
    match sumAligned (cs.map fun c => (alignX64 p.winT c.exact).1) with
    | some n => (BitVec.ofInt 64 n).toNat
    | none => 2 ^ 63
  else ((canonTree (cs.map fun c => (c.pos, c.val)) lo l).getD 0).toNat

/-- The lane accumulators of a stream: for each level of the tree whether one is held, and an F32 or X64 for each element. -/
def State.laneDump (s : State) (k : Nat) : List Byte :=
  let x := s.stream k
  match s.job? x.arch.cmd with
  | none => []
  | some j =>
    let spec := s.poolSpec j
    let acc := j.bagAcc x.arch.bag
    let lo := x.passed / 4096 * 4096
    ((List.range 13).map fun l =>
      let node := acc.openNode x.passed lo l
      leBytes 4 (bit1 node.isSome) ++ ((List.range spec.elems).map fun i =>
        leBytes (if spec.det then 8 else 4) (match node with
          | some p => spec.nodeValue acc p l i
          | none => 0)).flatten).flatten

/-! ## Space 2: heavy-row accumulators (R171, R458) -/

/-- The chosen heavy rows in the order of their accumulators, each with a command that adds to it, its table and its row. -/
def State.heavyRows (s : State) : List (CmdId × ScatterJob × Nat × Nat) :=
  (s.jobs.map fun j => match j.scatter with
    | some x => if ((s.heavyShare j.id x).head?.map (·.id)) = some j.id then (s.heavyOf x).rows.map fun r => (j.id, x, r.1, r.2) else []
    | none => []).flatten

/-- An accumulator of a quadrant: X64 values of each element, then its contributions and those truncated. -/
def State.heavyDump (s : State) (q k : Nat) : List Byte :=
  match s.heavyRows[k]? with
  | none => []
  | some (c, x, t, r) =>
    let segs := (s.accumulators c x).filter fun a => a.quad == q && a.table == t && a.row == r
    let elems := ((s.table? t).map (·.desc.elems)).getD 0
    let val := fun (i : Nat) => match segs.find? (·.seg == i / 64) with
      | some a => (match a.vals.getD (i % 64) (some 0) with
        | some n => (BitVec.ofInt 64 n).toNat
        | none => 2 ^ 63)
      | none => 0
    let total := fun (f : StageAdd → Int) => leBytes 8 (BitVec.ofInt 64 (segs.foldl (fun n a => n + f a) 0)).toNat
    ((List.range elems).map fun i => leBytes 8 (val i)).flatten ++ total (·.occur) ++ total (·.trunc)

/-! ## Spaces 3 to 8 (R458) -/

/-- The cells of one row of an array: the i32 group accumulator and both F32 accumulators of each (R216). -/
def State.cellDump (s : State) (p : Fin 4) (row : Nat) : List Byte :=
  let cells := sget [] (s.array p).cells row
  ((List.range 128).map fun i =>
    let y := cells.getD i {}
    leBytes 4 y.group.toNat ++ leBytes 4 y.acc.toNat ++ leBytes 4 y.drain.toNat).flatten

/-- A translation: its context, segment, W and run size, page number and address (R316). -/
def TlbEntry.dump (e : TlbEntry) : List Byte :=
  leBytes 2 e.ctx ++ leBytes 1 e.seg ++ leBytes 1 (bit1 e.w + 2 * e.runLog2) ++ zeros 4 ++ leBytes 8 e.page ++ leBytes 8 e.addr

/-- The translations of a TLB within a scope, zero for the others (R458). -/
def tlbDump (es : List TlbEntry) (scope : Nat) : List Byte :=
  (es.map fun e => if scope = 0 ∨ e.ctx = scope then e.dump else zeros 24).flatten

/-- A position record (R114). CUR is 0 while NO_ENTRY is 1 (DESIGN CHOICE: log entry 115). -/
def Arch.record (a : Arch) : List Byte :=
  let lc := fun (l : LoopCtr) => leBytes 8 (l.count.toNat + l.start.toNat * 2 ^ 32 + l.last.toNat * 2 ^ 40 + bit1 l.active * 2 ^ 48)
  leBytes 1 a.pc.toNat ++ leBytes 1 (a.k + 32 * bit1 (a.cur == none)) ++ leBytes 2 a.v.toNat ++ leBytes 4 a.mode.toNat ++
    leBytes 4 a.w.toNat ++ leBytes 4 a.gen ++ leBytes 8 a.bag ++ leBytes 4 a.bagsLeft ++ leBytes 4 a.entry ++ leBytes 4 a.entryEnd ++
    leBytes 4 (a.cur.getD 0) ++ (a.lc.toList.map lc).flatten ++ (a.g.toList.map fun g => leBytes 8 g.toNat).flatten ++
    leBytes 8 (u64 (a.base + a.entry)) ++ leBytes 4 a.handle ++ leBytes 4 a.cmd.ctx ++
    leBytes 8 (a.cmd.seq + a.cmd.queue * 2 ^ 32) ++ zeros 40

/-- A tag entry (R254): its fields, with even parity over each half. -/
def Way.tagEntry (x : Way) : Nat :=
  let lo := x.tag % 2 ^ 19
  let hi := x.tag / 2 ^ 19 + x.sv.toNat * 2 ^ 2 + x.sd.toNat * 2 ^ 6 + bit1 x.mir * 2 ^ 10 + x.pway * 2 ^ 11 + x.cls * 2 ^ 15
  lo + hi * 2 ^ 19 + popCount lo 19 % 2 * 2 ^ 38 + popCount hi 19 % 2 * 2 ^ 39

/-- The owner of the frame that a line lies in, for the scope rule (R458; log entry 41). -/
def State.lineOwner (s : State) (a : Nat) : Option Nat := (s.grantEntry a).map fun e => bitsOf e 11 0

/-- The sixteen tag entries and P of a set, those outside the scope zero (R254, R458; log entry 41). -/
def State.tagDump (s : State) (set scope : Nat) : List Byte :=
  (ways16.map fun w =>
    let x := s.way set w
    let home := if x.mir then mirrorSet set else set
    leBytes 8 (if scope = 0 ∨ s.lineOwner (lineFrom home x.tag * 256) = some scope then x.tagEntry else 0)).flatten ++
    leBytes 2 (sget 0 s.rc.plru set).toNat

/-- The state of a space as bytes; a checkpoint that was never taken is free bytes (R458; log entry 41). -/
def State.spaceBytes (s : State) (space index scope : Nat) : List Byte :=
  let x := s.stream index
  if space = 1 then s.laneDump index
  else if space = 2 then s.heavyDump (index / 32) (index % 32)
  else if space = 3 then s.cellDump (Fin.ofNat 4 (index / 128)) (index % 128)
  else if space = 4 then
    let cp := fun (a : Option Arch) (k : Nat) => match a with
      | some a => a.record
      | none => openBytes (s.fresh + 65536 + 256 * k) 256
    let it := x.item.bind s.item?
    x.arch.record ++ cp (it.bind (·.committed)) 0 ++ cp (it.bind (·.pending)) 1
  else if space = 5 then s.tagDump index scope
  else if space = 6 then tlbDump (s.slice index).tlb scope
  else if space = 7 then tlbDump (sget [] s.tlb2 index) scope
  else if space = 8 then ((List.range 64).map fun i => leBytes 4 (x.prog.getD i 0).toNat).flatten
  else []

/-- Indexes of a space (R458). -/
def spaceSize (space : Nat) : Nat :=
  if space = 1 ∨ space = 2 ∨ space = 4 ∨ space = 8 then 128
  else if space = 3 then 512
  else if space = 5 then 2 ^ 21
  else if space = 6 then 16
  else if space = 7 then 2048
  else 0

/-- Whether the state of an index belongs to contexts of the scope; spaces 5 to 7 are filtered instead (R458). -/
def State.inScope (s : State) (space index : Nat) : Bool :=
  let scope := s.dbg.scope
  scope == 0 ||
    (if space = 1 ∨ space = 4 ∨ space = 8 then (s.stream index).arch.cmd.ctx == scope
     else if space = 2 then (match s.heavyRows[index % 32]? with
       | some e => e.1.ctx == scope
       | none => true)
     else if space = 3 then s.jobs.all fun j => j.proj == none || j.id.ctx == scope
     else true)

end Sys2Proof.Machine
end

