-- ==== Sys2Proof/Machine/Observe.lean ====
section
/-! DEFINITION. Counters, trace and hang analysis (R442 to R459): QUERY_COUNTERS, PC_CAPTURE, TRACE_CTL, WAIT_GRAPH, the watchdog's
HANG_CHECK, and DEBUG with its gate. -/

namespace Sys2Proof.Machine

/-! ## Counters (R445 to R449) -/

/-- Clocks of a domain in 80 ns (R33). -/
def Domain.rate (d : Domain) : Nat :=
  match d with
  | .core => 160
  | .cache => 160
  | .mem => 125
  | .fab => 125
  | .cap => 80
  | .ctl => 96

/-- The cycles of a domain since the cold reset (R33, R442). -/
def State.cyclesOf (s : State) (d : Domain) : Nat :=
  match s.clocks.start.get d.num with
  | some t => (s.time - t) * d.rate / 80
  | none => 0

/-- The domain of a unit, in the order of R445, and whether its clock runs: a port's does not where its PLL has not locked (R407, R442). -/
def counterDomain (k : Nat) : Domain := if k < 20 then .core else if k < 36 then .cache else if k < 68 then .mem else if k < 76 then .cap else .fab
def State.unitRuns (s : State) (k : Nat) : Bool :=
  if k < 68 then true else if k < 76 then !(s.cap.get (Fin.ofNat 8 (k - 68))).noPll else !(s.fport (Fin.ofNat 8 (k - 76))).noPll

/-- Cycles among `k` counters, each counted once: which it falls in is free (R442, R443; DESIGN CHOICE: log entry 38). -/
def splitCycles (n fresh k : Nat) : List Nat :=
  match k with
  | 0 => []
  | 1 => [n]
  | k + 1 => let a := Config.free fresh % (n + 1); a :: splitCycles (n - a) (fresh + 1) k

/-- Amounts added to the first counters of an object. -/
def addCycles (cs : Sparse Nat) (group obj : Nat) (l : List Nat) : Sparse Nat :=
  l.zipIdx.foldl (fun cs e => if e.1 = 0 then cs else sinsert cs (ctrKey group obj e.2) (sget 0 cs (ctrKey group obj e.2) + e.1)) cs

/-- The free values that the cycle counters take: 11 for each of 84 units and 128 streams. -/
def cycleTakes : Nat := 11 * 84 + 11 * 128

/-- The cycle counters up to now. Every cycle of a unit is BUSY, IDLE or a STALL of one reason, so that these add up to the cycles of its domain;
a stream's cycles are RUN or HALTED or neither, and STALLs of one reason or none (R442, R443). -/
def State.accrue (s : State) : State :=
  let n := fun (d : Domain) => s.cyclesOf d - s.clocks.counted.get d.num
  let cs := (List.range 84).foldl (fun cs k =>
    if s.unitRuns k then addCycles cs 0 k (splitCycles (n (counterDomain k)) (s.fresh + 11 * k) 11) else cs) s.counters
  let cs := (List.range 128).foldl (fun cs k =>
    let f := s.fresh + 11 * (84 + k)
    addCycles cs 1 k ((splitCycles (n .core) f 3).take 2 ++ (splitCycles (n .core) (f + 2) 10).take 9)) cs
  let all := ([.core, .cache, .mem, .fab, .cap, .ctl] : List Domain)
  { s with counters := cs, fresh := s.fresh + cycleTakes, clocks := { s.clocks with counted := all.foldl (fun v d => v.set d.num (s.cyclesOf d)) s.clocks.counted } }

/-- Consecutive counters of consecutive objects of a group. -/
def objectEntries (cs : Sparse Nat) (group first n each : Nat) : List Nat :=
  ((List.range n).map fun k => (List.range each).map fun i => sget 0 cs (ctrKey group (first + k) i)).flatten

/-- The entries of a selector; `own` stands for instance 0 of group 2 (R445). -/
def selEntries (cs : Sparse Nat) (own sel : Nat) : List Nat :=
  let g := sel / 2 ^ 12
  let i := sel % 2 ^ 12
  if g = 0 then objectEntries cs 0 0 84 12
  else if g = 1 then objectEntries cs 1 0 128 12
  else if g = 2 then objectEntries cs 2 (if i = 0 then own else i) 1 16
  else if g = 3 then objectEntries cs 3 (16 * i) 16 24
  else if g = 4 then objectEntries cs 4 (16 * i) 16 12
  else if g = 5 then objectEntries cs 5 0 1 64
  else if g = 6 then objectEntries cs 6 0 64 4
  else []

/-- The output of QUERY_COUNTERS: a header of 32 bytes and the entries (R445). -/
def queryBytes (sel time : Nat) (es : List Nat) : List Byte :=
  leBytes 2 sel ++ zeros 2 ++ leBytes 4 es.length ++ leBytes 8 time ++ zeros 16 ++ (es.map (leBytes 8)).flatten

/-- Free values taken. -/
def State.tookN (s : State) (n : Nat) : State := { s with fresh := s.fresh + n }

/-- QUERY_COUNTERS: one group's counters, captured at one time, are written to D2 (R445). -/
def execQueryCounters (c : CmdId) (s : State) : Out :=
  cmdRow s c opQuery fun j s =>
    let s := s.accrue
    let bs := queryBytes (pktOparam j.pkt) (s.now .ctl) (selEntries s.counters c.ctx (pktOparam j.pkt))
    let s := s.updJob c fun j => { j with value0 := bs.length }
    (s.writeVa c (s.cmdSpace c) ((refVa (pktD2 j.pkt)).getD 0) bs).complete c

/-- A capture of every counter for one requester (R35, R459). -/
def State.capture (s : State) (r : Requester) : State :=
  let s := s.accrue
  s.updReq r fun x => { x with capture := { time := s.now .ctl, counters := s.counters, taken := true } }

/-- PC_CAPTURE: a write of GO captures every counter for its path (R459). -/
def execPcCapture (r : Requester) (s : State) : Out := actReg s 0xC0000 r (·.capture r)

/-- The captured entry that a requester's PC_SEL names: PC_DATA. Nothing is captured before the first capture, and a register requester has no
context of its own (R459, PC_ register rules). -/
def ReqState.pcData (x : ReqState) : Nat :=
  let sel := x.pcSel.toNat % 2 ^ 16
  if x.capture.taken = true ∧ selectorOk sel ∧ sel ≠ 0x2000 then (selEntries x.capture.counters 0 sel).getD (x.pcSel.toNat / 2 ^ 16) 0 else 0

/-! ## TRACE_CTL (R451) -/

/-- A page of the ring that no record can be written to: its records are dropped and counted (R451; log entry 39). -/
def noPage : Nat := 2 ^ 64

/-- The pages of the ring are translated, in order, and held (R451). -/
def State.holdPages (s : State) (ctx : Nat) (vas : List Nat) (acc : List Nat) : State × Option (Nat × ErrDetail) × List Nat :=
  match vas with
  | [] => (s, none, acc)
  | va :: rest =>
    match s.xlate ctx va true with
    | (s, .ok pa _) => s.holdPages ctx rest (acc ++ [pa])
    | (s, .fault typ _ _ _) =>
      if typ = 1 then (s, some (stWalkError, { value := va, object := 0xFFFF }), []) else s.holdPages ctx rest (acc ++ [noPage])
    | (s, .protection why) => (s, some (stProtection, reason why), [])
    | (s, .walkError) => (s, some (stWalkError, { value := va, object := 0xFFFF }), [])

/-- The rules of a trace block (R451). -/
def traceRules (b : List Byte) : List FieldRule :=
  [blockRule b 0 8 (fun v => field b 9 1 == 0 || v % 4096 == 0), blockRule b 8 1 (fun v => decide (6 ≤ v) && decide (v ≤ 20)),
   blockRule b 9 1 (fun v => decide (v ≤ 1)), reservedRule b 18 6]

/-- The trace state that a TRACE_CTL sets: a new owner, and TAIL and HEAD at zero (R451). -/
def Trace.control (t : Trace) (b : List Byte) (ctx : Nat) (pages : List Nat) : Trace :=
  { t with
    en := field b 9 1 == 1, ctx := ctx, ring := field b 0 8, pages := pages, log2 := field b 8 1, types := field b 10 2
    minNs := field b 12 4, hangMs := field b 16 2, graph := field b 24 8, tail := 0, head := 0, phase := true, lost := 0
    lossCount := 0 }

/-- TRACE_CTL: tracing is set up for the issuer's context, or disabled (R451). -/
def execTraceCtl (c : CmdId) (s : State) : Out :=
  cmdRow s c opTraceCtl fun j s =>
    let b := j.block
    s.checked j (traceRules b) fun s =>
      let n := if field b 9 1 = 1 then 2 ^ field b 8 1 / 64 else 0
      match s.holdPages c.ctx ((List.range n).map fun i => field b 0 8 + 4096 * i) [] with
      | (s, some (st, d), _) => s.complete c st d
      | (s, none, pages) => { s with trace := s.trace.control b c.ctx pages }.complete c

/-! ## The wait-for graph (R455) -/

/-- An edge between two agents. -/
structure GEdge where
  src : Nat
  dst : Nat
  typ : Nat
  start : Nat
  object : Nat
  deriving DecidableEq, Repr

/-- The opcodes that firmware serves (R26, R343). -/
def firmwareOp (op : Nat) : Bool := !(op == opNop || isBagOp op || op == opProject)

/-- The handler core of a command: Plinth's mailbox for the commands that Plinth serves, else a control core of Armature's choice (R343, R353,
R453; log entry 5). -/
def Job.handler (j : Job) (pick : Nat) : Nat :=
  let op := pktOpcode j.pkt
  let sub := pktOparam j.pkt
  let plinth := op == opMapSegment || op == opDebug ||
    (op == opConfig && (sub == subContextCreate || sub == subContextDelete || sub == subGrant || sub == subAttest))
  agentFirmware (if plinth then 4 else pick % 4)

/-- An edge that firmware adds: its TYPE, START and OBJECT are not stated (log entry 40). -/
def firmwareEdge (fresh src dst : Nat) : GEdge :=
  { src := src, dst := dst, typ := (Config.openWord fresh).toNat % 256, start := (Config.openWord (fresh + 1)).toNat
    object := (Config.openWord (fresh + 2)).toNat }

/-- The pairs of agents of the firmware edges: commands that wait for their handler (those that the hardware parser passed on among them, R26), and table sets that a minimum epoch is awaited of, on
each of their APPLY_EPOCHs (R455). -/
def State.firmwarePairs (s : State) : List (Nat × Nat) :=
  let queued := s.jobs.filter fun j => !j.began && j.phase == .accepted && (j.passedOn || (j.parsed && firmwareOp (pktOpcode j.pkt)))
  let sets := ((s.jobs.map fun j => (j.heldBy.map (·.1)).filter fun h =>
    s.trace.waits.any fun w => w.typ == 2 && w.waiter == agentCmd j.id && w.holder == agentTset h).flatten).dedup
  (queued.map fun j => (agentCmd j.id, j.handler (Config.free (s.fresh + j.order)))) ++
    (sets.map fun h => (s.jobs.filter fun j => j.parsed && pktOpcode j.pkt == opApply && pktObj j.pkt == h && j.phase != .finishing).map fun j =>
      (agentTset h, agentCmd j.id)).flatten

/-- The edges of the graph: the open waits that have both agents, and firmware's own (R455). -/
def State.graphEdges (s : State) : List GEdge :=
  (s.trace.waits.filterMap fun w =>
    if w.waiter = 0 ∨ w.holder = 0 then none
    else some { src := w.waiter, dst := w.holder, typ := w.typ, start := w.start, object := w.object }) ++
    s.firmwarePairs.zipIdx.map fun (e, i) => firmwareEdge (s.fresh + 3 * i) e.1 e.2

/-- What the depth-first search has found: nodes visited, and the cycles as lists of edge numbers. -/
structure Search where
  seen : List Nat := []
  cycles : List (List Nat) := []
  deriving DecidableEq, Repr

/-- Depth-first search from a node; `path` holds the edges that led to it, the last first, each with the node it leaves. An edge to a node on
the path closes a cycle (R455). -/
def dfs (es : List (GEdge × Nat)) (fuel u : Nat) (path : List (Nat × Nat)) (x : Search) : Search :=
  match fuel with
  | 0 => x
  | fuel + 1 =>
    if x.seen.contains u then x
    else
      (es.filter fun e => e.1.src == u).foldl (fun (x : Search) e =>
        let path' := (u, e.2) :: path
        if path'.any (fun p => p.1 == e.1.dst) then
          let onIt := path'.take ((path'.findIdx fun p => p.1 == e.1.dst) + 1)
          { x with cycles := x.cycles ++ [(onIt.map (·.2)).reverse] }
        else dfs es fuel e.1.dst path' x) { x with seen := x.seen ++ [u] }

/-- The agents of the edges, in ascending order (R455; log entry 40). -/
def graphNodes (es : List GEdge) : List Nat := (es.map fun e => [e.src, e.dst]).flatten.foldl ninsert []

/-- A graph as it is written: its nodes, edges and cycles. -/
structure Graph where
  nodes : List Nat
  edges : List GEdge
  cycles : List (List Nat)
  truncated : Bool
  deriving DecidableEq, Repr

/-- The graph at this instant: at most 8,192 nodes and edges (R455). -/
def State.graph (s : State) : Graph :=
  let all := s.graphEdges
  let es := all.take 8192
  let nodes := (graphNodes es).take 8192
  let es := es.filter fun e => nodes.contains e.src && nodes.contains e.dst
  let x := nodes.foldl (fun (x : Search) u => dfs es.zipIdx (nodes.length + 1) u [] x) {}
  { nodes := nodes, edges := es, cycles := x.cycles, truncated := decide (es.length < all.length) }

/-- CYCLE of an edge: the lowest cycle that it is on, from 1 (R455; log entry 40). -/
def Graph.cycleOf (g : Graph) (i : Nat) : Nat :=
  match g.cycles.zipIdx.find? fun c => c.1.contains i with
  | some c => c.2 + 1
  | none => 0

/-- The bytes of a graph (R455). -/
def Graph.bytes (g : Graph) (time trigger : Nat) (incomplete : Bool) : List Byte :=
  let nodeBytes := fun (a : Nat) => leBytes 8 a ++ leBytes 4 ((g.edges.filter fun e => e.src == a).length) ++ zeros 4
  let edgeBytes := fun (e : GEdge × Nat) =>
    leBytes 4 (g.nodes.findIdx (· == e.1.src)) ++ leBytes 4 (g.nodes.findIdx (· == e.1.dst)) ++ leBytes 1 e.1.typ ++ zeros 1 ++
      leBytes 2 (g.cycleOf e.2) ++ zeros 4 ++ leBytes 8 e.1.start ++ leBytes 8 e.1.object
  leBytes 8 time ++ leBytes 4 g.nodes.length ++ leBytes 4 g.edges.length ++ leBytes 4 g.cycles.length ++
    leBytes 4 (bit1 incomplete + 2 * bit1 g.truncated) ++ leBytes 1 trigger ++ zeros 35 ++ (g.nodes.map nodeBytes).flatten ++
    (g.edges.zipIdx.map edgeBytes).flatten

/-- The bytes of the graph at this instant, and the state that has built it (R455). -/
def State.buildGraph (s : State) (trigger : Nat) : State × Graph × List Byte :=
  let g := s.graph
  let n := s.ctr 5 0 26
  let bs := g.bytes (s.now .ctl) trigger (n != s.trace.untrackedAtGraph)
  let s := s.tookN (3 * s.firmwarePairs.length + s.nextOrder)
  ({ s with trace := { s.trace with untrackedAtGraph := n } }, g, bs)

/-- WAIT_GRAPH: the wait-for graph is written to D2 (R455). -/
def execWaitGraph (c : CmdId) (s : State) : Out :=
  cmdRow s c opWaitGraph fun j s =>
    let (s, g, bs) := s.buildGraph 0
    let s := s.updJob c fun j => { j with value0 := g.cycles.length }
    (s.writeVa c (s.cmdSpace c) ((refVa (pktD2 j.pkt)).getD 0) bs).complete c

/-! ## The watchdog (R456) -/

/-- A write in the trace owner's context that raises no fault: bytes that cannot be written are dropped (R456; log entry 39). -/
def State.quietWrite (s : State) (ctx va : Nat) (bs : List Byte) : State :=
  (pieces va bs).foldl (fun s p =>
    match s.xlate ctx p.1 true with
    | (s, .ok pa g) =>
      let s := if s.isLocal pa then s.fetchGrant ctx (localOf pa) else s
      if s.isLocal pa = false then s
      else if s.granted ctx (localOf pa) true then
        (s.storeLine pa p.2 (({ ctx := ctx, part := s.partOf ctx } : Space).access g .none)).1
      else s.denied ctx (localOf pa)
    | (s, _) => s) s

/-- The report of a hang: a graph with TRIGGER 1, a HANG record and HANG_REPORTS (R456). The record's START and DURATION are not stated (log
entry 40). -/
def State.reportHang (s : State) (w : Wait) : State :=
  let (s, g, bs) := s.buildGraph 1
  let s := if s.trace.graph = 0 then s else s.quietWrite s.trace.ctx s.trace.graph bs
  let rec_ : Wait := { typ := 8, start := (Config.openWord s.fresh).toNat, waiter := 0, holder := 0, object := s.trace.graph, detail := g.cycles.length }
  let dur := (Config.openWord (s.fresh + 1)).toNat
  let s := s.tookN 2
  let s := if s.trace.en then s.traceWrite rec_ false dur else s
  { s with trace := { s.trace with reported := some w } }.countEngine 29 1

/-- HANG_CHECK: every 1 ms the oldest open wait is compared with HANG_MS, and a wait that has not been reported is (R456). -/
def execHangCheck (s : State) : Out :=
  actWhen s (s.isReady && decide (s.trace.lastCheck + 1000000 ≤ s.time)) fun s =>
    let s := { s with trace := { s.trace with lastCheck := s.time } }
    match s.trace.waits with
    | [] => s
    | w :: _ =>
      if s.trace.hangMs ≠ 0 ∧ w.start + 1000000 * s.trace.hangMs ≤ s.time ∧ s.trace.reported ≠ some w then s.reportHang w else s

/-! ## Debug mode (R457, R458) -/

/-- A DEBUG command of a sub-op. -/
def debugRow (s : State) (c : CmdId) (sub : Nat) (run : Job → State → State) : Out :=
  actS s fun s => s.runCmd c (fun j => j.isOp opDebug none && field j.block 0 1 == sub) run

/-- PROTECTION, reason 0x57 (R457, R458). -/
def State.gateRefused (s : State) (c : CmdId) : State := s.complete c stProtection (reason 0x57)

/-- DEBUG NONCE: a fresh nonce, valid for the next OPEN, is written at OUT (R457). -/
def execDbgNonce (c : CmdId) (s : State) : Out :=
  debugRow s c 0 fun j s =>
    s.checked j [reservedRule j.block 28 4] fun s => s.plinth j true fun s =>
      let n := Config.nonce s.fresh
      let s := { s.took with dbg := { s.dbg with nonce := some n } }
      (s.writeVa c (s.cmdSpace c) (field j.block 16 8) (leBytes 32 n.toNat)).complete c

/-- The message that OPEN's signature covers (R457). -/
def openMessage (b : List Byte) : List Byte :=
  leBytes 8 Config.serial.toNat ++ (b.drop 32).take 32 ++ (b.drop 2).take 2 ++ zeros 2 ++ (b.drop 24).take 4

/-- Whether an OPEN verifies: its nonce is the one returned last, and its signature is by the debug key (R457). -/
def State.openOk (s : State) (b : List Byte) : Bool :=
  (match s.dbg.nonce with
   | some n => field b 32 32 == n.toNat
   | none => false) &&
    decide (Config.sha384 Config.debugKey = s.fuses.debugDigest) &&
    Config.ecdsaVerify Config.debugKey (Config.sha384 (openMessage b)) ((b.drop 64).take 96)

/-- DEBUG OPEN: the gate opens for a scope and a time (R457). -/
def execDbgOpen (c : CmdId) (s : State) : Out :=
  debugRow s c 1 fun j s =>
    let b := j.block
    s.checked j [blockRule b 2 2 (fun v => decide (v < 2 ^ 12)), blockRule b 24 4 (fun v => decide (1 ≤ v) && decide (v ≤ 86400)), reservedRule b 28 4]
      fun s => s.plinth j true fun s =>
        let ok := s.openOk b
        let s := { s with dbg := { s.dbg with nonce := none } }
        if ok then
          let gate : DebugGate :=
            { s.dbg with openNow := true, scope := field b 2 2, openings := sat16 (s.dbg.openings + 1)
                         closesAt := s.time + 1000000000 * field b 24 4 }
          State.complete { s with dbg := gate } c
        else s.gateRefused c

/-- The gate closes. -/
def State.closeGate (s : State) : State := { s with dbg := { s.dbg with openNow := false } }

/-- DEBUG CLOSE (R457). -/
def execDbgClose (c : CmdId) (s : State) : Out :=
  debugRow s c 2 fun j s => s.checked j [reservedRule j.block 28 4] fun s => s.plinth j true fun s => s.closeGate.complete c

/-- GATE_EXPIRY: the gate closes at the end of DURATION_S (R457). -/
def execGateExpiry (s : State) : Out := actWhen s (s.dbg.openNow && decide (s.dbg.closesAt ≤ s.time)) (·.closeGate)

/-- DEBUG READ: engine state is copied to OUT while the gate is open (R458). -/
def execDbgRead (c : CmdId) (s : State) : Out :=
  debugRow s c 3 fun j s =>
    let b := j.block
    let space := field b 1 1
    let index := field b 4 4
    if s.dbg.openNow = false ∨ s.inScope space index = false then s.gateRefused c
    else
      s.checked j [blockRule b 1 1 (fun v => decide (1 ≤ v) && decide (v ≤ 8)), blockRule b 4 4 (fun v => decide (v < spaceSize space)),
                   blockRule b 12 4 (fun v => decide (v ≤ 65536)), reservedRule b 28 4] fun s =>
        let n := field b 12 4
        let known := ((s.spaceBytes space index s.dbg.scope).drop (field b 8 4)).take n
        let bs := known ++ openBytes s.fresh (n - known.length)
        let s := s.tookN (65536 + 512)
        (s.writeVa c (s.cmdSpace c) (field b 16 8) bs).complete c

end Sys2Proof.Machine
end

