-- ==== Sys2Proof/Machine/Links.lean ====
section
/-! DEFINITION. Fabric links (R374 to R386): port states, HELLO, ACK and CREDIT frames, the retry buffer and its replay, lanes, JOIN_REQ
(R390), and the LOSS frames held ready (R391, R394). -/

namespace Sys2Proof.Machine

/-! ## Payloads (R384, R385, R390, R394) -/

/-- STATE of HELLO and FB_STATE (R385). -/
def EngState.num (e : EngState) : Nat :=
  match e with
  | .unassigned => 0
  | .configuring => 1
  | .serving => 2
  | .draining => 3
  | .drained => 4
  | .isolated => 5

/-- A HELLO payload (R385). -/
def State.helloBytes (s : State) (p : Fin 8) : List Byte :=
  leBytes 2 (s.ownNode + 2 ^ 15 * bit1 s.fab.assigned) ++ leBytes 1 p.val ++ leBytes 1 s.fab.st.num ++ leBytes 1 1 ++
    leBytes 1 Config.minor.toNat ++ zeros 2 ++ leBytes 8 Config.serial.toNat ++ leBytes 8 (s.now .fab) ++ zeros 8

/-- A JOIN_REQ payload of the engine itself (R390). -/
def joinReqBytes (port : Nat) (rejoin : Bool) : List Byte :=
  leBytes 8 Config.serial.toNat ++ leBytes 1 1 ++ leBytes 1 Config.minor.toNat ++ leBytes 1 (bit1 rejoin) ++ zeros 5 ++
    leBytes 1 port ++ zeros 15

/-- A LOSS payload (R394). -/
def lossBytes (node cause time : Nat) : List Byte :=
  leBytes 2 node ++ leBytes 1 cause ++ zeros 5 ++ leBytes 8 Config.serial.toNat ++ leBytes 8 time ++ zeros 8

/-- The 32 bytes of a transport header (R377). -/
def frameHeader (f : Frame) : List Byte :=
  leBytes 1 f.ver ++ leBytes 1 f.typ ++ leBytes 1 (f.tc % 4 + 4 * bit1 f.direct + 8 * bit1 f.nak + 16 * (f.rstat % 16)) ++
    leBytes 1 (f.hops % 8 + 8 * (f.hopIdx % 8) + 64 * bit1 f.vl) ++ leBytes 2 f.dst ++ leBytes 2 f.src ++
    ((padRoute f.route).map (BitVec.ofNat 8)) ++ leBytes 2 f.len ++ leBytes 2 f.lseq ++ leBytes 2 f.lack ++ leBytes 2 f.ctx ++
    leBytes 2 f.tag ++ leBytes 8 f.addr

/-! ## Frames of one link -/

/-- HELLO (R385). -/
def State.sendHello (s : State) (p : Fin 8) : State :=
  (s.sendControl p { typ := ftHello, len := 32, payload := s.helloBytes p }).updFport p fun x => { x with helloSent := true, lastHello := s.time }

/-- ACK, with LACK, and NAK where frames are to be replayed (R381). -/
def State.sendAck (s : State) (p : Fin 8) (nak : Bool) : State := s.sendControl p { typ := ftAck, nak := nak }

/-- CREDIT: the credits returned since link-up, modulo 2^16 (R380). -/
def State.sendCredit (s : State) (p : Fin 8) : State :=
  let x := s.fport p
  (s.sendControl p { typ := ftCredit, len := 16, payload := (x.freed.toList.map fun n => leBytes 2 n).flatten }).updFport p fun x =>
    { x with freedSent := x.freed, lastCredit := s.time }

/-- JOIN_REQ on one port: DIRECT, with a route of length 0 (R390). -/
def State.sendJoinReq (s : State) (rejoin : Bool) (p : Fin 8) : State :=
  (s.queueFrame p { typ := ftJoinReq, direct := true, len := 32, src := s.ownNode, payload := joinReqBytes p.val rejoin }).pumpPort p

/-- JOIN_REQ on every UP port (R390). -/
def State.sendJoinReqs (s : State) (rejoin : Bool) : State :=
  let s := allPorts.foldl (fun s p => if (s.fport p).st = .up then s.sendJoinReq rejoin p else s) s
  { s with fab := { s.fab with lastJoinReq := s.time } }

/-! ## The retry buffer (R381) -/

/-- Frames before LACK are acknowledged and leave the retry buffer. -/
def State.acknowledge (s : State) (p : Fin 8) (lack : Nat) : State :=
  s.updFport p fun x =>
    let n := (lack + 2 ^ 16 - ((x.retry.head?.map (·.lseq)).getD lack)) % 2 ^ 16
    if n ≤ x.retry.length then { x with retry := x.retry.drop n } else x

/-- Every frame that is not acknowledged is sent again, in order (R381, R383). -/
def State.replay (s : State) (p : Fin 8) : State :=
  let x := s.fport p
  if x.retry = [] then s
  else
    let y := x.retry.foldl (fun (y : Port) f => y.emit { f with lack := x.rxSeq } s.time) x
    (s.setFport p { y with replays := sat16 (x.replays + 1) }).sent p x

/-! ## Port states (R382) -/

/-- The engine has joined the system (R390). -/
def State.joined (s : State) : Bool := s.fab.hasJoined

/-- A port becomes UP or DEGRADED: frames held in its retry buffer are replayed and waiting ones go out (R382, R383). -/
def State.portUp (s : State) (p : Fin 8) (st : PortState) : State :=
  ((s.updFport p fun x => { x with st := st }).replay p).pumpPort p

/-- An UNREACHABLE frame goes back to the source of a frame that came in on port `p` and cannot be forwarded (R388). -/
def State.sendUnreachable (s : State) (p : Nat) (f : Frame) : State :=
  s.sendBack p (returnPath f) { typ := ftUnreachable, dst := f.src, len := 32, payload := frameHeader f }

/-- A frame that waited on a port which cannot send it any more leaves the buffer it came in on: a forwarded one is answered with UNREACHABLE,
the engine's own ends by its own timeout (R380, R388). -/
def State.dropFrame (s : State) (out : Nat) (f : Frame) : State :=
  let s := s.leaveBuffer out f
  match returnPath f with
  | [] => s
  | q :: _ => s.sendUnreachable q { f with hopIdx := f.hopIdx - 1 }

/-- Numbers and credits of a link that has just been trained: nothing sent, nothing received, all credit free (R380, R381). -/
def Port.fresh (x : Port) : Port :=
  { x with
    txSeq := 0, rxSeq := 0, retry := [], creditGot := Vector.replicate 8 0, creditUsed := Vector.replicate 8 0
    freed := Vector.replicate 8 0, freedSent := Vector.replicate 8 0, held := [] }

/-- The partner's identity has changed: the port is HELD, and forwarded frames that wait on it are discarded (R386, R388). -/
def State.holdPort (s : State) (p : Fin 8) : State :=
  let x := s.fport p
  let stuck := x.waiting.filter fun f => f.tc ≠ 0 ∧ returnPath f ≠ []
  let s := s.updFport p fun y => { y with st := .held, nbrChanged := true, waiting := y.waiting.diff stuck }
  let s := if x.carries then { s with fab := { s.fab with lastUp := some s.time } } else s
  stuck.foldl (fun s f => s.dropFrame p.val f) s

/-- A port goes DOWN: its retry buffer is discarded and counted, and the time is noted when no port is left (R382, R383, R395). -/
def State.portDown (s : State) (p : Fin 8) : State :=
  let x := s.fport p
  if x.st = .down then s
  else
    let s := (s.countEngine 22 x.retry.length).setFport p { x.fresh with st := .down, waiting := [], helloSent := false, pair := false }
    let s := if x.carries then { s with fab := { s.fab with lastUp := some s.time } } else s
    x.waiting.foldl (fun s f => s.dropFrame p.val f) s

/-- A port that fails goes DOWN, with its record (R382, R426). -/
def State.portFails (s : State) (p : Fin 8) : State :=
  if (s.fport p).st = .down then s else (s.portDown p).errorRecord { code := 0x000D, unit := 5, index := p.val, action := 12 }

/-- Full training of four lanes begins (R382). -/
def State.train (s : State) (p : Fin 8) : State :=
  s.updFport p fun x => { x with st := .training, since := s.time, helloSent := false, lostLanes := 0, pair := false }

/-- ACCEPT: a HELD port goes UP with its new partner (R386). -/
def State.acceptPort (s : State) (p : Fin 8) : State := if (s.fport p).st = .held then s.portUp p .up else s

/-- RETRAIN: a degraded port trains four lanes again (R382, R383). -/
def State.retrainPort (s : State) (p : Fin 8) : State :=
  if (s.fport p).st = .degraded then { s.train p with fab := { (s.train p).fab with lastUp := some s.time } } else s

/-- EN of FB_PORT_CTLn: cleared, it takes the port DOWN (R382, R397); a boot failure holds it clear (R407). -/
def State.enablePort (s : State) (p : Fin 8) (en : Bool) : State :=
  (if en then s else s.portDown p).updFport p fun x => { x with en := en && s.boot.stage != 6 }

/-- The offset of FB_PORT_CTLn (R397). -/
def portCtl (p : Fin 8) : Nat := 0x80140 + 4 * p.val

/-- ACCEPT (R386). -/
def execAccept (r : Requester) (p : Fin 8) (s : State) : Out := actReg s (portCtl p) r (·.acceptPort p)

/-- RETRAIN (R382). -/
def execRetrain (r : Requester) (p : Fin 8) (s : State) : Out := actReg s (portCtl p) r (·.retrainPort p)

/-- PORT_EN (R382, R397). -/
def execPortEn (r : Requester) (p : Fin 8) (en : Bool) (s : State) : Out := actReg s (portCtl p) r (·.enablePort p en)

/-- SIGNAL_DETECT: an enabled port whose receiver detects signal starts training, once Armature has started the FAB PLLs (R382, R404,
R407). -/
def execSignalDetect (p : Fin 8) (s : State) : Out :=
  let x := s.fport p
  actWhen s (s.boot.memLocked && x.st == .down && x.en && !x.noPll) fun s =>
    (s.train p).updFport p fun x => { x with nbr := {} }

/-- TRAINING_COMPLETE: the port enters DISCOVERY and sends HELLO at once (R382, R385). -/
def execTrainingComplete (p : Fin 8) (s : State) : Out :=
  actWhen s ((s.fport p).st == .training) fun s => (s.updFport p fun x => { x with st := .discovery }).sendHello p

/-- The lanes of each pair that have lost lock. -/
def lowPairLost (lanes : BitVec 4) : Bool := lanes &&& 3 != 0
def highPairLost (lanes : BitVec 4) : Bool := lanes &&& 12 != 0

/-- LANE_LOCK_LOST: an UP port seeks a working pair of lanes, and a DEGRADED port that loses a lane of its pair goes DOWN (R382, R383). -/
def execLaneLockLost (p : Fin 8) (lanes : BitVec 4) (s : State) : Out :=
  let x := s.fport p
  actSWhen s (lanes != 0 && (x.st == .up || x.st == .realign || x.st == .degraded)) fun s =>
    let s := s.updFport p fun x => { x with lostLanes := x.lostLanes ||| lanes }
    if x.st = .up then
      ({ s with fab := { s.fab with lastUp := some s.time } }.updFport p fun x => { x with st := .realign, since := s.time }).errorRecord
        { code := 0x000C, unit := 5, index := p.val, action := 8, detail := (x.lostLanes ||| lanes).toNat }
    else if x.st = .degraded ∧ (if x.pair then highPairLost lanes else lowPairLost lanes) then s.portFails p
    else s

/-- REALIGN_COMPLETE: a pair has locked in both directions, lanes 0 and 1 when neither has lost lock; the port goes on degraded and
replays (R383). -/
def execRealignComplete (p : Fin 8) (s : State) : Out :=
  let x := s.fport p
  actSWhen s (x.st == .realign && !(lowPairLost x.lostLanes && highPairLost x.lostLanes) && decide (s.time ≤ x.since + 12000)) fun s =>
    (s.updFport p fun x => { x with pair := lowPairLost x.lostLanes }).portUp p .degraded

/-- REALIGN_TIMEOUT: every pair holds a lost lane, or 12 µs have passed: the port goes DOWN (R383). -/
def execRealignTimeout (p : Fin 8) (s : State) : Out :=
  let x := s.fport p
  actSWhen s (x.st == .realign && ((lowPairLost x.lostLanes && highPairLost x.lostLanes) || decide (x.since + 12000 ≤ s.time))) fun s => s.portFails p

/-- LOSS_OF_SIGNAL: no signal on any lane for 10 µs takes the port DOWN (R382). -/
def execLossOfSignal (p : Fin 8) (s : State) : Out := actSWhen s ((s.fport p).st != .down) fun s => s.portFails p

/-! ## Timers of a link -/

/-- A port that exchanges frames of one link: trained, and not silent for a realignment (R382, R383). -/
def Port.talks (x : Port) : Bool := x.st == .up || x.st == .degraded || x.st == .held

/-- ACK_TIMER: an ACK carries LACK when nothing has been sent for 500 ns (R381). -/
def execAckTimer (p : Fin 8) (s : State) : Out :=
  actWhen s ((s.fport p).talks && decide ((s.fport p).lastTx + 500 ≤ s.time)) fun s => s.sendAck p false

/-- HELLO_TIMER: a HELLO every 1 ms while the port is trained (R385). -/
def execHelloTimer (p : Fin 8) (s : State) : Out :=
  let x := s.fport p
  actWhen s ((x.talks || x.st == .discovery) && decide (x.lastHello + 1000000 ≤ s.time)) fun s => s.sendHello p

/-- Credits freed and not yet returned. -/
def Port.owed (x : Port) : Nat := (x.freed.toList.zip x.freedSent.toList).foldl (fun n e => n + (e.1 - e.2)) 0

/-- CREDIT_TIMER: a CREDIT frame after 256 credits are freed, and within each µs in which any are (R380). -/
def execCreditTimer (p : Fin 8) (s : State) : Out :=
  let x := s.fport p
  actWhen s (x.talks && decide (0 < x.owed) && (decide (256 ≤ x.owed) || decide (x.lastCredit + 1000 ≤ s.time))) fun s => s.sendCredit p

/-- JOIN_REQ_TIMER: every 10 ms an engine without a node identifier asks to join (R390). -/
def execJoinReqTimer (s : State) : Out :=
  actWhen s (s.isReady && !s.fab.assigned && decide (s.fab.lastJoinReq + 10000000 ≤ s.time)) fun s => s.sendJoinReqs (s.fab.rejoin || s.fab.st == .isolated)

/-- ROUTE_UNUSABLE_EXPIRY: a route marked unusable may be used again after 1 ms (R387). -/
def execRouteUnusableExpiry (dst idx : Nat) (s : State) : Out :=
  act s fun s => { s with fab := { s.fab with
    unusable := s.fab.unusable.filter fun u => !(u.1 == dst && u.2.1 == idx && decide (u.2.2 + 1000000 ≤ s.time)) } }

/-! ## The LOSS frames (R391, R393, R394) -/

/-- The LOSS frame of a port: a route to the manager that leaves by it, or one hop to the partner, which routes it on (R391, R393; log entry
43). -/
def State.lossFrameFor (s : State) (p : Fin 8) : Frame :=
  let e : RouteEntry := sget {} s.fab.routes s.fab.mgr
  let bytes := match e.routes.find? fun r => r.valid && routePort (r.bytes.getD 0 8) == p.val with
    | some r => r.bytes
    | none => [p.val]
  { typ := ftLoss, dst := s.fab.mgr, hops := bytes.length, hopIdx := 1, route := padRoute bytes, len := 32, src := s.ownNode
    payload := lossBytes s.ownNode 0 0 }

/-- LOSS frames are built for every port (R391). -/
def State.buildLoss (s : State) : State := allPorts.foldl (fun s p => s.updFport p fun x => { x with lossFrame := some (s.lossFrameFor p) }) s

/-- The banker sends the LOSS frame of every port that is up, and each port then stops transmitting (R28, R393). -/
def State.sendLoss (s : State) (cause : Nat) : State :=
  allPorts.foldl (fun (s : State) p =>
    let x := s.fport p
    match x.lossFrame with
    | some f =>
      if x.carries then
        let g := { f with lseq := x.txSeq, lack := x.rxSeq, payload := lossBytes s.ownNode cause s.time }
        (s.setFport p (({ x with txSeq := (x.txSeq + 1) % 2 ^ 16 } : Port).emit g s.time)).sent p x
      else s
    | none => s) s

end Sys2Proof.Machine
end

