-- ==== Sys2Proof/Machine/RegView.lean ====
section
/-! DEFINITION. What a read of the control window returns (R9 to R11, R460 to R474): the live view of every register, the 64-bit pairs with
their latches, and LOW_WORD_READ and BAD_REGISTER_ACCESS. -/

namespace Sys2Proof.Machine

/-! ## Registers with stored fields -/

/-- The RW bits of a register that holds what is written to it: 0 for every other offset (R460 to R474). -/
def storedMask (off : Nat) : BitVec 32 :=
  if off = 0x20000 then 0x3
  else if off = 0x20004 then 0xFFFFFFFF
  else if off = 0x20008 ∨ off = 0x2000C ∨ regIn off 0x20040 4 16 then 0xFFFF
  else if off = 0x30000 then 0x3F
  else if off = 0x30004 then 0x00FF0FFF
  else if regIn off 0x38010 4 252 then 0xFFFF3FFF
  else if off = 0x40000 ∨ off = 0x40004 ∨ off = 0x40020 ∨ off = 0x40024 then 0xFFFFFFFF
  else if off = 0x40008 then 0x8000001F
  else if off = 0x40010 ∨ off = 0x40018 ∨ off = 0x80004 then 0xFFFF
  else if off = 0x80008 then 0xFFFFFFFF
  else if off = 0x80010 then 0x80003FFF
  else if regIn off 0x90000 4 16 then 0x800007FF
  else if off = 0x90080 ∨ off = 0x90084 ∨ off = 0x90088 then 0xFFFFFFFF
  else if off = 0xA0100 then 0xF4
  else if off = 0xB0004 then 0xFFFF01FF
  else if off = 0xE0000 ∨ off = 0xE0004 then 0xFFFFFFFF
  else if off = 0xE0008 then 0x8000001F
  else if off = 0xE0010 then 0xFFFF
  else if off = 0xE0040 then 0xFFFFFFFF
  else if off = 0xE005C then 0x3
  else if regIn off 0x100C0 0x1000 16 then 0x1FFF
  else 0

/-! ## Live views -/

/-- STATE of SLC_STRM_STATn (R117). -/
def StreamState.num (x : StreamState) : Nat :=
  match x with
  | .idle => 0
  | .running => 1
  | .halted => 2
  | .held => 3
  | .stopped => 4

/-- SLC_STRM_STATn of a stream (R117): STOPPED at a fence. An idle stream has no next instruction, and PC reads as at reset (log
entry 59). -/
def State.strmStat (s : State) (k : Nat) : Nat :=
  let x := s.stream k
  let st := if s.err.fenced then 4 else x.st.num
  let idle := x.st == .idle || x.item == none
  st * 2 ^ 29 + bit1 x.runningRun * 2 ^ 28 + (if idle then 0 else x.arch.pc.toNat * 2 ^ 22) + if idle then 0 else x.arch.cmd.ctx

/-- SLC_RATE of a slice (R124). -/
def State.slcRate (s : State) (i : Nat) : Nat := bit1 (s.slice i).flagged * 2 ^ 31 + (s.slice i).rate % 2 ^ 12

/-- The status registers of a slice's frame as they are sampled. -/
def State.sliceSample (s : State) (i : Nat) : List Nat := ((List.range 8).map fun n => s.strmStat (8 * i + n)) ++ [s.slcRate i]

/-- A register of a slice's frame (R117, R124, R128): a lost slice's read as at the last sample. -/
def State.sliceReg (s : State) (i o : Nat) : Nat :=
  let view := if (s.slice i).lost then (s.slice i).sample else s.sliceSample i
  if regIn o 0x80 4 8 then view.getD ((o - 0x80) / 4) 0
  else if o = 0xC4 then view.getD 8 0
  else if o = 0xC0 then (s.reg (0x10000 + 0x1000 * i + o)).toNat
  else 0

/-- ENG_CAPS (R468). -/
def State.caps (s : State) : Nat :=
  let arrays := (List.range 4).foldl (fun a n => if h : n < 4 then (if (s.arrays[n]).disabled then a else a + 2 ^ n) else a) 0
  let cores := (List.range 4).foldl (fun a n => if bitOf s.err.lostCc.toNat n then a else a + 2 ^ n) 0
  let slices := (List.range 16).foldl (fun a n => if (s.slice n).lost then a else a + 2 ^ n) 0
  arrays * 2 ^ 24 + cores * 2 ^ 16 + slices

/-- A fused minimum SVN in its 16 bits; one above them is a free value (R401, R421; log entry 118). -/
def svnField (n : Nat) : Nat := if n < 2 ^ 16 then n else (Config.wideSvn n).toNat

/-- The ENG_ block (R13, R421, R468). -/
def State.engReg (s : State) (off : Nat) : Nat :=
  if off = 0x0 then 0x5E020100 + Config.minor.toNat
  else if off = 0x4 then s.caps
  else if off = 0x20 then
    s.boot.stage * 2 ^ 28 + bit1 s.boot.armCopyB * 2 ^ 25 + bit1 s.boot.plinthCopyB * 2 ^ 24 + s.boot.fail * 2 ^ 16 + s.boot.readyUs
  else if off = 0x24 then svnField s.fuses.armSvn * 2 ^ 16 + svnField s.fuses.plinthSvn
  else if off = 0x30 then Config.fwSizeMib.toNat
  else 0

/-- MP_THERMk (R328). -/
def State.thermReg (s : State) (k : Nat) : Nat :=
  if h : k < 16 then
    let x := s.hbm[k]
    x.level * 2 ^ 30 + bit1 x.lost * 2 ^ 29 + x.temp
  else 0

/-- STATE of FB_PORT_STATn (R397). -/
def PortState.num (x : PortState) : Nat :=
  match x with
  | .down => 0
  | .training => 1
  | .discovery => 2
  | .up => 3
  | .realign => 4
  | .degraded => 5
  | .held => 6

/-- FB_PORT_STATn, FB_PORT_CTLn and FB_NBRn word 0 (R397). -/
def Port.stat (x : Port) : Nat :=
  x.st.num * 2 ^ 29 + bit1 x.pair * 2 ^ 28 + bit1 x.nbrChanged * 2 ^ 27 + x.lostLanes.toNat * 2 ^ 20 + x.replays
def Port.nbrWord (x : Port) : Nat :=
  x.nbr.state * 2 ^ 24 + x.nbr.port * 2 ^ 21 + bit1 x.nbr.valid * 2 ^ 16 + bit1 x.nbr.assigned * 2 ^ 15 + x.nbr.node

/-- The FB_ block (R397). -/
def State.fabReg (s : State) (off : Nat) : Nat :=
  if off = 0x80000 then bit1 s.fab.assigned * 2 ^ 31 + s.fab.node
  else if off = 0x8000C then s.fab.mgr
  else if off = 0x80014 then s.fab.st.num
  else if regIn off 0x80100 4 8 then (s.portAt ((off - 0x80100) / 4)).stat
  else if regIn off 0x80140 4 8 then bit1 (s.portAt ((off - 0x80140) / 4)).en
  else if regIn off 0x80200 16 8 then (s.portAt ((off - 0x80200) / 16)).nbrWord
  else 0

/-- The registers of the CT_ block that are not stored (R331, R472). -/
def State.capReg (s : State) (off : Nat) : Nat :=
  if off = 0x90090 then bit1 s.cfg.busy * 2 ^ 30 + s.cfg.status * 2 ^ 27 + s.cfg.fields.toNat
  else if off = 0x90094 then s.cfg.data.toNat
  else
    let n := (off - 0x90040) / 4
    if h : regIn off 0x90040 4 8 ∧ n < 8 then
      let x := s.cap[n]
      x.st * 2 ^ 30 + bit1 x.bifurcated * 2 ^ 29 + x.devLoad * 2 ^ 24 + x.limit
    else 0

/-- PA_STATn and PA_SPAREn (R248, R249). -/
def State.arrayReg (s : State) (off : Nat) : Nat :=
  let n := (off - 0xA0000) / 0x20
  if h : n < 4 then
    let x := s.arrays[n]
    if off % 0x20 = 0 then
      (if x.disabled then 2 else bit1 (s.feeder.deals.any fun d => d.arrays.any (·.val == n))) * 2 ^ 30 + min 255 x.parityReruns * 2 ^ 16 + min 255 x.wideReruns * 2 ^ 8 +
        bit1 x.sat * 8 + bit1 x.parity * 4 + bit1 x.bufEcc * 2 + bit1 x.bufUe
    else if off % 0x20 = 4 then (Config.spare n).toNat
    else 0
  else 0

/-- PW_ENV_STAT and PW_SHED_STAT (R422). -/
def State.powerReg (s : State) (off : Nat) : Nat :=
  if off = 0xB0000 then
    bit1 s.pw.shed * 2 ^ 31 + bit1 s.pw.hold * 2 ^ 30 + bit1 s.pw.ramping * 2 ^ 29 + s.pw.commanded * 2 ^ 12 + s.pw.effective * 2 ^ 8 + s.issueQ
  else if off = 0xB0008 then
    bit1 s.pw.filtA * 2 ^ 31 + bit1 s.pw.filtB * 2 ^ 30 + bit1 s.pw.shed * 2 ^ 29 + bit1 s.pw.discFault * 2 ^ 28 + s.pw.shortDisagree
  else 0

/-- The ER_ and DB_ registers that are not stored (R441, R459, R474). -/
def State.errReg (s : State) (off : Nat) : Nat :=
  if off = 0xE000C then s.err.lost * 2 ^ 16 + s.err.tail
  else if off = 0xE0050 then
    bit1 s.err.fenced * 2 ^ 31 + bit1 s.err.cleanDone * 2 ^ 30 + bit1 s.err.cleanFailed * 2 ^ 29 + s.err.cause * 2 ^ 16
  else if off = 0xE0054 then
    s.err.lostCc.toNat * 2 ^ 16 + (List.range 16).foldl (fun a n => if (s.slice n).lost then a + 2 ^ n else a) 0
  else if off = 0xE0058 then s.err.irq.toNat
  else if off = 0xF0000 then bit1 s.dbg.openNow * 2 ^ 31 + s.dbg.scope * 2 ^ 16 + s.dbg.openings
  else 0

/-- The interrupt to the control cores is asserted: an enabled bit of ER_IRQ, or CC_LOST (R425, R474). -/
def State.interrupt (s : State) : Bool := s.err.irq.toNat % 4 &&& (s.reg 0xE005C).toNat != 0 || bitOf s.err.irq.toNat 2

/-- The trace registers (R459). -/
def State.traceReg (s : State) (off : Nat) : Nat :=
  if off = 0xD0000 then bit1 s.trace.en * 2 ^ 31 + s.trace.log2 * 2 ^ 16 + s.trace.types
  else if off = 0xD0004 then s.trace.tail
  else if off = 0xD0008 then s.trace.head
  else if off = 0xD000C then s.trace.lost
  else if off = 0xD0010 then s.trace.waits.length
  else 0

/-- What a read of a 32-bit register returns, 64-bit pairs apart (R9, R460). -/
def State.regValue (s : State) (r : Requester) (off : Nat) : Nat :=
  if off < 0x10000 then s.engReg off
  else if off < 0x20000 then s.sliceReg ((off - 0x10000) / 0x1000) (off % 0x1000)
  else if off = 0x20000 then bit1 (s.boot.coreLocked && !s.rc.scrubbing) * 2 ^ 31 + (s.reg off).toNat
  else if off = 0x20018 then (s.reg off).toNat
  else if off = 0x30000 then bit1 s.qlocked * 2 ^ 31 + (s.reg off).toNat
  else if regIn off 0x30100 4 16 then s.thermReg ((off - 0x30100) / 4)
  else if off = 0x4000C then s.sqTail
  else if off = 0x4001C then bit1 s.notifyPending * 2 ^ 31
  else if off = 0x50000 then bit1 s.qerrValid * 2 ^ 31 + s.qerrIndex
  else if off = 0xC000C then (s.reqState r).pcSel.toNat
  else if storedMask off ≠ 0 then (s.reg off).toNat
  else if 0x80000 ≤ off ∧ off < 0x90000 then s.fabReg off
  else if 0x90000 ≤ off ∧ off < 0xA0000 then s.capReg off
  else if 0xA0000 ≤ off ∧ off < 0xB0000 then s.arrayReg off
  else if 0xB0000 ≤ off ∧ off < 0xC0000 then s.powerReg off
  else if 0xD0000 ≤ off ∧ off < 0xE0000 then s.traceReg off
  else s.errReg off

/-! ## The 64-bit pairs (R11, R467) -/

/-- The offset of the low word of each pair. -/
def isPairLow (off : Nat) : Bool :=
  off == 0x8 || off == 0x10 || off == 0x28 || off == 0x20010 || off == 0x40000 || off == 0x40020 || off == 0x90080 || off == 0xB0010 ||
    off == 0xC0004 || off == 0xC0010 || off == 0xE0000 || regIn off 0x80204 16 8

/-- The value of a pair at one instant, by the offset of its low word. -/
def State.pairValue (s : State) (r : Requester) (off : Nat) : Nat :=
  if off = 0x8 then Config.serial.toNat
  else if off = 0x10 then u64 s.time
  else if off = 0x28 then Config.fwBase.toNat
  else if off = 0x20010 then s.rc.out.toNat
  else if off = 0xB0010 then u64 s.pw.shedTime
  else if off = 0xC0004 then u64 (s.reqState r).capture.time
  else if off = 0xC0010 then u64 (s.reqState r).pcData
  else if regIn off 0x80204 16 8 then (s.portAt ((off - 0x80204) / 16)).nbr.serial
  else s.reg64 off

/-- A register read by a requester: a low word latches its high word, and a high word reads the latch (R11). -/
def State.readReg (s : State) (r : Requester) (off : Nat) : State × BitVec 32 :=
  if isPairLow off then
    let v := s.pairValue r off
    (s.updReq r fun x => { x with latches := sput 0 x.latches off (BitVec.ofNat 32 (v / 2 ^ 32)) }, BitVec.ofNat 32 v)
  else if 4 ≤ off ∧ isPairLow (off - 4) then (s, sget 0 (s.reqState r).latches (off - 4))
  else (s, BitVec.ofNat 32 (s.regValue r off))

/-- An aligned access inside the window (R7, R8). -/
def goodAccess (off size : Nat) : Bool := size == 4 && off % 4 == 0 && decide (off < 2 ^ 24)

/-- Data on its way back to a requester; the fabric path's own goes by REG_RESP (R396). -/
def State.busReply (s : State) (r : Requester) (v : BitVec 32) : State := if isFabric r then s else s.send (.busData r v)

/-- LOW_WORD_READ: a read of the low word of a pair returns it and latches the high word of the same instant for the requester (R11). Reads
are served once the CTL PLL has locked, after a fence too (R464, R465). -/
def execLowWordRead (r : Requester) (off : Nat) (s : State) : Out :=
  .next (if !s.boot.held && s.boot.ctlLocked && isPairLow off then
      let (s, v) := s.readReg r off
      s.busReply r v
    else s)

/-- BAD_REGISTER_ACCESS: an access that is not a naturally aligned 32-bit one has no effect and is answered by an error response (R8). -/
def execBadRegisterAccess (r : Requester) (off size : Nat) (_isWrite : Bool) (s : State) : Out :=
  .next (if !s.boot.held && s.boot.ctlLocked && !goodAccess off size then (if isFabric r then s else s.send (.busError r)) else s)

end Sys2Proof.Machine
end

