-- ==== Sys2Proof/Machine/Recover.lean ====
section
/-! DEFINITION. Loss and recovery: lost slices (R431 to R434), control cores and takeover (R435), Plinth and the banker (R436), the fence
(R27, R28, R437, R438), the cache clean (R438), isolation (R395) and the warm reset of the serving state (R398, R399, R466). -/

namespace Sys2Proof

/-- The record of a lost unit: its code, unit and index; a MEM PLL by the first of its two channels (R424, R426). -/
def LostUnit.record (u : LostUnit) : Machine.ErrInfo :=
  match u with
  | .channelPort n => { code := 0x000B, unit := 3, index := n.val, action := 9 }
  | .memPll k => { code := 0x000B, unit := 3, index := 2 * k.val, action := 9 }
  | .corePll => { code := 0x0015, unit := 0, index := 0, action := 9 }
  | .cachePll => { code := 0x0015, unit := 0, index := 1, action := 9 }
  | .reductionUnit q => { code := 0x0015, unit := 13, index := q.val, action := 9 }
  | .controlSram => { code := 0x0015, unit := 0, index := 2, action := 9 }

namespace Machine

/-! ## Slices (R431, R433) -/

/-- The started work items of a slice, by stream. -/
def State.itemsOn (s : State) (k : Nat) : List (Nat × Nat) :=
  (List.range 8).filterMap fun n => ((s.stream (8 * k + n)).item).map fun i => (8 * k + n, i)

/-- A slice is lost: its registers read as last sampled, its started items take a new generation and wait to be dealt again, and the loss
is recorded (R431, R433, R434). Its queued items leave by WORK_ITEM_STEAL, its started ones by WORK_ITEM_MIGRATE. -/
def State.loseSlice (s : State) (k : Nat) : State :=
  if (s.slice k).lost then s
  else
    let mine := s.itemsOn k
    let view := s.sliceSample k
    let s := mine.foldl (fun s e => s.stopItem e.1 e.2) s
    let s := s.updSlice k fun x => { x with lost := true, sample := view, reqs := [], tlb := [], flagged := false }
    let s := { s with err := { s.err with irq := s.err.irq ||| 2 } }
    s.errorRecord { code := 0x000F, unit := 1, index := k, action := 6, count := mine.length }

/-- What one slice answers to a probe (R431). -/
def State.probeSlice (s : State) (k : Nat) (answered ue : Bool) : State :=
  let x := s.slice k
  if x.lost then s
  else if ue then s.loseSlice k
  else if answered then s.updSlice k fun x => { x with missedProbes := 0 }
  else if 1 ≤ x.missedProbes then s.loseSlice k
  else s.updSlice k fun x => { x with missedProbes := x.missedProbes + 1 }

/-- LIVENESS_PROBE: a quadrant reduction unit probes its four slices: two consecutive probes without an answer lose a slice, and so does an
uncorrectable error in it (R431). -/
def execLivenessProbe (quad : Fin 4) (answers ue : BitVec 4) (s : State) : Out :=
  actSWhen s s.boot.coreLocked fun s =>
    [0, 1, 2, 3].foldl (fun s n => s.probeSlice (4 * quad.val + n) (bitOf answers.toNat n) (bitOf ue.toNat n)) s

/-! ## The fence (R27, R28, R438) -/

/-- A table set at the fence: torn where rows were being written, else its step is discarded (R188, R438). -/
def TableSet.fenced (t : TableSet) : TableSet :=
  let torn := t.st = TsState.writing ∨ t.st = TsState.committing ∨ t.st = TsState.torn
  { t with st := if torn then .torn else .opened, apply := none, members := [], groupClosed := false, heavy := {} }

/-- The tables of a set whose step is discarded. -/
def Table.noStep (t : Table) : Table := { t with slots := 0, winT := none, stepK := 0 }

/-- The banker fences the engine: it announces the loss on every port that is up, and work in flight is completed or discarded
(R27, R28, R393, R438). Writes that have left the write-combining buffer have reached memory. -/
def State.raiseFence (s : State) (cause : Nat) : State :=
  if s.err.fenced then s
  else
    let s := s.sendLoss cause
    let s := allPorts.foldl (fun (s : State) p => s.updFport p fun x => { x with waiting := [], held := [], retry := [] }) s
    let s := { s with err := { s.err with fenced := true, cause := cause, fenceTime := s.time } }
    let s := { s with jobs := [], items := [], faults := [], faultsWaiting := [], walks := [], memReqs := [] }
    let s := { s with wc := s.wc.filter fun (e : WcEntry) => !e.draining, rc := { s.rc with fills := [], direct := [], blocked := [], snoops := [] } }
    let s := { s with fab := { s.fab with remote := [], sweepGot := [], sweepOuts := [] } }
    let s := { s with streams := s.streams.map fun (e : Nat × Stream) => (e.1, { e.2 with st := StreamState.stopped, queue := [], fetches := [], window := [], issue := [] }) }
    let s := { s with slices := s.slices.map fun (e : Nat × Slice) => (e.1, { e.2 with reqs := [], dispatch := [] }) }
    let s := { s with tables := s.tables.map fun (e : Nat × Table) => (e.1, e.2.noStep) }
    { s with tsets := s.tsets.map fun (e : Nat × TableSet) => (e.1, e.2.fenced) }

/-- The writes of the cache clean: the write-combining entries, then the dirty sectors of primary lines, those whose write fails with
poison (R438). -/
def State.cleanWrites (s : State) (failed : List Nat) : List SectorWrite :=
  let wcs := (s.wc.map WcEntry.writes).flatten
  let dirty := (s.rc.ways.map fun e =>
    if e.2.mir then []
    else (List.range 4).filterMap fun k =>
      if bitOf e.2.sd.toNat k then
        some { addr := lineFrom (e.1 / 16) e.2.tag * 256 + 64 * k, mask := 2 ^ 64 - 1, bytes := sectorBytes (e.2.sector k), pois := false }
      else none).flatten
  ((wcs ++ dirty).filter fun (w : SectorWrite) => !s.onLostPort w.addr).map fun (w : SectorWrite) => if failed.contains (w.addr / 64) then { w with mask := 2 ^ 64 - 1, pois := true } else w

/-- CLEAN_DONE: the cache clean engine has written the write-combining entries and the dirty lines to memory, without firmware; a sector
whose write failed is poisoned (R438). -/
def execCleanDone (failedSectors : List Nat) (s : State) : Out :=
  .next (if !s.boot.held && s.err.fenced && !s.err.cleanDone then
      let ws := s.cleanWrites failedSectors
      let failed := ws.any (·.pois)
      let s := (s.putSectors ws).1
      let clean := (s.rc.ways.map fun (e : Nat × Way) => (e.1, if e.2.mir then {} else { e.2 with sd := 0 })).filter fun e => e.2 ≠ {}
      { s with wc := [], rc := { s.rc with ways := clean }, err := { s.err with cleanDone := true, cleanFailed := failed } }
    else s)

/-- FENCE_GO: ER_FENCE.GO, with LOSS cause 4 (R437). -/
def execFenceGo (r : Requester) (s : State) : Out := actReg s 0xE0050 r (·.raiseFence 4)

/-- UNIT_LOSS_DETECTED: a loss that the engine does not serve through is recorded; firmware then writes ER_FENCE.GO (R426, R437; log entry
46). -/
def execUnitLossDetected (u : LostUnit) (s : State) : Out := actS s (·.errorRecord u.record)

/-! ## Control cores (R435) -/

/-- The cores in service. -/
def State.liveCores (s : State) : List Nat := (List.range 4).filter fun n => !bitOf s.err.lostCc.toNat n

/-- Core `n` is declared lost: it is held in reset, the others are interrupted, and one of them takes over; the banker fences the engine when
none is left, or when the lost core was itself taking over (R435). -/
def State.declareCore (s : State) (n : Nat) : State :=
  if bitOf s.err.lostCc.toNat n then s
  else
    let taking := s.err.awaiting.any fun e => e.2.2 == n
    let s := { s with err := { s.err with lostCc := s.err.lostCc ||| BitVec.ofNat 4 (2 ^ n), irq := s.err.irq ||| 4 } }
    let s := s.errorRecord { code := 0x0012, unit := 7, index := n, action := 7 }
    let live := s.liveCores
    if live = [] ∨ taking = true then s.raiseFence 2
    else
      let taker := live.getD (s.freeBelow live.length) 0
      { s.took with err := { s.err with awaiting := s.err.awaiting ++ [(n, s.time, taker)] } }

/-- A heartbeat of core `n` (R435). -/
def State.beatCc (s : State) (n : Fin 4) : State := { s with err := { s.err with beatCc := s.err.beatCc.set n s.time } }

/-- A TAKEOVER write of a core in service into the slot of a lost one (R435). -/
def State.takeOver (s : State) (src lost : Nat) : State :=
  if bitOf s.err.lostCc.toNat src then s else { s with err := { s.err with awaiting := s.err.awaiting.filter fun e => e.1 ≠ lost } }

/-- CC_HEARTBEAT (R435). -/
def execCcHeartbeat (core : Fin 4) (s : State) : Out := actReg s (0xE0024 + 4 * core.val) (.cc core) (·.beatCc core)

/-- CC_WATCH_EXPIRY: CC_US has passed without a heartbeat (R435). -/
def execCcWatchExpiry (core : Fin 4) (s : State) : Out :=
  actSWhen s (s.boot.ccReleased && decide (s.err.beatCc.get core + s.ccUs * 1000 ≤ s.time)) fun s => s.declareCore core

/-- CC_BUS_ERROR (R435). -/
def execCcBusError (core : Fin 4) (s : State) : Out := actSWhen s s.boot.ccReleased fun s => s.declareCore core

/-- TAKEOVER: a surviving core has resumed the lost core's handlers (R435). -/
def execTakeover (src lost : Fin 4) (s : State) : Out := actWhen s s.boot.ccReleased fun s => s.takeOver src lost

/-- TAKEOVER_TIMEOUT: 14 µs have passed since the declaration: fence, with LOSS cause 2 (R435). -/
def execTakeoverTimeout (core : Fin 4) (s : State) : Out :=
  actWhen s (s.err.awaiting.any fun e => e.1 == core.val && decide (e.2.1 + 14000 ≤ s.time)) fun s => s.raiseFence 2

/-! ## Plinth and the banker (R436) -/

/-- Plinth's heartbeat. -/
def State.beatPlinth (s : State) : State := { s with err := { s.err with beatPlinth := s.time } }

/-- PLINTH_HEARTBEAT (R436). -/
def execPlinthHeartbeat (s : State) : Out := actReg s 0xE0020 .plinth (·.beatPlinth)

/-- Plinth is lost: the record, and the fence with LOSS cause 1 (R426, R436). -/
def State.losePlinth (s : State) : State := (s.errorRecord { code := 0x0013, unit := 8, action := 9 }).raiseFence 1

/-- PLINTH_WATCH_EXPIRY: PLINTH_US has passed without a heartbeat (R436). -/
def execPlinthWatchExpiry (s : State) : Out :=
  actWhen s (s.boot.plinth.isSome && decide (s.err.beatPlinth + s.plinthUs * 1000 ≤ s.time)) (·.losePlinth)

/-- PLINTH_BUS_ERROR (R436). -/
def execPlinthBusError (s : State) : Out := actWhen s s.boot.plinth.isSome (·.losePlinth)

/-- BANKER_DISAGREE: the banker's two copies disagree: fence, with LOSS cause 3 (R426, R436). -/
def execBankerDisagree (s : State) : Out := act s fun s => (s.errorRecord { code := 0x0014, unit := 9, action := 9 }).raiseFence 3

/-! ## Warm reset of the serving state (R398, R399, R466) -/

/-- The window or the step of a table set ends without a commit: TORN where rows were being written, else OPEN with a new, empty step
(R188, R398, R399); its record shows it (R208, R215). A directory that cannot be cleared marks the next step failed (R480). -/
def State.abortSet (s : State) (h : Nat) : State :=
  match s.tset? h with
  | none => s
  | some t =>
    let s := s.leaveFaults (.apply h)
    if t.st = .writing ∨ t.st = .committing then
      ((s.updTset h fun t => { t with st := TsState.torn, apply := none, members := [], failed := false }).emptyStep h).dueRecord h noCmd
    else
      let base := s.updTset h fun t => { t with st := if t.st = TsState.torn then t.st else .opened, apply := none, members := [], failed := false }
      match base.clearDirs noCmd (whoApply h noCmd) (base.tablesOf h) t.epoch with
      | (s, .ok _) =>
        let s := (s.emptyStep h).updTset h fun t => { t with clearEpoch := t.epoch }
        if t.failed then s.dueRecord h noCmd else s
      | (s, _) => ((s.leaveFaults (.apply h)).emptyStep h).markFailed h noCmd

/-- A command in progress as a warm reset leaves it: ended with ABORTED_FAULT, its record still to be written (R399). -/
def Job.warm (j : Job) : Job :=
  { j with causes := [(stAborted, {})], phase := .finishing, parsed := true, began := true, readsEnded := true, acks := 0, outs := [], scatter := none }

/-- A slice as a warm reset leaves it (R398, R466): lost slices stay lost. -/
def Slice.warm (x : Slice) : Slice := { lost := x.lost, sample := x.sample, missedProbes := x.missedProbes, nextFetch := x.nextFetch }

/-- The mailbox as a warm reset leaves it (R466). -/
def CfgBox.warm (x : CfgBox) : CfgBox := if x.busy then { x with busy := false, status := 4 } else x

/-- The warm reset of the serving state: every command ends with ABORTED_FAULT, every step is discarded or its set TORN, every fault slot is
freed, and streams, work items, dispatch queues and TLBs are cleared (R398, R399, R466). -/
def State.warmReset (s : State) : State :=
  let s := s.jobs.foldl (fun (s : State) j => (s.endHold j false).dropWaits (agentCmd j.id) true) s
  let s := (s.tsets.map (·.1)).foldl State.abortSet s
  let s := s.rc.fills.foldl (fun (s : State) f => s.endFills f.line fun _ => true) { s with rc := { s.rc with direct := [] } }
  let s := { s with faultsWaiting := [] }
  let s := (s.faults.map (·.slot)).foldl State.freeFault s
  let s := { s with jobs := s.jobs.map Job.warm, items := [], streams := [], memReqs := [], walks := [], tlb2 := [] }
  let s := { s with slices := (s.slices.map fun (e : Nat × Slice) => (e.1, e.2.warm)).filter fun (e : Nat × Slice) => e.2 ≠ ({} : Slice) }
  let s := { s with feeder := {}, trace := { s.trace with waits := [] } }
  let s := { s with notifyPending := false, cfg := s.cfg.warm, pw := { s.pw with cmd := none } }
  let s := { s with fab := { s.fab with remote := [], sweepGot := [], sweepOuts := [], drain := none, drainFor := [], drainLeft := [], drainOut := [], drainCur := none } }
  s.settle

/-! ## Isolation (R395) -/

/-- No port has been UP or DEGRADED for ISOLATE_MS, in an engine that has had links, is not isolated yet and is not DRAINED, a state that only a
reset ends (R392, R395; log entry 47). -/
def State.cutOff (s : State) : Bool :=
  s.fab.st != .isolated && s.fab.st != .drained && allPorts.all (fun p => !(s.fport p).carries) &&
    s.fab.lastUp.any fun t => decide (t + s.isolateMs * 1000000 ≤ s.time)

/-- ISOLATE: the engine isolates itself: ISOLATED, its fabric queues are gone but for queue 0 of CTX 4,095, which expects SEQ 0, and the
serving state is reset (R395). -/
def execIsolate (s : State) : Out :=
  actWhen s s.cutOff fun s =>
    let s := { s with fab := { s.fab with st := .isolated } }
    let s := s.errorRecord { code := 0x000E, unit := 5, action := 10 }
    let s := { s with fabqs := (s.fabqs.filter fun (q : FabQueue) => q.ctx == 4095 && q.queue == 0).map fun (q : FabQueue) => { q with next := 0, buffer := [] } }
    s.warmReset

end Machine

end Sys2Proof
end

