-- ==== Sys2Proof/Machine/FabConf.lean ====
section
/-! DEFINITION. The fabric commands (R389 to R392): SET_NODE, ROUTE_SET, ROUTE_CLEAR, NEIGHBOURS, SHARD_SET, PORT, JOIN and DRAIN, the
deadline of DRAIN, and the timeout of a remote request (R325, R388). -/

namespace Sys2Proof.Machine

/-! ## The node identifier (R389) -/

/-- A physical address of this engine under its new node identifier; any other address as it is. -/
def renode (old new pa : Nat) : Nat := if pa / 2 ^ 50 = old then new * 2 ^ 50 + localOf pa else pa

def MissReq.renode (f : Nat → Nat) (r : MissReq) : MissReq := { r with line := f r.line }

/-- The streams and slices whose requests name lines by physical address. -/
def Stream.renode (f : Nat → Nat) (x : Stream) : Stream := { x with window := x.window.map (·.renode f), issue := x.issue.map (·.renode f) }
def Slice.renode (f : Nat → Nat) (x : Slice) : Slice := { x with tlb := [], reqs := x.reqs.map fun r => { r with line := f r.line } }

def Blocked.renode (f : Nat → Nat) (b : Blocked) : Blocked :=
  match b with
  | .write pa bs acc => .write (f pa) bs acc
  | .alloc pa mask acc => .alloc (f pa) mask acc

/-- What the row cache awaits. -/
def RowCache.renode (f : Nat → Nat) (x : RowCache) : RowCache :=
  { x with
    fills := x.fills.map fun e => { e with line := f e.line }, direct := x.direct.map fun e => (f e.1, e.2), blocked := x.blocked.map (·.renode f)
    snoops := x.snoops.map fun e => (f e.1, e.2), regs := x.regs.map fun e => { e with line := f e.line } }

/-- The node identifier is set: what the engine holds of its own memory is named by the new physical addresses, and translations are made
anew (R288, R389). -/
def State.takeNode (s : State) (node : Nat) : State :=
  let f := Sys2Proof.Machine.renode s.ownNode node
  let s := { s with wc := s.wc.map fun (e : WcEntry) => { e with line := f e.line } }
  let s := { s with memReqs := s.memReqs.map fun (m : MemReq) => { m with line := f m.line } }
  let s := { s with rc := s.rc.renode f }
  let s := { s with streams := s.streams.map fun (e : Nat × Stream) => (e.1, e.2.renode f), tlb2 := [] }
  let s := { s with slices := (s.slices.map fun (e : Nat × Slice) => (e.1, e.2.renode f)).filter fun (e : Nat × Slice) => e.2 ≠ ({} : Slice) }
  let s := { s with trace := { s.trace with pages := s.trace.pages.map f } }
  { s with fab := { s.fab with assigned := true, node := node } }

/-- MALFORMED with reason 0x45, for a field of the block (R389, R391; log entry 44). -/
def State.fabricRefused (s : State) (j : Job) (off w : Nat) : State := s.malformed j 0x45 (0x8000 + off) (field j.block off w)

/-- A node identifier (R288). -/
def nodeRule (b : List Byte) (off : Nat) : FieldRule := blockRule b off 2 (fun v => decide (v < 2 ^ 14))

/-- SET_NODE: sets the node identifier and the fabric manager's node; refused once the engine has joined (R389). -/
def execSetNode (c : CmdId) (s : State) : Out :=
  subRow s c subSetNode fun j s =>
    let b := j.block
    s.checked j [nodeRule b 0, nodeRule b 2, reservedRule b 4 4] fun s =>
      if s.joined then s.fabricRefused j 0 2
      else
        let s := s.takeNode (field b 0 2)
        { s with fab := { s.fab with mgr := field b 2 2, st := if s.fab.st = EngState.isolated then s.fab.st else .configuring } }.complete c

/-! ## Routes (R387, R389) -/

/-- The rules of one route of an entry (R387). -/
def routeRules (b : List Byte) (off : Nat) : List FieldRule :=
  let h := field b off 1
  [⟨bitsOf h 6 3 == 0 && (!bitOf h 7 || (decide (1 ≤ bitsOf h 2 0) && decide (bitsOf h 2 0 ≤ 6))), 0x8000 + off, h⟩] ++
    ((List.range 6).map fun k => blockRule b (off + 1 + k) 1 (fun v => !bitOf v 7)) ++ [reservedRule b (off + 7) 1]

/-- A route of an entry (R387). -/
def routeOf (b : List Byte) (off : Nat) : Route :=
  let h := field b off 1
  { valid := bitOf h 7, bytes := (List.range (bitsOf h 2 0)).map fun k => field b (off + 1 + k) 1 }

/-- The routes of an entry replaced, none of them marked unusable (R387, R388, R389). -/
def State.setRoutes (s : State) (dst : Nat) (e : RouteEntry) : State :=
  { s with fab := { s.fab with
    routes := sput {} s.fab.routes dst e
    unusable := s.fab.unusable.filter fun u => u.1 ≠ dst } }

/-- ROUTE_SET: the entry of a destination is replaced at once (R387, R389). -/
def execRouteSet (c : CmdId) (s : State) : Out :=
  subRow s c subRouteSet fun j s =>
    let b := j.block
    s.checked j ([nodeRule b 0, reservedRule b 2 6] ++ ([8, 16, 24, 32].map (routeRules b)).flatten) fun s =>
      (s.setRoutes (field b 0 2) { routes := [8, 16, 24, 32].map (routeOf b) }).complete c

/-- ROUTE_CLEAR: every route to a destination is invalid (R389). -/
def execRouteClear (c : CmdId) (s : State) : Out :=
  subRow s c subRouteClear fun j s =>
    let b := j.block
    s.checked j [nodeRule b 0, reservedRule b 2 6] fun s => (s.setRoutes (field b 0 2) {}).complete c

/-! ## NEIGHBOURS, SHARD_SET, PORT (R389) -/

/-- The HELLO record of a partner (R385). -/
def Neighbour.record (n : Neighbour) : List Byte :=
  leBytes 2 (n.node + 2 ^ 15 * bit1 n.assigned) ++ leBytes 1 n.port ++ leBytes 1 n.state ++ leBytes 1 n.major ++ leBytes 1 n.minor ++ zeros 2 ++
    leBytes 8 n.serial ++ leBytes 8 n.time ++ zeros 8

/-- The 384 bytes of NEIGHBOURS: for each port the HELLO record of its partner, and 16 bytes for the port's state, in a layout the spec does
not state: its FB_PORT_STATn, and free bytes (R389; DESIGN CHOICE: log entry 49). -/
def State.neighbourBytes (s : State) : List Byte :=
  (allPorts.map fun p => (s.fport p).nbr.record ++ leBytes 4 (s.fport p).stat ++ openBytes (s.fresh + 12 * p.val) 12).flatten

/-- NEIGHBOURS: writes what the ports know of their partners (R389). -/
def execNeighbours (c : CmdId) (s : State) : Out :=
  subRow s c subNeighbours fun j s =>
    let bs := s.neighbourBytes
    ((s.tookN 96).writeVa c (s.cmdSpace c) (field j.block 0 8) bs).complete c

/-- SHARD_SET: names the successor node and image address that DRAIN uses for a table set; SUCC 0xFFFF clears it (R389); one that names a TORN
set is not served (R215). -/
def execShardSet (c : CmdId) (s : State) : Out :=
  subRow s c subShardSet fun j s =>
    let b := j.block
    let succ := field b 2 2
    s.checked j [blockRule b 2 2 (fun v => decide (v < 2 ^ 14) || v == 0xFFFF), reservedRule b 4 4] fun s =>
      let h := field b 0 2
      if s.isTorn h then s.complete c stAborted else
      let shards := if succ = 0xFFFF then serase s.fab.shards h else sinsert s.fab.shards h (succ, field b 8 8)
      { s with fab := { s.fab with shards := shards } }.complete c

/-- PORT: acts through FB_PORT_CTLn (R389, R397). -/
def execPort (c : CmdId) (s : State) : Out :=
  subRow s c subPort fun j s =>
    let b := j.block
    let n := field b 0 1
    let action := field b 1 1
    s.checked j [blockRule b 0 1 (fun v => decide (v < 8)), blockRule b 1 1 (fun v => decide (v ≤ 3)), reservedRule b 2 6] fun s =>
      if h : n < 8 then
        let p : Fin 8 := ⟨n, h⟩
        (if action = 0 then s.enablePort p false
         else if action = 1 then s.enablePort p true
         else if action = 2 then s.retrainPort p
         else s.acceptPort p).complete c
      else s

/-! ## JOIN (R390, R391, R406) -/

/-- The rules of a JOIN block (R391). -/
def joinRules (b : List Byte) : List FieldRule :=
  [nodeRule b 0, blockRule b 2 2 (fun v => decide (v < 2)), blockRule b 4 2 (fun v => decide (1 ≤ v) && decide (v ≤ 1000)),
   blockRule b 6 2 (fun v => decide (1 ≤ v)), reservedRule b 8 8]

/-- The engine serves: FB_TIMERS and MGR are set, the LOSS frames are built, and CTX 4,095 is the manager's (R391, R406). -/
def State.joinSystem (s : State) (b : List Byte) : State :=
  let mgr := field b 0 2
  let s := s.setReg 0x80008 (BitVec.ofNat 32 (field b 4 2 * 2 ^ 16 + field b 6 2))
  let s := { s with fab := { s.fab with mgr := mgr, st := .serving, hasJoined := true, rejoin := false } }.buildLoss
  match s.context? 4095 with
  | some x => s.setContext 4095 { x with srcMask := 0x3FFF, srcNode := mgr }
  | none => s

/-- JOIN: refused with reason 0x45 when no node identifier is set, no valid route to MGR exists, or the engine is SERVING (R391). -/
def execJoin (c : CmdId) (s : State) : Out :=
  cmdRow s c opJoin fun j s =>
    let b := j.block
    s.checked j (joinRules b) fun s => s.plinth j true fun s =>
      if s.fab.assigned = false ∨ s.fab.st = .serving ∨ s.hasRoute (field b 0 2) = false then s.fabricRefused j 0 2
      else (s.joinSystem b).complete c

/-! ## DRAIN (R392) -/

/-- The address of an image at the successor node of a table set (R288, R392; log entry 50). -/
def shardAddr (succ addr : Nat) : Nat := succ * 2 ^ 50 + localOf addr

/-- Lines of an image that can leave now; answers those that still wait. A line that no route can carry ends the image (R387, R392). -/
def State.sendLines (s : State) (c : CmdId) (ls : List (Nat × List Byte)) : State × List (Nat × List Byte) :=
  match ls with
  | [] => (s, [])
  | (pa, bs) :: rest =>
    match s.remoteSend c c.ctx pa bs.length (some bs) with
    | some s' => (s'.updJob c fun j => { j with acks := j.acks + 1 }).sendLines c rest
    | none => if s.reachable pa then (s, (pa, bs) :: rest) else (s.cause c stAborted { value := pa }, [])

/-- The image of the first set that is left is read and its lines are queued: a TORN set, one whose image cannot be read, or one that is not OPEN
at the deadline is skipped (R212, R392; log entry 45). -/
def State.drainSet (s : State) (j : Job) : State :=
  let c := j.id
  match s.fab.drainLeft with
  | [] => s
  | h :: rest =>
    let skip := fun (s : State) => ({ s with fab := { s.fab with drainLeft := rest } } : State).cause c stAborted { object := h }
    match s.tset? h, kget s.fab.shards h with
    | some t, some (succ, addr) =>
      if t.st = .torn then skip s
      else if t.st ≠ .opened then (if s.fab.drainAt ≤ s.time then skip s else s)
      else
        match s.flushSketch c (s.whoJob c) h with
        | (s, false) => s
        | (s, true) =>
        (match readImage c (s.whoJob c) (s.sections h) [] s with
         | (s, .wait) => s
         | (s, .stop _ _) => skip s
         | (s, .ok b) =>
           { s with fab := { s.fab with drainLeft := rest, drainOut := pieces (shardAddr succ addr) b, drainCur := some (b.length, j.causes.length) } })
    | _, _ => { s with fab := { s.fab with drainLeft := rest } }

/-- A DRAIN goes on: the commands accepted before DRAINING run to their ends, then each image is sent and acknowledged, then the engine is
DRAINED (R392). -/
def State.drainGo (s : State) (j : Job) : State :=
  let c := j.id
  if s.jobs.any (fun k => s.fab.drainFor.contains k.id) then s
  else if s.fab.drainOut ≠ [] then
    let (s, left) := s.sendLines c s.fab.drainOut
    { s with fab := { s.fab with drainOut := left } }
  else if j.acks ≠ 0 then s
  else
    match s.fab.drainCur with
    | some (n, causes) =>
      let s := { s with fab := { s.fab with drainCur := none } }
      if j.causes.length = causes then s.updJob c fun j => { j with value0 := j.value0 + 1, value1 := j.value1 + n } else s
    | none =>
      if s.fab.drainLeft = [] then { s with fab := { s.fab with st := .drained, drain := none } }.complete c else s.drainSet j

/-- The engine enters DRAINING: it refuses new commands, and hands off every table set that has a successor (R363, R392). -/
def State.drainStart (s : State) (j : Job) : State :=
  let b := j.block
  s.checked j [blockRule b 0 2 (fun v => decide (1 ≤ v)), reservedRule b 2 14] fun s =>
    let fab := { s.fab with
      st := .draining, drain := some j.id, drainFor := (s.jobs.map (·.id)).filter (· ≠ j.id)
      drainAt := s.time + field b 0 2 * 1000000, drainLeft := s.fab.shards.map (·.1) }
    { s with fab := fab }.await j.id

/-- DRAIN (R392). -/
def execDrain (c : CmdId) (s : State) : Out :=
  cmdRow s c opDrain fun j s => if j.phase = .waiting then s.drainGo j else s.drainStart j

/-- The commands that a DRAIN still waits for. -/
def State.drainWaits (s : State) : List Job := s.jobs.filter fun k => s.fab.drainFor.contains k.id && k.phase != .finishing

/-- DRAIN_DEADLINE: commands still running end with ABORTED_FAULT; a window that one of them had open goes on without it, as R188 has no other
change (R392; DEDUCED: log entry 45). -/
def execDrainDeadline (s : State) : Out :=
  actSWhen s (s.fab.drain.isSome && decide (s.fab.drainAt ≤ s.time)) fun s =>
    s.drainWaits.foldl (fun (s : State) j => (s.endHold j true).fail j.id stAborted) s

/-! ## Timeouts of remote requests (R325, R388) -/

/-- A read of a gather that failed: the command of the stream that waits for its line ends with ABORTED_FAULT (R325). -/
def State.failRemoteRead (s : State) (m : MemReq) (st : Nat) : State :=
  let waits := s.waitersOf m.line m.stream true != []
  let b := s.lineBag m.stream m.line
  let s := s.dropReads m.line m.stream true
  if waits then s.abortFrom m.stream b st { reason := if st = stProtection then 0x55 else 0, object := 0xFFFF, value := m.line } else s

/-- A remote request ends without its data: a read of a gather, a read of a command, or a write (R325, R379). A line of a DRAIN's image that is
refused leaves its image unwritten (R392). -/
def State.failRemote (s : State) (r : RemoteReq) (st : Nat) : State :=
  let s := { s with fab := { s.fab with remote := s.fab.remote.erase r } }
  match r.mem with
  | some m => s.failRemoteRead m st
  | none =>
    let st := if r.isWrite ∧ s.fab.drain = some r.cmd then stAborted else st
    if r.isWrite then (s.cause r.cmd st { reason := if st = stProtection then 0x55 else 0, object := 0xFFFF, value := r.addr }).updJob r.cmd (fun j => { j with acks := j.acks - 1 }) |>.remoteEnded
    else ((s.keepAnswer r.cmd (r.addr / 256 * 256) (.status st)).parse r.cmd).remoteEnded

/-- REMOTE_REQUEST_TIMEOUT: no response within RTMO_US (R325, R388). -/
def execRemoteRequestTimeout (tag : Nat) (s : State) : Out :=
  actS s fun s =>
    match s.fab.remote.find? fun r => r.tag == tag && decide (r.sentAt + s.rtmoUs * 1000 ≤ s.time) with
    | some r => s.failRemote r stAborted
    | none => s

end Sys2Proof.Machine
end

