-- ==== Sys2Proof/Machine/FaultRows.lean ====
section
/-! DEFINITION. The service queue and the answers of the memory manager: fault records posted (R319, R320), DONE writes and
timeouts (R321), and the acknowledgement of notifications (R470, R471). -/

namespace Sys2Proof.Machine

/-! ## Posting (R320, R471) -/

/-- The 64 bytes of a fault record (R320). -/
def FaultSlot.bytes (f : FaultSlot) (phase : Bool) : List Byte :=
  leBytes 1 f.typ ++ leBytes 1 f.source ++ leBytes 2 (f.slot + 1024 * f.reuse) ++ leBytes 2 f.ctx ++ leBytes 1 f.seg ++
    leBytes 1 (bit1 f.write + 128 * bit1 phase) ++ leBytes 8 f.va ++ leBytes 8 f.time ++ leBytes 4 f.gen ++ leBytes 2 f.whereIs ++
    zeros 2 ++ leBytes 8 f.pa ++ leBytes 4 f.count ++ leBytes 4 f.cmdSeq ++ zeros 16

/-- Slots of the service queue. -/
def State.sqSize (s : State) : Nat := 2 ^ s.sqLog2

/-- Whether the service queue has no room: the tail is one slot behind the head (R320). -/
def State.sqFull (s : State) : Bool := (s.sqTail + 1) % s.sqSize == s.sqHead % s.sqSize

/-- A notification is sent while none is unacknowledged (R471). -/
def State.sqNotify (s : State) : State :=
  if s.notifyPending then s else ({ s with notifyPending := true, notifiedTail := s.sqTail }).send (.sqNotify s.sqTail)

/-- A record is written at the tail, the tail advances, and the processor complex is notified (R320, R471). A HOT_PAGE record needs no
reply, so its slot is free at once (R327). -/
def State.postFault (s : State) (f : FaultSlot) : State :=
  let slot := s.sqTail
  let next := (slot + 1) % s.sqSize
  let phase := s.sqPhase
  let pa := s.physOf (s.sqBase + 64 * slot)
  let s := if s.isMemory (localOf pa) then (s.store pa (f.bytes phase) { wattr := 1, shared := true }).1 else s.undecoded pa
  let s := { s with sqTail := next, sqPhase := if next = 0 then !phase else phase }
  let s := s.sqNotify
  if f.typ = 8 then s.freeFault f.slot
  else
    let tmo := s.faultTmoUs
    { s with faults := s.faults.map fun (x : FaultSlot) => if x.slot = f.slot then { x with posted := some (s.time, tmo) } else x }

/-- FAULT_RECORD_POST: the record of a fault slot is posted, when the queue is enabled and has room (R319, R320). -/
def execFaultRecordPost (slot : Fin 1024) (s : State) : Out :=
  actSWhen s (s.sqEn && !s.sqFull) fun s =>
    match s.faults.find? fun (f : FaultSlot) => f.slot == slot.val && f.posted == none with
    | some f => s.postFault f
    | none => s

/-! ## Answers (R321) -/

/-- How a fault is answered: resolved, or with a status for the access (R321). -/
inductive Answer where
  | resolved
  | status (st : Nat)
  deriving DecidableEq, Repr

/-- Entries of both TLB levels that cover a page are dropped: the translation is retried from the walk (R321). -/
def State.dropTlb (s : State) (ctx seg page : Nat) : State :=
  let keep := fun (e : TlbEntry) => !(e.ctx == ctx && e.seg == seg && decide (e.page ≤ page) && decide (page < e.page + 2 ^ e.runLog2))
  { s with
    tlb2 := (s.tlb2.map fun (e : Nat × List TlbEntry) => (e.1, e.2.filter keep)).filter fun e => e.2 ≠ []
    slices := (s.slices.map fun (e : Nat × Slice) => (e.1, { e.2 with tlb := e.2.tlb.filter keep })) }

/-- A stream's row references are released: they are translated again in order (R110). -/
def State.releaseRefs (s : State) (k : Nat) : State :=
  s.updStream k fun x => { x with faulted := false, st := if x.st = .held then .running else x.st }

/-- The detail of a status that an answer gives to a row reference: its table and row (R356). -/
def State.refDetail (s : State) (k : Nat) (va : Nat) : ErrDetail :=
  match (s.stream k).queue with
  | .ref q :: _ => { object := q.table.getD 0xFFFF, value := q.row }
  | _ => { object := 0xFFFF, value := va }

/-- The access of a command completes with a status: its status record's address redirects the record (R360); one of pass 1 of a scatter
aborts the work item that meets it (R116), and one of a LOAD_PLAN may be of a record that cannot be read (R185); any other access ends the
command (R321). -/
def State.answerJob (s : State) (c : CmdId) (f : FaultSlot) (st : Nat) : State :=
  let va := f.va
  match s.job? c with
  | none => s
  | some j =>
    if j.settled then
      s.updJob c fun j => if pktReply j.pkt = 0 ∨ j.redirect then { j with recordLost := true } else { j with redirect := true }
    else
      let note := s.updJob c fun j => { j with answers := j.answers ++ [(f.seg, f.page, f.typ, st)] }
      match j.scatter with
      | some x =>
        if x.rolling then s.loseAdds c x.tset
        else if x.pass1 then s.fail c st { object := 0xFFFF, value := va }
        else note
      | none => if pktOpcode j.pkt = opLoadPlan ∧ j.parsed then note else s.fail c st { object := 0xFFFF, value := va }

/-- One requester of a fault is answered (R321). -/
def State.answerOne (s : State) (f : FaultSlot) (a : Answer) (w : XWaiter) : State :=
  let s := s.closeWait 6 w.agent (decide (a = .status stAborted)) none none
  match w, a with
  | .operand k, .resolved => s.updStream k fun x => { x with waitOperand := false }
  | .operand k, .status st => s.abortItem k st { object := 0xFFFF, value := f.va }
  | .rowRef k, .resolved => s.releaseRefs k
  | .rowRef k, .status st => s.abortFront k st (s.refDetail k f.va)
  | .job c, .resolved => (s.retryOuts c).parse c
  | .job c, .status st => s.answerJob c f st
  | .apply h, .resolved => if ((s.tset? h).map (·.recordDue)).getD false then s.dueRecord h noCmd else s
  | .apply h, .status st => s.updTset h fun t =>
      { t with recordDue := false, apply := t.apply.map fun x => { x with answers := x.answers ++ [(f.seg, f.page, f.typ, st)] } }
  | .fetchQueue _, .resolved => s
  | .fetchQueue i, .status _ => s.queueError i f.ctx
  | .prefetch, _ => s
  | .sweep _, .resolved => s.sweepsGoOn
  | .sweep h, .status _ => s.skipSweep h f.va

/-- A fault is answered to every requester that joined it, and its slot is freed under a new reuse count (R319, R321). -/
def State.answerFault (s : State) (f : FaultSlot) (a : Answer) : State :=
  let s := s.freeFault f.slot
  let s := match a with
    | .resolved => s.dropTlb f.ctx f.seg f.page
    | .status _ => s
  f.joiners.foldl (fun s w => s.answerOne f a w) s

/-- The outstanding fault of a FAULT_ID: its record has been posted (R320, R321). -/
def State.outstanding (s : State) (id : Nat) : Option FaultSlot :=
  s.faults.find? fun (f : FaultSlot) => f.slot + 1024 * f.reuse == id && f.posted != none

/-- A write of XL_FAULT_DONE (R321, R330). -/
def State.faultDone (s : State) (outcome id : Nat) : State :=
  if outcome = 3 then s
  else
    match s.outstanding id with
    | none => s.countEngine 16 1
    | some f => s.answerFault f (if outcome = 0 then .resolved else if outcome = 1 then .status stProtection else .status stWalkError)

/-- XL_FAULT_DONE: the memory manager answers a fault record (R321). -/
def execXlFaultDone (r : Requester) (outcome : BitVec 2) (faultId : BitVec 16) (s : State) : Out :=
  actReg s 0x40014 r (·.faultDone outcome.toNat faultId.toNat)

/-- Whether a posted fault has had no DONE within the timeout that was in force when it was posted (R321). -/
def FaultSlot.late (f : FaultSlot) (t : Nat) : Bool :=
  match f.posted with
  | some (at_, tmo) => decide (tmo ≠ 0) && decide (at_ + 1000 * tmo ≤ t)
  | none => false

/-- The status that a timeout gives to a requester: an apply row ends as a walk-error update (R321), other work of the window as
ABORTED_FAULT (R480). -/
abbrev timeoutAnswer : Answer := .status stAborted

/-- FAULT_TIMEOUT: a fault with no answer is ended, with its record; its work items are aborted (R321, R426). -/
def execFaultTimeout (slot : Fin 1024) (s : State) : Out :=
  actS s fun s =>
    match s.faults.find? fun (f : FaultSlot) => f.slot == slot.val && f.late s.time with
    | none => s
    | some f =>
      let s := s.errorRecord { code := 0x0018, action := 11, ctx := f.ctx, gen := f.gen, cmdSeq := f.cmdSeq }
      s.answerFault f timeoutAnswer

/-! ## Notifications (R470, R471) -/

/-- An ACK: PENDING clears, and a new notification leaves at once when the tail has moved (R471). -/
def State.sqAck (s : State) : State :=
  if s.notifyPending = false then s
  else
    let s := { s with notifyPending := false }
    if s.sqTail = s.notifiedTail then s else s.sqNotify

/-- XL_SQ_NOTIFY_ACK: the memory manager acknowledges a notification (R470, R471). -/
def execXlSqNotifyAck (r : Requester) (s : State) : Out := actReg s 0x4001C r (·.sqAck)

end Sys2Proof.Machine
end

