-- ==== Sys2Proof/Machine/RegWrite.lean ====
section
/-! DEFINITION. What a write to the control window does (R9 to R11, R460 to R473): the stored fields with their bounds, the bits cleared by
writing 1, the actions, and the 64-bit pairs with their write holds; HIGH_WORD_WRITE, LOW_WORD_WRITE and REGISTER_WRITE. -/

namespace Sys2Proof.Machine

/-! ## Stored fields (R9, R10) -/

/-- The value that a register keeps of a write: its RW bits, within the bounds of its fields (R124, R282, R328, R422, R441). -/
def keptValue (off : Nat) (v : BitVec 32) : BitVec 32 :=
  let w := v &&& storedMask off
  let n := w.toNat
  if off = 0x30000 then BitVec.ofNat 32 (min 32 n)
  else if off = 0xB0004 then BitVec.ofNat 32 (n / 2 ^ 16 * 2 ^ 16 + max 10 (min 500 (bitsOf n 8 0)))
  else if off = 0xE0040 then
    BitVec.ofNat 32 (n / 2 ^ 16 * 2 ^ 16 + max 2 (min 18 (bitsOf n 15 8)) * 2 ^ 8 + max 2 (min 4 (bitsOf n 7 0)))
  else if regIn off 0x100C0 0x1000 16 then BitVec.ofNat 32 (min 4096 n)
  else w

/-- Whether a write of stored fields is ignored: MP_QLOCAL once LOCKED is set, and a mirror mask of zero (R282, R291). -/
def State.keeps (s : State) (off : Nat) (v : BitVec 32) : Bool :=
  !(off == 0x30000 && s.qlocked) && !(off == 0x20008 && v &&& 0xFFFF == 0)

/-- The stored fields of a register written; the size that CT_EXPn announces is noted (R305). -/
def State.writeStored (s : State) (off : Nat) (v : BitVec 32) : State :=
  if storedMask off ≠ 0 ∧ s.keeps off v = true then
    let s := s.setReg off (keptValue off v)
    if regIn off 0x90000 4 16 then s.noteExp ((off - 0x90000) / 4) else s
  else s

/-! ## Bits cleared by writing 1 -/

/-- PA_STATn (R248). -/
def ArrayUnit.clear (x : ArrayUnit) (v : Nat) : ArrayUnit :=
  { x with
    sat := x.sat && !bitOf v 3, parity := x.parity && !bitOf v 2, bufEcc := x.bufEcc && !bitOf v 1, bufUe := x.bufUe && !bitOf v 0 }

/-- The W1C registers (R9, R248, R285, R336, R397, R422, R474). -/
def State.writeClear (s : State) (off : Nat) (v : BitVec 32) : State :=
  let n := v.toNat
  if off = 0x20018 then s.setReg off (s.reg off &&& ~~~v)
  else if off = 0x50000 then (if bitOf n 31 then { s with qerrValid := false } else s)
  else if h : regIn off 0x80100 4 8 ∧ (off - 0x80100) / 4 < 8 then
    (if bitOf n 27 then s.updFport ⟨(off - 0x80100) / 4, h.2⟩ fun x => { x with nbrChanged := false } else s)
  else if h : regIn off 0xA0000 0x20 4 ∧ (off - 0xA0000) / 0x20 < 4 then
    { s with arrays := s.arrays.set ((off - 0xA0000) / 0x20) ((s.arrays[(off - 0xA0000) / 0x20]).clear n) h.2 }
  else if off = 0xB0008 then (if bitOf n 28 then { s with pw := { s.pw with discFault := false } } else s)
  else if off = 0xE0058 then { s with err := { s.err with irq := s.err.irq &&& ~~~(v.truncate 3) } }
  else s

/-! ## Actions -/

/-- FB_PORT_CTLn: EN, then RETRAIN, then ACCEPT (R397). -/
def State.writePortCtl (s : State) (p : Fin 8) (v : Nat) : State :=
  let s := s.enablePort p (bitOf v 0)
  let s := if bitOf v 2 then s.retrainPort p else s
  if bitOf v 3 then s.acceptPort p else s

/-- A heartbeat slot of a control core: its own heartbeat, or a TAKEOVER by another (R435). -/
def State.writeBeat (s : State) (r : Requester) (n : Fin 4) (v : Nat) : State :=
  match r with
  | .cc m => if m = n then s.beatCc n else if bitOf v 31 then s.takeOver m n else s
  | _ => s

/-- TR_HEAD: the consumer has read on, and a LOSS record that waited for a slot is written (R454, R459). -/
def State.writeTraceHead (s : State) (v : Nat) : State :=
  let s := { s with trace := { s.trace with head := v % 2 ^ 20 } }
  if s.alive then s.traceLoss else s

/-- A write to a register whose write is an action (R9): none for the other registers. -/
def State.writeAction (s : State) (r : Requester) (off : Nat) (v : BitVec 32) : Option State :=
  let n := v.toNat
  if off = 0x2001C then some (if bitOf n 31 then s.mapOut (bitsOf n 5 0) else s)
  else if off = 0x40014 then some (s.faultDone (bitsOf n 31 30) (bitsOf n 15 0))
  else if off = 0x4001C then some (if bitOf n 0 then s.sqAck else s)
  else if 0x60000 ≤ off ∧ off < 0x70000 then some (s.ringDoorbell r ((off - 0x60000) / 4) (bitsOf n 15 0) (bitsOf n 31 16))
  else if h : regIn off 0x80140 4 8 ∧ (off - 0x80140) / 4 < 8 then some (s.writePortCtl ⟨(off - 0x80140) / 4, h.2⟩ n)
  else if off = 0x90090 then some (s.cfgGo v)
  else if off = 0x90094 then some (if s.cfg.busy then s else { s with cfg := { s.cfg with data := v } })
  else if off = 0xA0100 then some (s.writePaCtl v)
  else if off = 0xC0000 then some (if bitOf n 31 then s.capture r else s)
  else if off = 0xC000C then some (s.updReq r fun x => { x with pcSel := v })
  else if off = 0xD0008 then some (s.writeTraceHead n)
  else if off = 0xE0020 then some s.beatPlinth
  else if h : regIn off 0xE0024 4 4 ∧ (off - 0xE0024) / 4 < 4 then some (s.writeBeat r ⟨(off - 0xE0024) / 4, h.2⟩ n)
  else if off = 0xE0050 then some (if bitOf n 0 then s.raiseFence 4 else s)
  else none

/-! ## The 64-bit pairs (R11) -/

/-- The pairs that take writes (R467). -/
def isRwPair (off : Nat) : Bool := off == 0x40000 || off == 0x40020 || off == 0x90080 || off == 0xE0000

/-- A high word waits in the requester's hold (R11). -/
def State.holdHigh (s : State) (r : Requester) (low : Nat) (v : BitVec 32) : State :=
  s.updReq r fun x => { x with holds := x.holds.filter (fun e => e.1 ≠ low) ++ [(low, v)] }

/-- A low word as its register keeps it: bits [5:0] of the bases of the service queue and of the error ring are zero (R330, R441; log entry
119). -/
def keptLow (off : Nat) (v : BitVec 32) : BitVec 32 := if off = 0x40000 ∨ off = 0xE0000 then v &&& ~~~0x3F else v

/-- A low word is written, with the high word that the requester holds, if any; the hold is then empty (R11). -/
def State.commitPair (s : State) (r : Requester) (low : Nat) (v : BitVec 32) : State :=
  let hold := (s.reqState r).holds.find? fun e => e.1 == low
  let s := s.setReg low (keptLow low v)
  match hold with
  | some e => (s.setReg (low + 4) e.2).updReq r fun x => { x with holds := x.holds.filter fun e => e.1 ≠ low }
  | none => s

/-! ## Writes -/

/-- An aligned 32-bit write that reaches its register (R9 to R11, R460). -/
def State.writeReg (s : State) (r : Requester) (off : Nat) (v : BitVec 32) : State :=
  if isRwPair off then s.commitPair r off v
  else if 4 ≤ off ∧ isRwPair (off - 4) = true then s.holdHigh r (off - 4) v
  else
    match s.writeAction r off v with
    | some s => s
    | none =>
      let s := (s.writeStored off v).writeClear off v
      if off = 0x20000 ∧ bitOf v.toNat 2 = true then s.loadLfsrs else s

/-- HIGH_WORD_WRITE: the high word of a 64-bit pair is held for the requester (R11). -/
def execHighWordWrite (r : Requester) (off : Nat) (v : BitVec 32) (s : State) : Out :=
  actReg s off r fun s => if 4 ≤ off ∧ isRwPair (off - 4) = true then s.holdHigh r (off - 4) v else s

/-- LOW_WORD_WRITE: the low word of a 64-bit pair commits it with the requester's held high word (R11). -/
def execLowWordWrite (r : Requester) (off : Nat) (v : BitVec 32) (s : State) : Out :=
  actReg s off r fun s => if isRwPair off then s.commitPair r off v else s

/-- REGISTER_WRITE: an aligned 32-bit write of a register (R9, R460, R462, R464, R465). -/
def execRegisterWrite (r : Requester) (off : Nat) (v : BitVec 32) (s : State) : Out :=
  actReg s off r fun s => if goodAccess off 4 then s.writeReg r off v else s

end Sys2Proof.Machine
end

