-- ==== Sys2Proof/Machine/Frames.lean ====
section
/-! DEFINITION. Frames that arrive on a port: acceptance by the link (R376, R378, R380 to R386), delivery and forwarding (R387, R388, R390),
fabric commands (R338, R362), remote requests and their answers (R325, R379), announcements (R390, R393, R394) and register accesses
(R396). -/

namespace Sys2Proof.Machine

/-! ## The link (R376, R378, R380, R381) -/

/-- How far a link sequence number lies ahead of the one expected, modulo 2^16. -/
def seqAhead (lseq rx : Nat) : Nat := (lseq % 2 ^ 16 + 2 ^ 16 - rx % 2 ^ 16) % 2 ^ 16

/-- Whether a port takes a routed frame of a type now (R382, R386). -/
def Port.takes (x : Port) (typ : Nat) : Bool := x.carries || (x.st == .held && typeTc typ == 0)

/-- A routed frame meets the link's sequence: it is accepted, or discarded with a NAK when it lies ahead and without one when it is a
duplicate (R381). -/
def State.linkIn (s : State) (p : Fin 8) (f : Frame) (route : State → State) : State :=
  let x := s.fport p
  if x.takes f.typ = false then s
  else
    let s := s.acknowledge p f.lack
    let d := seqAhead f.lseq x.rxSeq
    if d = 0 then route (s.updFport p fun x => { x with rxSeq := (x.rxSeq + 1) % 2 ^ 16 })
    else if d < 2 ^ 15 then s.sendAck p true
    else s

/-- A frame's Ethernet and transport headers are those of a frame of its row, or it is discarded and counted (R376, R378; log entry 52). -/
def State.headIn (s : State) (f : Frame) (typ : Nat) (go : State → State) : State :=
  if f.typ ≠ typ then s
  else if f.etype ≠ s.etherType then s.countEngine 17 1
  else if f.ver ≠ 1 then s.countEngine 18 1
  else go s

/-! ## Delivery and forwarding (R387, R388, R390) -/

/-- Whether a frame is for this engine (R387). -/
def State.isMine (s : State) (f : Frame) : Bool := (s.fab.assigned && f.dst == s.fab.node) || (f.direct && f.hopIdx == f.hops)

/-- Whether a port can take a frame to forward: one that seeks a working pair holds it (R382, R383, R388). -/
def Port.canForward (x : Port) (f : Frame) : Bool := x.carries || x.st == .realign || (x.st == .held && typeTc f.typ == 0)

/-- A frame moves on by its own route, or comes back as UNREACHABLE; it leaves its buffer when it is sent (R380, R387, R388). -/
def State.forward (s : State) (p : Fin 8) (f : Frame) : State :=
  let b := f.route.getD f.hopIdx 0
  let out := routePort b
  if h : out < 8 then
    if (s.fport ⟨out, h⟩).canForward f then
      let g := { f with route := f.route.set f.hopIdx (routeWithRet b p.val), hopIdx := f.hopIdx + 1, vl := f.vl || routeDateline b }
      s.passOn p ⟨out, h⟩ f g
    else (s.freeFrame p f).sendUnreachable p f
  else s.freeFrame p f

/-- A routed frame accepted by its link is delivered, forwarded, or discarded and counted (R387, R390). -/
def State.routeIn (s : State) (p : Fin 8) (f : Frame) (deliver : State → State) : State :=
  if s.isMine f then deliver (s.freeFrame p f)
  else if f.hopIdx < f.hops then (if s.joined then s.forward p f else (s.freeFrame p f).countEngine 20 1)
  else (s.freeFrame p f).countEngine 19 1

/-- A routed frame of a row arrives. -/
def routedRow (s : State) (p : Fin 8) (f : Frame) (typ : Nat) (deliver : State → State) : Out :=
  actS s fun s => s.headIn f typ fun s => s.linkIn p f fun s => s.routeIn p f deliver

/-- A frame of one link arrives on a trained port: it carries LACK, and no LSEQ (R378, R382). -/
def linkRow (s : State) (p : Fin 8) (f : Frame) (typ : Nat) (deliver : State → State) : Out :=
  actS s fun s =>
    if (s.fport p).talks || (s.fport p).st == .discovery then s.headIn f typ fun s => deliver (s.acknowledge p f.lack) else s

/-- A frame that came in on port `p` is sent on by the engine's own route table, its source kept (R390, R393). -/
def State.sendOn (s : State) (p : Fin 8) (f g : Frame) : State :=
  match bestRoute (s.usableRoutes g.dst (typeTc g.typ)) with
  | none => s.freeFrame p f
  | some (_, r) =>
    let out := routePort (r.bytes.getD 0 0)
    if h : out < 8 then
      s.passOn p ⟨out, h⟩ f { g with direct := false, hops := r.bytes.length, hopIdx := 1, vl := false, route := padRoute r.bytes }
    else s.freeFrame p f

/-- The answer to a frame: by the route table when it has a route to the source, else along the reverse of the RET bytes (R388, R390): its
port, and the frame. -/
def State.answer (s : State) (p : Fin 8) (f : Frame) (r : Frame) : Nat × Frame :=
  let g := { r with dst := f.src, src := s.ownNode, hopIdx := 1, ctx := f.ctx, tag := f.tag, tc := typeTc r.typ,
                      addr := if r.typ = ftRdResp ∨ r.typ = ftWrAck then f.addr else 0 }
  match if f.direct then none else bestRoute (s.usableRoutes f.src (typeTc r.typ)) with
  | some (_, x) => (routePort (x.bytes.getD 0 0), { g with hops := x.bytes.length, route := padRoute x.bytes })
  | none =>
    let back := returnPath f
    (p.val, { g with direct := true, hops := back.length + 1, route := padRoute (p.val :: back) })

/-- An answer leaves. -/
def State.sendAnswer (s : State) (a : Nat × Frame) : State :=
  if h : a.1 < 8 then (s.queueFrame ⟨a.1, h⟩ a.2).pumpPort ⟨a.1, h⟩ else s

/-! ## Commands and status records (R338, R362, R390) -/

/-- A fabric command goes to the parser (R363). -/
def State.acceptFabric (s : State) (bs : List Byte) (o : Origin) (ok : Bool) : State :=
  let p := bs.take (64 + pktPlen bs)
  s.accept (pktId p) p (.fabric o) ok

def State.updFabq (s : State) (ctx q : Nat) (f : FabQueue → FabQueue) : State :=
  { s with fabqs := s.fabqs.map fun (x : FabQueue) => if x.ctx = ctx ∧ x.queue = q then f x else x }

/-- Packets of a fabric queue that are next in order go to the parser (R338). -/
def State.drainFabq (s : State) (ctx q fuel : Nat) : State :=
  match fuel with
  | 0 => s
  | fuel + 1 =>
    match s.fabqs.find? fun x => x.ctx == ctx && x.queue == q with
    | none => s
    | some x =>
      match x.buffer.find? fun e => e.1 == x.next with
      | none => s
      | some (n, bs, o) =>
        let s := s.updFabq ctx q fun x => { x with next := (x.next + 1) % 2 ^ 32, buffer := x.buffer.filter fun e => e.1 ≠ n }
        (s.acceptFabric bs o (s.fabricOk ctx o.node)).drainFabq ctx q fuel

/-- A command packet is delivered: it takes its place in its queue's order, or is discarded and counted; whether its source is allowed is the
parser's check, in its turn (R338, R362, R363; log entry 55). -/
def State.takeCommand (s : State) (p : Fin 8) (f : Frame) : State :=
  let bs := f.payload
  let ctx := pktCtx bs
  let q := pktQueue bs
  let o : Origin := { port := p.val, node := f.src, back := returnPath f, direct := f.direct }
  if bs.length < 64 then s
  else
    match s.fabqs.find? fun x => x.ctx == ctx && x.queue == q with
    | none => s.acceptFabric bs o false
    | some x =>
      if x.deleting then s.acceptFabric bs o false
      else
        let d := (pktSeq bs + 2 ^ 32 - x.next) % 2 ^ 32
        if 64 ≤ d ∨ x.buffer.any (fun e => e.1 == pktSeq bs) = true then s.countCtx ctx 10 1
        else (s.updFabq ctx q fun x => { x with buffer := x.buffer ++ [(pktSeq bs, bs, o)] }).drainFabq ctx q 64

/-- Whether a CMD frame is delivered before JOIN: from MGR, or with DIRECT set (R390). -/
def State.cmdAllowed (s : State) (f : Frame) : Bool := s.joined || f.direct || (s.fab.assigned && f.src == s.fab.mgr)

/-- CMD: a command packet by the fabric (R338, R390, R405). -/
def execCmd (p : Fin 8) (f : Frame) (s : State) : Out :=
  routedRow s p f ftCmd fun s => if s.isReady && s.cmdAllowed f then s.takeCommand p f else s.countEngine 20 1

/-- STATUS: a status record is for a client; the engine has no use for it (R378). -/
def execStatus (p : Fin 8) (f : Frame) (s : State) : Out := routedRow s p f ftStatus fun s => s

/-! ## Remote requests served (R309, R325, R379) -/

/-- The attributes of an access for another node: by the request's context, through the row cache (R325; log entry 53). -/
def State.remoteAccess (s : State) (f : Frame) (w : Waiter) : Access := { ctx := f.ctx, part := s.partOf f.ctx, wattr := 2, waiter := w, ue := { code := 0x0007, action := 12 } }

/-- The status of a remote request before it is served: refused before JOIN, undecoded, or not granted (R289, R309, R379, R390). -/
def State.remoteStatus (s : State) (f : Frame) (n : Nat) (write : Bool) : Nat :=
  if s.joined = false then 1
  else if s.isLocal f.addr = false ∨ s.isMemory (localOf f.addr) = false ∨ s.isMemory (localOf (f.addr + n - 1)) = false then 3
  else if s.granted f.ctx (localOf f.addr) write = false then 1
  else 0

/-- The port of a remote request's address has its grant entry at hand (R309, R325). -/
def State.fetchRemoteGrant (s : State) (f : Frame) : State :=
  if s.joined && s.isLocal f.addr && s.isMemory (localOf f.addr) then s.fetchGrant f.ctx (localOf f.addr) else s

/-- A remote read is served: its data, or RSTAT (R325, R379). -/
def State.serveRead (s : State) (p : Fin 8) (f : Frame) : State :=
  let s := s.fetchRemoteGrant f
  let st := s.remoteStatus f f.len false
  let no := fun (s : State) (n : Nat) => s.sendAnswer (s.answer p f { typ := ftRdResp, rstat := n })
  if st ≠ 0 then no (if st = 1 ∧ s.joined = true then s.denied f.ctx (localOf f.addr) else s) st
  else if s.onLostPort (localOf f.addr) then no s 2
  else
    match s.loadCounted f.addr f.len (s.remoteAccess f .none) with
    | (s, some bs) => s.sendAnswer (s.answer p f { typ := ftRdResp, len := f.len, payload := bs })
    | (s, none) => no s 2

/-- RD_REQ (R325, R379). -/
def execRdReq (p : Fin 8) (f : Frame) (s : State) : Out := routedRow s p f ftRdReq fun s => s.serveRead p f

/-- A remote write is served: WR_ACK follows its acknowledgement (R29, R325, R379). -/
def State.serveWrite (s : State) (p : Fin 8) (f : Frame) : State :=
  let s := s.fetchRemoteGrant f
  let st := s.remoteStatus f f.payload.length true
  if st ≠ 0 then
    let s := if st = 1 ∧ s.joined = true then s.denied f.ctx (localOf f.addr) else s
    s.sendAnswer (s.answer p f { typ := ftWrAck, rstat := st })
  else
    let a := s.answer p f { typ := ftWrAck }
    (s.storeLine f.addr f.payload (s.remoteAccess f (.remote a.1 a.2))).1

/-- WR_REQ (R325, R379). -/
def execWrReq (p : Fin 8) (f : Frame) (s : State) : Out := routedRow s p f ftWrReq fun s => s.serveWrite p f

/-! ## Answers to the engine's own requests (R325, R379) -/

/-- The request that an answer names (R379). -/
def State.requestOf (s : State) (f : Frame) (write : Bool) : Option RemoteReq :=
  s.fab.remote.find? fun r => r.tag == f.tag && r.addr == f.addr && r.isWrite == write

/-- The status that RSTAT gives a command (R379). -/
def rstatStatus (n : Nat) : Nat := if n = 1 then stProtection else stAborted

/-- The sectors that a read of a gather asked for, as they come back. -/
def remoteSectors (m : MemReq) (bs : Option (List Byte)) : List (Nat × Option Sector) :=
  ((List.range (m.hi + 1 - m.lo)).map (· + m.lo)).map fun k => (k, bs.map fun b => sectorOf (b.drop (64 * (k - m.lo))))

/-- A remote read is answered: its data, poison, or a status (R325, R379, R426). -/
def State.readAnswer (s : State) (p : Fin 8) (r : RemoteReq) (f : Frame) : State :=
  if f.rstat ≠ 0 ∧ f.rstat ≠ 2 then s.failRemote r (rstatStatus f.rstat)
  else
    let good := f.rstat == 0
    let s := { s with fab := { s.fab with remote := s.fab.remote.erase r } }
    let s := if good then s else s.errorRecord { code := 0x000A, unit := 5, index := p.val, action := 4, ctx := f.ctx, addr := r.addr }
    match r.mem with
    | some m => s.landSectors m (remoteSectors m (if good then some f.payload else none))
    | none =>
      let got := if good then RemoteAnswer.data f.payload else RemoteAnswer.poison
      ((s.keepAnswer r.cmd (r.addr / 256 * 256) got).parse r.cmd).remoteEnded

/-- RD_RESP (R325, R379). -/
def execRdResp (p : Fin 8) (f : Frame) (s : State) : Out :=
  routedRow s p f ftRdResp fun s =>
    match s.requestOf f false with
    | some r => if f.rstat = 0 ∧ f.payload.length ≠ r.len then s else s.readAnswer p r f
    | none => s

/-- WR_ACK (R29, R325, R379). -/
def execWrAck (p : Fin 8) (f : Frame) (s : State) : Out :=
  routedRow s p f ftWrAck fun s =>
    match s.requestOf f true with
    | some r =>
      if f.rstat = 0 then { s with fab := { s.fab with remote := s.fab.remote.erase r } }.notifyWrite (.job r.cmd r.ctx) |>.remoteEnded
      else s.failRemote r (rstatStatus f.rstat)
    | none => s

/-! ## Frames of one link (R380, R381, R385, R386) -/

/-- Credits returned since link-up, from their count modulo 2^16 (R380). -/
def creditTo (got count : Nat) : Nat := got + seqAhead count got

/-- CREDIT: the credits the partner has returned (R380). -/
def execCredit (p : Fin 8) (f : Frame) (s : State) : Out :=
  linkRow s p f ftCredit fun s =>
    (s.updFport p fun x => { x with creditGot := x.creditGot.mapIdx fun i n => creditTo n (field f.payload (2 * i) 2) }).pumpPort p

/-- ACK: frames before LACK leave the retry buffer; with NAK set the others are replayed (R381). -/
def execAck (p : Fin 8) (f : Frame) (s : State) : Out :=
  linkRow s p f ftAck fun s => (if f.nak && (s.fport p).talks then s.replay p else s).pumpPort p

/-- What a HELLO says of its sender (R385). -/
def neighbourOf (b : List Byte) : Neighbour :=
  { valid := true, state := field b 3 1, port := field b 2 1 % 8, assigned := bitOf (field b 0 2) 15, node := field b 0 2 % 2 ^ 14
    serial := field b 8 8, major := field b 4 1, minor := field b 5 1, time := field b 16 8 }

/-- A port has come up: an engine that is isolated asks to rejoin, one without a node identifier to join (R390, R395). -/
def State.cameUp (s : State) (p : Fin 8) : State :=
  if s.fab.st = .isolated then s.sendJoinReqs true
  else if s.isReady && !s.fab.assigned then s.sendJoinReq s.fab.rejoin p
  else s

/-- HELLO: the partner is recorded; a port in DISCOVERY goes UP; a SERIAL other than the one recorded since DOWN puts the port in HELD (R382,
R385, R386). -/
def execHello (p : Fin 8) (f : Frame) (s : State) : Out :=
  linkRow s p f ftHello fun s =>
    let x := s.fport p
    let n := neighbourOf f.payload
    let changed := x.nbr.valid && x.nbr.serial != n.serial
    let s := s.updFport p fun x => { x with nbr := n }
    if changed then s.holdPort p
    else if x.st = .discovery ∧ x.helloSent = true then (s.portUp p .up).cameUp p
    else s

/-! ## Announcements (R388, R390, R393, R394) -/

/-- A LOSS frame goes on towards MGR, by its own route or by the engine's table, once the engine has joined; from the engine at the other end of
the port, it takes the port DOWN (R390, R393, R394). -/
def State.lossIn (s : State) (p : Fin 8) (f : Frame) : State :=
  let x := s.fport p
  let s :=
    if s.isMine f then s.freeFrame p f
    else if s.joined = false then (s.freeFrame p f).countEngine 20 1
    else if s.hasRoute s.fab.mgr = false then (s.freeFrame p f).countEngine 21 1
    else if f.hopIdx < f.hops then s.forward p f
    else s.sendOn p f { f with dst := s.fab.mgr }
  if x.nbr.valid && x.nbr.assigned && x.nbr.node == f.src then s.portFails p else s

/-- LOSS (R393, R394). -/
def execLoss (p : Fin 8) (f : Frame) (s : State) : Out := actS s fun s => s.headIn f ftLoss fun s => s.linkIn p f fun s => s.lossIn p f

/-- The route that a returned header names: its destination, and the output ports and DATELINE bits of its route (R377, R388). -/
def headerRoute (b : List Byte) : Nat × List Nat :=
  (field b 4 2 % 2 ^ 14, (List.range (field b 3 1 % 8)).map fun i => field b (8 + i) 1 % 16)

/-- The route of a dropped frame is marked unusable (R387, R388). -/
def State.markRoute (s : State) (b : List Byte) : State :=
  let (dst, bytes) := headerRoute b
  let e : RouteEntry := sget {} s.fab.routes dst
  match e.routes.findIdx? fun r => r.valid && (r.bytes.map (· % 16)) == bytes with
  | some i => { s with fab := { s.fab with unusable := s.fab.unusable.filter (fun u => !(u.1 == dst && u.2.1 == i)) ++ [(dst, i, s.time)] } }
  | none => s

/-- UNREACHABLE (R388). -/
def execUnreachable (p : Fin 8) (f : Frame) (s : State) : Out :=
  routedRow s p f ftUnreachable fun s => if f.payload.length < 32 then s else s.markRoute f.payload

/-- JOIN_REQ: a serving neighbour writes its node and its input port into the request, and forwards it to its MGR (R390). -/
def execJoinReq (p : Fin 8) (f : Frame) (s : State) : Out :=
  actS s fun s => s.headIn f ftJoinReq fun s => s.linkIn p f fun s =>
    if s.isMine f && f.direct && s.fab.st == .serving then
      s.sendOn p f { f with dst := s.fab.mgr, payload := putField (putField f.payload 20 2 s.ownNode) 22 1 p.val }
    else s.routeIn p f fun s => s

/-! ## The control window by the fabric (R396) -/

/-- Whether the source of a register frame may reach the window (R396). -/
def State.regAllowed (s : State) (f : Frame) : Bool :=
  s.regPeerEn && f.src == s.regPeer && goodAccess f.addr 4 && s.boot.ctlLocked

/-- REG_RESP: the value read, or 0 (R396). -/
def State.regReply (s : State) (p : Fin 8) (f : Frame) (ok : Bool) (v : BitVec 32) : State :=
  s.sendAnswer (s.answer p f { typ := ftRegResp, rstat := if ok then 0 else 1, len := 4, payload := leBytes 4 v.toNat })

/-- REG_RD (R9 to R11, R396). -/
def execRegRd (p : Fin 8) (f : Frame) (s : State) : Out :=
  routedRow s p f ftRegRd fun s =>
    if s.regAllowed f then
      let (s, v) := s.readReg .fabric f.addr
      s.regReply p f true v
    else s.regReply p f false 0

/-- A register write by the fabric path, where it reaches its register (R396, R462, R464, R465). -/
def State.fabricWrite (s : State) (f : Frame) : State :=
  if s.writeReaches f.addr .fabric then s.writeReg .fabric f.addr (BitVec.ofNat 32 (field f.payload 0 4)) else s

/-- REG_WR: after a fence, the writes that R464 excepts still take effect, and nothing is sent (R396, R464). -/
def execRegWr (p : Fin 8) (f : Frame) (s : State) : Out :=
  if s.err.fenced then
    .next (if !s.boot.held && (s.fport p).carries && f.typ == ftRegWr && s.isMine f && s.regAllowed f && f.lseq == (s.fport p).rxSeq then
        (s.updFport p fun x => { x with rxSeq := (x.rxSeq + 1) % 2 ^ 16 }).fabricWrite f
      else s)
  else
    routedRow s p f ftRegWr fun s =>
      if s.regAllowed f && f.payload.length == 4 then (s.fabricWrite f).regReply p f true 0 else s.regReply p f false 0

/-- REG_RESP: an answer to another agent's access; the engine makes none (R378). -/
def execRegResp (p : Fin 8) (f : Frame) (s : State) : Out := routedRow s p f ftRegResp fun s => s

/-! ## Bad frames (R376, R378, R381) -/

/-- A discarded frame starts a link retry (R381). -/
def State.badLink (s : State) (p : Fin 8) : State := if (s.fport p).talks then s.sendAck p true else s

/-- BAD_FRAME: a frame with a bad FCS, another EtherType, another TYPE, or an LSEQ ahead of the one expected (R376, R378, R381). -/
def execBadFrame (p : Fin 8) (k : BadFrameKind) (f : Frame) (s : State) : Out :=
  actS s fun s =>
    let x := s.fport p
    if (x.talks || x.st == .discovery) = false then s
    else
      match k with
      | .fcs => (s.countEngine 17 1).badLink p
      | .etherType => if f.etype ≠ s.etherType then s.countEngine 17 1 else s
      | .typ => if f.typ = 0 ∨ 0x0F < f.typ then s.countEngine 18 1 else s
      | .lseq => if oneLink f.typ = false ∧ x.takes f.typ = true ∧ 0 < seqAhead f.lseq x.rxSeq ∧ seqAhead f.lseq x.rxSeq < 2 ^ 15 then s.badLink p else s

end Sys2Proof.Machine
end

