-- ==== Sys2Proof/Machine/Cost.lean ====
section
/-! DEFINITION. The arithmetic of admission, in exact fractions: the regulator check (R372), the gather rate (R150, R151), the apply cost
(R184) and the worst-case apply window W (R205). Times are in ns, rates per ns. -/

namespace Sys2Proof.Machine

def Exact.max (a b : Exact) : Exact := if a.lt b then b else a
def Exact.min (a b : Exact) : Exact := if b.lt a then b else a
def Exact.ratio (a b : Nat) : Exact := ⟨false, a, b⟩

/-- The least whole number not below a fraction. -/
def Exact.ceil (a : Exact) : Nat := ceilDiv a.num a.den
def Exact.floor (a : Exact) : Nat := a.num / a.den

/-- Burst efficiency of a request of `b` bytes to unrelated lines (R293, R372). -/
def effRead (b : Nat) : Exact := if b ≤ 64 then .ratio 24 100 else if b ≤ 128 then .ratio 45 100 else if b ≤ 192 then .ratio 60 100 else .ratio 70 100
def effWrite (b : Nat) : Exact := if b ≤ 64 then .ratio 20 100 else if b ≤ 128 then .ratio 38 100 else if b ≤ 192 then .ratio 52 100 else .ratio 62 100

/-- What a row costs: requests, sector bytes, and bytes divided by burst efficiency (R46, R184). -/
structure RowCost where
  req : Exact := .zero
  bytes : Exact := .zero
  eff : Exact := .zero
  deriving DecidableEq, Repr

def RowCost.add (a b : RowCost) : RowCost := ⟨a.req.add b.req, a.bytes.add b.bytes, a.eff.add b.eff⟩
def RowCost.scale (a : RowCost) (k : Exact) : RowCost := ⟨a.req.mul k, a.bytes.mul k, a.eff.mul k⟩

/-- One request of `b` bytes. -/
def oneReq (write : Bool) (b : Nat) : RowCost :=
  ⟨.one, .ofNat b, (Exact.ofNat b).div (if write then effWrite b else effRead b)⟩

/-- The requests of a byte range: one per 256 B line touched, of the sectors it covers there (R46). -/
def rangeCost (write : Bool) (a n : Nat) : RowCost :=
  if n = 0 then {}
  else
    (List.range ((a + n - 1) / 256 - a / 256 + 1)).foldl (fun (c : RowCost) i =>
      let line := a / 256 + i
      let lo := Nat.max a (256 * line)
      let hi := Nat.min (a + n - 1) (256 * line + 255)
      c.add (oneReq write (64 * (hi / 64 - lo / 64 + 1)))) {}

/-- The mean cost of a row of a strided structure: the pattern of lines repeats every 256 / gcd(stride, 256) rows. -/
def strideCost (write : Bool) (base stride n : Nat) : RowCost :=
  let k := 256 / Nat.gcd stride 256
  ((List.range k).foldl (fun (c : RowCost) i => c.add (rangeCost write ((base + i * stride) % 256) n)) {}).scale (.ratio 1 k)

/-- Tag bounds: read and write requests of the pool, and requests of the capacity tier (R39, R151, R184, R295). -/
def tagRead : Exact := .ratio 32768 650
def tagWrite : Exact := .ratio 16384 650
def tagCap : Exact := .ratio 4096 800

/-- A plan's view of a table: its descriptor, its optimiser, and the clocks per column of an LR basis (R224, R241). -/
structure CostTable where
  desc : TableDesc
  opt : Option OptDesc
  basis : Nat := 1
  deriving DecidableEq, Repr

def TableDesc.baseStride (d : TableDesc) (tier : Nat) : Nat × Nat :=
  if tier = 0 then (d.coldBase, d.coldStride) else if tier = 1 then (d.warmBase, d.warmStride) else (d.hotBase, d.hotStride)

/-- The tiers present, and the encoded size of a tier's copy (R43, R47). -/
def TableDesc.tiers (d : TableDesc) : List Nat := [0] ++ [1, 2].filter fun u => d.slotsOf u != 0
def TableDesc.tierBytes (d : TableDesc) (tier : Nat) : Nat := d.sizeOf (if tier = 0 then .cold else copyOf tier 0)

/-- The tier whose copy is the largest, the lowest among equals. -/
def TableDesc.widest (d : TableDesc) (l : List Nat) : Nat := l.foldl (fun m u => if d.tierBytes m < d.tierBytes u then u else m) (l.headD 0)

/-- The cost of a copy of a tier. -/
def TableDesc.copyCost (d : TableDesc) (tier : Nat) (write : Bool) : RowCost :=
  strideCost write (d.baseStride tier).1 (d.baseStride tier).2 (d.tierBytes tier)

/-! ## The gather rate (R150, R151) -/

/-- Column passes of an LR reconstruction: 128 columns a tile, four arrays (R231, R241). -/
def lrPasses (e : Nat) : Nat := ceilDiv (ceilDiv e 128) 4

/-- R(0) of a table read from a tier, in deterministic pooling, in rows per ns; `cap` when the set declares capacity bytes (log entry 31). -/
def CostTable.rate (x : CostTable) (tier : Nat) (cap : Bool) : Exact :=
  let d := x.desc
  let copy := d.copyCost tier false
  let lr := d.fmtOfTier tier == fcLR
  let sectors := (copy.bytes.div (.ofNat 64)).add ((if d.tiered then Exact.one else .zero).add (if d.hasSide then .ratio 1 4 else .zero))
  let cost := (copy.add (if d.tiered then oneReq false 64 else {})).add (if d.hasSide then oneReq false 64 else {})
  let lane := if lr then 4 * d.elems else d.tierBytes tier
  let hit := (Exact.ofNat 2).min (((Exact.ofNat 4).div sectors).min (.ratio 128 lane))
  let pool := (tagRead.div cost.req).min ((Exact.ofNat 12800).div cost.eff)
  let tiered := if cap then (tagCap.div cost.req).min ((Exact.ofNat 896).div cost.bytes) else pool
  let r := (((Exact.ofNat 32).mul hit).min pool).min tiered
  if lr then r.min (.ratio 256 (lrPasses d.elems * Nat.max (x.basis * lrRankOf d) 128)) else r

/-- The least R(0) over the tiers of a table. -/
def CostTable.least (x : CostTable) (cap : Bool) : Exact :=
  x.desc.tiers.foldl (fun m u => m.min (x.rate u cap)) (x.rate 0 cap)

/-! ## The apply cost (R184) -/

/-- ρ of an optimiser. -/
def rhoOf (opt : Nat) : Nat := if opt = 0 then 64 else if opt = 1 then 32 else 16

/-- The apply cost of a table for U = MAX_TOUCHED, `held` when staging slots are in the staging ways. Each memory term is that of the tier whose
copy makes it the largest; a row with a promoted copy writes its cold copy too (R184; log entry 31). -/
def CostTable.apply (x : CostTable) (held : Bool) : Exact :=
  match x.opt with
  | none => .zero
  | some o =>
    let d := x.desc
    let u := Exact.ofNat o.maxTouched
    let st := stateBytes d o
    let state := fun (w : Bool) => if st = 0 then ({} : RowCost) else strideCost w o.stateBase o.stateStride st
    let side := fun (w : Bool) => if d.hasSide then strideCost w d.sideBase 16 16 else ({} : RowCost)
    let z := d.slotBytes
    let stage : RowCost := if held then {} else (oneReq false 256).scale (.ratio z 256)
    let rd := fun (tier : Nat) => (((d.copyCost tier false).add (side false)).add (state false)).add stage
    let wr := fun (tier : Nat) => (((d.copyCost tier true).add (side true)).add (state true)).add (if tier = 0 then {} else d.copyCost 0 true)
    let arith := u.mul (.ratio d.elems (32 * rhoOf o.opt))
    let staging := if held then u.mul (.ratio z 8192) else .zero
    d.tiers.foldl (fun (m : Exact) tier =>
      let reads := ((u.mul (rd tier).req).div tagRead).max ((u.mul (rd tier).eff).div (.ofNat 12800))
      let writes := ((u.mul (wr tier).req).div tagWrite).max ((u.mul (wr tier).eff).div (.ofNat 6400))
      m.max (reads.max writes)) (arith.max staging)

/-! ## The apply window (R205) -/

/-- T_promo: PROMO_LIMIT rows of the set's widest table with a promoted tier (log entry 31). -/
def promoTime (ts : List CostTable) (n : Nat) : Exact :=
  let wide := ts.foldl (fun (m : Option CostTable) x =>
    if x.desc.tiered = false then m
    else match m with
      | some y => if y.desc.elems < x.desc.elems then some x else m
      | none => some x) none
  match wide with
  | none => .zero
  | some x =>
    let d := x.desc
    let u := Exact.ofNat n
    let rd := d.copyCost 0 false
    let wr := d.copyCost (d.widest (d.tiers.drop 1)) true
    (((u.mul rd.req).div tagRead).max ((u.mul rd.eff).div (.ofNat 12800))).max
      (((u.mul wr.req).div tagWrite).max ((u.mul wr.eff).div (.ofNat 6400)))

/-- T_clear of a set: the directories, in whole 4 KiB units at an efficiency of 0.88. -/
def clearTime (ts : List CostTable) : Exact :=
  (ts.filterMap (·.opt)).foldl (fun a o => a.add ((Exact.ofNat (64 * o.buckets)).div ((Exact.ofNat 6400).mul (.ratio 88 100)))) .zero

/-- Whether the slots of a set are held in the ways of the STAGING mask (R184). -/
def slotsHeld (ts : List CostTable) (ways : Nat) : Bool :=
  decide ((ts.map fun x => match x.opt with
    | some o => o.maxTouched * x.desc.slotBytes
    | none => 0).foldl (· + ·) 0 ≤ ways * 2 ^ 29)

/-- W of a table set, in ns, rounded up (R205). -/
def applyWindow (ts : List CostTable) (readLimit promoLimit ways : Nat) (cap : Bool) : Nat :=
  let rmin := match ts with
    | [] => Exact.one
    | x :: rest => rest.foldl (fun m y => m.min (y.least cap)) (x.least cap)
  let drain := (Exact.ofNat (16 * readLimit)).div rmin
  let held := slotsHeld ts ways
  let write := ts.foldl (fun a x => a.add (x.apply held)) .zero
  ((((drain.add write).add (promoTime ts promoLimit)).add (clearTime ts)).add (.ofNat 5000)).ceil

/-! ## Regulators (R372) -/

/-- The pool and capacity loads of the reserved rates: pool reads, pool writes, capacity reads, capacity writes, in GB/s. -/
def poolLoad (r w : Nat) : Exact := ((Exact.ratio r 8960).add (.ratio w 7936)).max (.ratio w 3968)
def capLoad (r w : Nat) : Exact := (Exact.ratio r 896).max (.ratio w 896)

end Sys2Proof.Machine
end

