-- ==== Sys2Proof/Machine/ProgCheck.lean ====
section
/-! DEFINITION. The rules of a program image (R89, R90), in the order in which admission reports them (R371). -/

namespace Sys2Proof.Machine

/-- The index reported for a rule that an image's header breaks (R371). -/
def headerIndex : Nat := 0xFFFFFFFF

def imgCount (b : List Byte) : Nat := field b 0 1
def imgFanLog2 (b : List Byte) : Nat := field b 1 1 % 8

/-- The instruction words of an image. -/
def imgWords (b : List Byte) : List (BitVec 32) := (List.range (imgCount b)).map fun i => BitVec.ofNat 32 (field b (16 + 4 * i) 4)

/-- The first rule of R90 that an image's header breaks: the fields in byte order. The rules of R89 on fields that R90 does not number are
reported as rule 1 (log entry 30). -/
def imgHeaderRule (b : List Byte) : Option Nat :=
  let aff := field b 2 1
  let pu := field b 3 1
  ([(decide (1 ≤ imgCount b) && decide (imgCount b ≤ 64) && decide (16 + 4 * imgCount b ≤ b.length), 1),
    (decide (imgFanLog2 b ≤ 4) && field b 1 1 / 8 == 0, 1), (bitsOf aff 6 4 == 0, 1), (!bitOf aff 7 || decide (8 ≤ aff % 16), 11),
    (bitsOf pu 7 6 == 0 && bitsOf pu 1 0 != 3 && bitsOf pu 3 2 != 3 && bitsOf pu 5 4 != 3, 1),
    (modeOk (BitVec.ofNat 32 (field b 4 4)), 2), (zeroRange b 8 8, 1)].find? fun (e : Bool × Nat) => !e.1).map (·.2)

/-- A loop of an image: its index, counter and end. -/
structure LoopAt where
  at_ : Nat
  lc : Nat
  last : Nat
  deriving DecidableEq, Repr

/-- Whether an instruction lies in a loop's region (R90 rule 4). -/
def LoopAt.has (l : LoopAt) (i : Nat) : Bool := decide (l.at_ < i) && decide (i ≤ l.last)

/-- The loops of an image, in order, by the fields of their words (R93). -/
def imgLoops (ws : List (BitVec 32)) : List LoopAt :=
  ws.zipIdx.filterMap fun (w, k) => if w.toNat / 2 ^ 26 = 0x28 then some ⟨k, w.toNat / 2 ^ 24 % 4, w.toNat % 2 ^ 6⟩ else none

/-- The target of a branch. -/
def branchTo (i : SInstr) : Option Nat :=
  match i with
  | .beq _ _ t | .bne _ _ t | .bltu _ _ t | .bgeu _ _ t | .bv _ t | .br t => some t.toNat
  | _ => none

/-- The port that an instruction loads from. -/
def portRead (i : SInstr) : Option Nat :=
  match i with
  | .ldx _ p _ | .ldw p => some p.val
  | _ => none

/-- Opcodes that may not end a loop: LOOP, the branches, BAGEND, RUN and STOP (R90 rule 6, R93). -/
def endsBadly (w : BitVec 32) : Bool :=
  let op := w.toNat / 2 ^ 26
  (decide (0x28 ≤ op) && decide (op ≤ 0x2E)) || op == 0x31 || op == 0x33 || op == 0x3F

/-- Rules 1 and 12 on a word: defined, reserved fields zero, and the form of LOOP (R90, R93). -/
def wordRules (w : BitVec 32) : List (Nat × Bool) :=
  let isLoop := w.toNat / 2 ^ 26 == 0x28
  match fieldsS w with
  | none => [(1, isLoop), (12, !isLoop)]
  | some i => [(1, encodeS i == w && (isLoop || i.wf)), (12, i.wf || !isLoop)]

/-- Rule 4 on a loop: its end is beyond it, and the loops before it hold its region whole, under another counter, or none of it (R90). -/
def loopNests (ls : List LoopAt) (l : LoopAt) : Bool :=
  decide (l.at_ < l.last) && (ls.filter fun m => m.at_ < l.at_).all fun m =>
    decide (m.last ≤ l.at_) || (decide (l.last < m.last) && m.lc != l.lc)

/-- The rules of one instruction, lowest number first (R90, R371). -/
def instrRules (b : List Byte) (ws : List (BitVec 32)) (ls : List LoopAt) (k : Nat) (w : BitVec 32) : List (Nat × Bool) :=
  let n := imgCount b
  let out := fun (i : Nat) => ls.all fun l => !l.has i
  let i := fieldsS w
  let me := ls.find? fun l => l.at_ == k
  let target := (i.bind branchTo).getD 0
  let isBranch := (i.bind branchTo).isSome
  let bag := match i with
    | some (.bagend t) => some t.toNat
    | _ => none
  let isRun := match i with
    | some (.run _) => true
    | _ => false
  let lastOk := match i with
    | some (.bagend _) | some (.br _) | some .stop => true
    | _ => false
  let port := (i.bind portRead).getD 0
  (wordRules w).take 1 ++
    [(3, decide (target < n) && (bag.all fun t => decide (t < n)) && me.all fun l => decide (l.last < n)),
     (4, me.all (loopNests ls)),
     (5, !isBranch || ls.all fun l => l.has k == l.has target),
     (6, me.all fun l => !endsBadly (ws.getD l.last 0)),
     (7, bag.all fun t => out k && out t),
     (8, k + 1 != n || lastOk),
     (9, !isRun || (imgFanLog2 b == 0 && out k)),
     (10, port == 0 || portUseOf (field b 3 1) port != 0)] ++ (wordRules w).drop 1

/-- The first rule that an image breaks, and where: none for an image that LOAD_PLAN accepts (R90, R371). -/
def imgCheck (b : List Byte) : Option (Nat × Nat) :=
  match imgHeaderRule b with
  | some r => some (r, headerIndex)
  | none =>
    let ws := imgWords b
    let ls := imgLoops ws
    ws.zipIdx.findSome? fun (w, k) => ((instrRules b ws ls k w).find? fun e => !e.2).map fun e => (e.1, k)

/-- The installed form of an image (R89). -/
def imageOf (b : List Byte) (plan : Nat) : Image :=
  { plan := plan, fanLog2 := imgFanLog2 b, affine := BitVec.ofNat 8 (field b 2 1), portUse := BitVec.ofNat 8 (field b 3 1)
    mode0 := BitVec.ofNat 32 (field b 4 4), code := imgWords b }

end Sys2Proof.Machine
end

