-- ==== Sys2Proof/Machine/PlanCheck.lean ====
section
/-! DEFINITION. The plan image (R367, R368) and admission: the checks of R371 in their order, each with its status and record. -/

namespace Sys2Proof.Machine

/-! ## Descriptors and records of a plan -/

/-- A table descriptor (R42). -/
def tableDescOf (b : List Byte) : TableDesc :=
  { table := field b 0 2, elems := field b 2 2, fmtWarm := field b 4 1 / 16, fmtHot := field b 4 1 % 16
    group := bitsOf (field b 5 1) 5 4, fmtCold := field b 5 1 % 16, trainable := bitOf (field b 6 1) 0
    promoMode := bitsOf (field b 6 1) 2 1, sround := bitOf (field b 6 1) 3, lrRank := field b 7 1 % 4, rows := field b 8 8
    coarse := BitVec.ofNat 32 (field b 16 4), coldStride := field b 20 4, coldBase := field b 24 8, mapBase := field b 32 8
    mapLog2 := field b 40 1, filterLog2 := field b 41 1, warmThr := field b 42 2, lrBasis := field b 44 4, warmBase := field b 48 8
    warmStride := field b 56 4, hotStride := field b 60 4, hotBase := field b 64 8, warmSlots := field b 72 8, hotSlots := field b 80 8
    sideBase := field b 88 8, outlier := (List.range 8).map fun i => field b (96 + 2 * i) 2
    patinaBase := field b 112 8, patinaLog2 := field b 120 1, sampleShift := field b 121 1, decayCommits := field b 122 1
    hotThr := field b 124 2, demoteThr := field b 126 2 }

/-- An optimiser descriptor (R178). -/
def optDescOf (b : List Byte) : OptDesc :=
  { opt := field b 2 1, winFixed := bitOf (field b 3 1) 0, lr := BitVec.ofNat 32 (field b 4 4), eps := BitVec.ofNat 32 (field b 8 4)
    beta1 := BitVec.ofNat 32 (field b 12 4), beta2 := BitVec.ofNat 32 (field b 16 4), decay := BitVec.ofNat 32 (field b 20 4)
    stateBase := field b 24 8, stateStride := field b 32 4, heavyThr := field b 36 2, stgLog2 := field b 38 1
    maxTouched := field b 40 8, stageBase := field b 48 8 }

/-- A weight-set descriptor of a plan of an owner (R219). -/
def weightSetOf (b : List Byte) (plan owner : Nat) : WeightSet :=
  { plan := plan, owner := owner, tset := field b 4 2, fmt := field b 6 1 % 16, bound := bitOf (field b 7 1) 0, bias := bitOf (field b 7 1) 1
    group := bitsOf (field b 7 1) 3 2, k := field b 8 4, n := field b 12 4, coarse := BitVec.ofNat 32 (field b 16 4)
    tileStride := field b 20 4, baseA := field b 24 8, baseB := field b 32 8, biasBase := field b 40 8 }

/-- A table-set record, and the table set that it makes (R204, R208, R368). -/
def tableSetOf (b : List Byte) (plan owner : Nat) : TableSet :=
  { plan := plan, owner := owner, satThr := field b 4 2, seed := field b 8 8, recAddr := field b 16 8, readLimit := field b 24 4
    promoLimit := field b 28 4, poolBytes := field b 32 8, capBytes := field b 40 8 }

/-- A reservation record (R368). -/
def resvOf (b : List Byte) : Resv :=
  { part := field b 0 1, borrow := field b 1 1 % 16, rate := (List.range 4).map fun d => field b (4 + 2 * d) 2
    burst := (List.range 4).map fun d => field b (12 + 2 * d) 2 }

/-- A record inserted by its key, after those of the same key; records in ascending order of a key. -/
def insertBy {α : Type} (key : α → Nat) (x : α) (l : List α) : List α :=
  match l with
  | [] => [x]
  | y :: rest => if key y ≤ key x then y :: insertBy key x rest else x :: y :: rest
def sortBy {α : Type} (key : α → Nat) (l : List α) : List α := l.foldl (fun (acc : List α) x => insertBy key x acc) []

/-- The handle or number at the start of a record. -/
def recId (b : List Byte) : Nat := field b 0 2

/-- A program record: its handle, its reserved field, and its image (R368). -/
structure ProgRec where
  handle : Nat
  rsv : Nat
  image : List Byte
  deriving DecidableEq, Repr

/-- A plan image by its sections, each in ascending handle or number (R367, R368). -/
structure PlanImg where
  bytes : List Byte
  plan : Nat
  owner : Nat
  tsets : List (List Byte)
  tables : List (List Byte)
  text : List (List Byte)
  opts : List (List Byte)
  progs : List ProgRec
  wsets : List (List Byte)
  readers : List (List Byte)
  resv : List (List Byte)
  /-- empty when the class section is absent -/
  cls : List Byte
  lists : List (List Byte)
  deriving DecidableEq, Repr

/-- The sections, numbered in the order of their offsets (R367). The header, and the plan itself, are 10 (log entry 32). -/
def secTset : Nat := 0
def secTable : Nat := 1
def secText : Nat := 2
def secOpt : Nat := 3
def secProg : Nat := 4
def secWset : Nat := 5
def secReader : Nat := 6
def secResv : Nat := 7
def secClass : Nat := 8
def secList : Nat := 9
def secPlan : Nat := 10

def secOff (im : List Byte) (i : Nat) : Nat := field im (24 + 4 * i) 4

/-- The entries of a section of records that carry their own length: offset and length of each, none when one leaves the image. -/
def varRecs (im : List Byte) (prog : Bool) (limit off n : Nat) : Option (List (Nat × Nat)) :=
  match n with
  | 0 => some []
  | n + 1 =>
    if limit < off + (if prog then 8 else 16) then none
    else
      let len := if prog then 8 + roundUp (field im (off + 4) 4) 8 else 16 + 16 * field im (off + 8) 4
      (varRecs im prog limit (off + len) n).map fun l => (off, len) :: l

/-- The descriptors of the trainable tables of an image. -/
def trainCount (im : List Byte) : Nat :=
  ((List.range (field im 10 2)).filter fun k => bitOf (field im (secOff im secTable + 128 * k + 6) 1) 0).length

/-- The bytes of a section: 0 for one that is absent; none when a record of its own length leaves the image (R367, R368). -/
def secSize (im : List Byte) (i : Nat) : Option Nat :=
  let var := fun (prog : Bool) (n : Nat) =>
    (varRecs im prog (field im 4 4) (secOff im i) n).map fun l => (l.map (·.2)).foldl (· + ·) 0
  if i = secTset then some (64 * field im 8 2)
  else if i = secTable then some (128 * field im 10 2)
  else if i = secText then some (8 * field im 10 2)
  else if i = secOpt then some (64 * trainCount im)
  else if i = secProg then var true (field im 12 2)
  else if i = secWset then some (64 * field im 14 2)
  else if i = secReader then some (8 * field im 16 2)
  else if i = secResv then some (32 * field im 18 2)
  else if i = secClass then some (64 * (field im 22 2 % 2))
  else var false (field im 20 2)

/-- Records of a section of one size. -/
def recsAt (im : List Byte) (i size n : Nat) : List (List Byte) :=
  (List.range n).map fun k => (im.drop (secOff im i + size * k)).take size

/-- Records of a section that carry their own length. -/
def varAt (im : List Byte) (i : Nat) (prog : Bool) (n : Nat) : List (List Byte) :=
  ((varRecs im prog (field im 4 4) (secOff im i) n).getD []).map fun e => (im.drop e.1).take e.2

/-- The image of a program record. -/
def progRecOf (b : List Byte) : ProgRec := { handle := field b 0 2, rsv := field b 2 2, image := (b.drop 8).take (field b 4 4) }

/-- A plan image whose header and section bounds hold. -/
def planImg (im : List Byte) (owner : Nat) : PlanImg :=
  { bytes := im, plan := field im 2 2, owner := owner
    tsets := sortBy recId (recsAt im secTset 64 (field im 8 2)), tables := sortBy recId (recsAt im secTable 128 (field im 10 2))
    text := sortBy recId (recsAt im secText 8 (field im 10 2)), opts := sortBy recId (recsAt im secOpt 64 (trainCount im))
    progs := sortBy ProgRec.handle ((varAt im secProg true (field im 12 2)).map progRecOf)
    wsets := sortBy recId (recsAt im secWset 64 (field im 14 2))
    readers := sortBy (fun b => 65536 * field b 0 2 + field b 2 2) (recsAt im secReader 8 (field im 16 2))
    resv := sortBy (fun b => field b 0 1) (recsAt im secResv 32 (field im 18 2))
    cls := if field im 22 2 % 2 = 1 then (im.drop (secOff im secClass)).take 64 else []
    lists := sortBy recId (varAt im secList false (field im 20 2)) }

/-! ## What a check finds -/

/-- A refusal: its status and detail (R371). -/
abbrev Refused := Nat × ErrDetail

def malformedPlan (why object index value : Nat) : Refused :=
  (stMalformed, { reason := why, object := object, index := index, value := value })
def noRoom (why object index value limit : Nat) : Refused :=
  (stCapacity, { reason := why, object := object, index := index, value := value, limit := limit })

/-- The lowest byte offset of a descriptor whose rule does not hold, among rules in ascending offset (R371). -/
def firstBad (l : List (Nat × Bool)) : Option Nat := (l.find? fun e => !e.2).map (·.1)

/-- The first of two outcomes. -/
def orThen (a : Option Refused) (b : Unit → Option Refused) : Option Refused :=
  match a with
  | some r => some r
  | none => b ()

/-- Reserved bytes from an offset on: each is a rule of its own. -/
def reservedAt (b : List Byte) (off n : Nat) : List (Nat × Bool) := (List.range n).map fun i => (off + i, field b (off + i) 1 == 0)

/-- Ranges of F32 fields. -/
def f32Normal (c : F32) : Bool := decide (c.toNat < 2 ^ 31) && decide (1 ≤ c.toNat / 2 ^ 23) && decide (c.toNat / 2 ^ 23 ≤ 254)
def f32AtLeast0 (c : F32) : Bool := f32Finite c && (decide (c.toNat < 2 ^ 31) || c.toNat == 2 ^ 31)
def f32Above0 (c : F32) : Bool := f32AtLeast0 c && c.toNat % 2 ^ 31 != 0
def f32Below1 (c : F32) : Bool := f32AtLeast0 c && decide (c.toNat % 2 ^ 31 < 0x3F800000)

/-! ## Check 1: header and section bounds (R367) -/

/-- The header alone: its fields in byte order. `inline` is the length of an in-line image. -/
def headerCheck (h : List Byte) (handle : Nat) (inline : Option Nat) : Option Refused :=
  let len := field h 4 4
  (firstBad
    [(0, field h 0 2 == 1), (2, field h 2 2 == handle), (4, decide (64 ≤ len) && inline.all fun n => decide (len ≤ n)),
     (8, decide (1 ≤ field h 8 2) && decide (field h 8 2 ≤ 4096)), (10, decide (1 ≤ field h 10 2)), (18, decide (field h 18 2 ≤ 63)),
     (22, decide (field h 22 2 ≤ 1))]).map fun o =>
    (stMalformed, { reason := 0x01, index := secPlan, value := o, limit := len })

/-- A section lies in the image, 64-byte aligned, past the header; an absent one has offset 0. -/
def secOk (im : List Byte) (i : Nat) : Bool :=
  match secSize im i with
  | none => false
  | some 0 => secOff im i == 0
  | some n => secOff im i % 64 == 0 && decide (64 ≤ secOff im i) && decide (secOff im i + n ≤ field im 4 4)

/-- Check 1 on the sections. -/
def sectionCheck (im : List Byte) : Option Refused :=
  ((List.range 10).find? fun i => !secOk im i).map fun i =>
    (stMalformed, { reason := 0x01, index := i, value := secOff im i, limit := field im 4 4 })

/-! ## Check 2: table descriptors (R42 to R45) -/

/-- The formats of a tier (R43). -/
def hotFmt (f : Nat) : Bool := f == 0 || f == 1
def warmFmt (f : Nat) : Bool := f == 3 || f == 4 || f == 5 || f == 7
def coldFmt (f : Nat) : Bool := (decide (3 ≤ f) && decide (f ≤ 8)) || f == fcLR

/-- The outlier columns: ascending, below E, unused ones last (R42, R54). -/
def outlierRules (d : TableDesc) : List (Nat × Bool) :=
  (List.range 8).map fun j =>
    let c := d.outlier.getD j 0xFFFF
    let p := if j = 0 then none else some (d.outlier.getD (j - 1) 0xFFFF)
    (96 + 2 * j, c == 0xFFFF || (decide (c < d.elems) && p.all fun p => decide (p < c)))

/-- The rules of a table descriptor, each at its offset (R42 to R45). -/
def tableRules (b : List Byte) : List (Nat × Bool) :=
  let d := tableDescOf b
  let lr := d.fmtCold == fcLR
  let warm := d.warmSlots != 0
  let hot := d.hotSlots != 0
  let adaptive := d.promoMode == 1
  let stride := fun (n tier : Nat) => n % 8 == 0 && decide (d.tierBytes tier ≤ n)
  [(2, decide (1 ≤ d.elems) && decide (d.elems ≤ 4096)), (4, (!warm || warmFmt d.fmtWarm) && (!hot || hotFmt d.fmtHot)),
   (5, d.group != 3 && coldFmt d.fmtCold && field b 5 1 / 64 == 0), (6, d.promoMode != 3 && field b 6 1 / 16 == 0 && (!lr || !d.trainable)),
   (7, field b 7 1 / 4 == 0 && (!lr || (decide (lrRankOf d ≤ d.elems) && lrRankOf d % groupSize d.group == 0))),
   (8, decide (1 ≤ d.rows) && decide (d.rows ≤ 2 ^ 40)), (16, f32Normal d.coarse), (20, stride d.coldStride 0), (24, d.coldBase % 64 == 0),
   (32, !d.tiered || d.mapBase % 64 == 0), (40, !d.tiered || (decide (6 ≤ d.mapLog2) && decide (d.mapLog2 ≤ 32))),
   (41, !d.tiered || d.filterLog2 == 0 || (decide (12 ≤ d.filterLog2) && decide (d.filterLog2 ≤ 20))), (48, d.warmBase % 64 == 0),
   (56, !warm || stride d.warmStride 1), (60, !hot || stride d.hotStride 2), (64, d.hotBase % 64 == 0),
   (72, decide (d.warmSlots ≤ 2 ^ 36) && (!lr || !warm)), (80, decide (d.hotSlots ≤ 2 ^ 36) && (!lr || !hot)), (88, d.sideBase % 64 == 0)] ++
  outlierRules d ++
  [(112, d.patinaBase % 64 == 0), (120, decide (10 ≤ d.patinaLog2) && decide (d.patinaLog2 ≤ 24)), (121, decide (d.sampleShift ≤ 8)),
   (123, field b 123 1 == 0), (124, !adaptive || d.hotThr == 0 || d.warmThr == 0 || decide (d.warmThr ≤ d.hotThr)),
   (126, !adaptive || d.demoteThr == 0 || decide (d.demoteThr < if d.warmThr = 0 then d.hotThr else d.warmThr))]

def check2 (p : PlanImg) : Option Refused :=
  p.tables.findSome? fun b => (firstBad (tableRules b)).map fun o => malformedPlan 0x02 (recId b) o 0

/-! ## Check 3: TEXT -/

def textSet (b : List Byte) : Nat := field b 2 2
def textClass (b : List Byte) : Nat := field b 4 1

def PlanImg.hasSet (p : PlanImg) (h : Nat) : Bool := p.tsets.any fun b => recId b == h
def PlanImg.hasTable (p : PlanImg) (t : Nat) : Bool := p.tables.any fun b => recId b == t

/-- Check 3: each table of the plan has one record, and no other table has any, in ascending table number. -/
def check3 (p : PlanImg) : Option Refused :=
  ((sortBy id (p.tables.map recId ++ p.text.map recId).dedup).find? fun t =>
    match p.text.filter fun b => recId b == t with
    | [b] => !(p.hasTable t && p.hasSet (textSet b) && decide (8 ≤ textClass b) && decide (textClass b ≤ 15) && zeroRange b 5 3)
    | _ => true).map fun t => malformedPlan 0x03 t 0 0

/-- The table set of a table of the plan. -/
def PlanImg.setOf (p : PlanImg) (t : Nat) : Nat := ((p.text.find? fun b => recId b == t).map textSet).getD 0
def PlanImg.classOf (p : PlanImg) (t : Nat) : Nat := ((p.text.find? fun b => recId b == t).map textClass).getD 8

/-! ## Check 4: optimiser descriptors (R178) -/

/-- The rules of an optimiser descriptor, each at its offset. -/
def optRules (b : List Byte) (d : TableDesc) : List (Nat × Bool) :=
  let o := optDescOf b
  let adam := o.opt == 2
  [(2, decide (o.opt ≤ 2)), (3, decide (field b 3 1 ≤ 1)), (4, f32AtLeast0 o.lr), (8, f32AtLeast0 o.eps && (!adam || f32Above0 o.eps)),
   (12, !adam || f32Below1 o.beta1), (16, !adam || f32Below1 o.beta2), (20, f32AtLeast0 o.decay), (24, o.opt == 0 || o.stateBase % 64 == 0),
   (32, o.opt == 0 || (if adam then o.stateStride % 8 == 0 && decide (2 * d.momentBytes ≤ o.stateStride)
                       else o.stateStride != 0 && o.stateStride % 4 == 0)),
   (36, decide (16 ≤ o.heavyThr)), (38, decide (6 ≤ o.stgLog2) && decide (o.stgLog2 ≤ 32)), (39, field b 39 1 == 0),
   (40, decide (1 ≤ o.maxTouched) && decide (o.maxTouched ≤ 2 ^ 32)), (48, o.stageBase % 64 == 0)] ++ reservedAt b 56 8

/-- The descriptor of a table of the plan, and its optimiser. -/
def PlanImg.desc (p : PlanImg) (t : Nat) : TableDesc := ((p.tables.find? fun b => recId b == t).map tableDescOf).getD {}
def PlanImg.opt (p : PlanImg) (t : Nat) : Option OptDesc := (p.opts.find? fun b => recId b == t).map optDescOf

/-- Check 4: one descriptor per trainable table, and no other. -/
def check4 (p : PlanImg) : Option Refused :=
  let train := (p.tables.filter fun b => (tableDescOf b).trainable).map recId
  let all := sortBy id (train ++ (p.opts.map recId).filter fun t => !train.contains t).dedup
  all.findSome? fun t =>
    match p.opts.filter fun b => recId b == t with
    | [b] => if train.contains t then (firstBad (optRules b (p.desc t))).map fun o => malformedPlan 0x04 t o 0 else some (malformedPlan 0x04 t 0 0)
    | _ => some (malformedPlan 0x04 t 0 0)

/-! ## Check 5: program images (R89, R90) -/

def check5 (p : PlanImg) : Option Refused :=
  p.progs.findSome? fun x =>
    (if x.rsv ≠ 0 then some (1, headerIndex) else imgCheck x.image).map fun e => malformedPlan 0x05 x.handle e.1 e.2

/-! ## Check 6: weight sets (R219, R220, R223, R371) -/

/-- Whether a table set is one of the plan, or a loaded one of the same owner (R368). -/
def State.ownSet (s : State) (p : PlanImg) (h : Nat) : Bool :=
  p.hasSet h || (s.tsetLive h && ((s.tset? h).map (·.owner)) == some p.owner)

/-- The rules of a weight-set descriptor, each at its offset. -/
def State.wsetRules (s : State) (p : PlanImg) (b : List Byte) : List (Nat × Bool) :=
  let w := weightSetOf b p.plan p.owner
  let plain := w.fmt == 1 || w.fmt == 2
  [(2, field b 2 2 == 0), (4, !w.bound || s.ownSet p w.tset),
   (6, field b 6 1 / 16 == 0 && (plain || w.fmt == 3 || w.fmt == 4 || w.fmt == 5 || w.fmt == 7)), (7, field b 7 1 / 16 == 0),
   (8, decide (1 ≤ w.k) && decide (w.k ≤ 65536)), (12, decide (1 ≤ w.n) && decide (w.n ≤ 4096)), (16, plain || f32Normal w.coarse),
   (20, w.tileStride % 256 == 0 && decide (w.tileBytes ≤ w.tileStride)), (24, w.baseA % 256 == 0), (32, !w.bound || w.baseB % 256 == 0),
   (40, !w.bias || w.biasBase % 64 == 0)] ++ reservedAt b 48 16

/-- A weight set of the plan, or a loaded one. -/
def State.wsetFor (s : State) (p : PlanImg) (h : Nat) : Option WeightSet :=
  match p.wsets.find? fun b => recId b == h with
  | some b => some (weightSetOf b p.plan p.owner)
  | none => if s.wsetLive h then s.wset? h else none

/-- The rules of the basis of an LR table, each at its offset in the weight set's descriptor; one that does not exist breaks the handle's
(R223). -/
def State.basisRules (s : State) (p : PlanImg) (d : TableDesc) : List (Nat × Bool) :=
  match s.wsetFor p d.lrBasis with
  | some w =>
    [(0, decide (d.lrBasis < 2 ^ 16)), (6, w.fmt == 1 || w.fmt == 7), (7, !w.bound && (w.fmt != 7 || w.group == d.group)), (8, w.k == lrRankOf d),
     (12, w.n == d.elems)]
  | none => [(0, false)]

/-- Check 6 in ascending handle: the rules of a weight set's descriptor, and of the LR tables whose basis it is. The failure reported is the one
at the lowest offset. -/
def State.check6 (s : State) (p : PlanImg) : Option Refused :=
  let lr := (p.tables.map tableDescOf).filter fun d => d.fmtCold == fcLR
  (sortBy id (p.wsets.map recId ++ lr.map fun (d : TableDesc) => d.lrBasis % 2 ^ 16).dedup).findSome? fun h =>
    let rules := ((p.wsets.filter fun b => recId b == h).map (s.wsetRules p)).flatten ++
      ((lr.filter fun (d : TableDesc) => d.lrBasis % 2 ^ 16 == h).map (s.basisRules p)).flatten
    match (rules.filter fun e => !e.2).map (·.1) with
    | [] => none
    | o :: rest => some (malformedPlan 0x06 h (rest.foldl min o) 0)

/-! ## Check 7: ranges of the other records (R63, R204, R354, R368) -/

def tsetOk (b : List Byte) : Bool :=
  decide (field b 2 2 ≤ 1) && decide (field b 4 2 ≤ 4096) && zeroRange b 6 2 && decide (1 ≤ field b 24 4) && decide (field b 24 4 ≤ 2 ^ 24) &&
    decide (field b 28 4 ≤ 2 ^ 20) && zeroRange b 48 16

def State.readerOk (s : State) (p : PlanImg) (b : List Byte) : Bool :=
  s.ownSet p (recId b) && decide (1 ≤ field b 2 2) && decide (field b 2 2 < 4096) && decide (field b 4 4 ≤ 4000000)

def resvOk (b : List Byte) : Bool :=
  decide (1 ≤ field b 0 1) && decide (field b 0 1 ≤ 63) && decide (field b 1 1 < 16) && zeroRange b 2 2 &&
    (List.range 8).all (fun i => decide (field b (4 + 2 * i) 2 < 2 ^ 14)) && zeroRange b 20 12

def classOk (b : List Byte) : Bool :=
  decide (field b 34 2 ≤ 1) && (List.range 16).all (fun n => decide (field b (36 + n) 1 ≤ 16)) && zeroRange b 52 12

/-- One entry of a promotion list, for a table set of the plan (R354). -/
def PlanImg.entryOk (p : PlanImg) (h : Nat) (e : List Byte) : Bool :=
  let t := field e 0 2
  let d := p.desc t
  p.hasTable t && p.setOf t == h && d.promoMode == 2 && decide (1 ≤ field e 2 1) && decide (field e 2 1 ≤ 3) && zeroRange e 3 5 &&
    decide (field e 8 8 < d.rows)

/-- A promotion list of the plan (R354). -/
def PlanImg.listOk (p : PlanImg) (b : List Byte) : Bool :=
  p.hasSet (recId b) && zeroRange b 2 2 && zeroRange b 12 4 &&
    (List.range (field b 8 4)).all fun i => p.entryOk (recId b) ((b.drop (16 + 16 * i)).take 16)

def State.check7 (s : State) (p : PlanImg) : Option Refused :=
  let bad := fun (sec : Nat) (b : Option (List Byte)) => b.map fun b => malformedPlan 0x07 (if sec = secResv then field b 0 1 else recId b) sec 0
  orThen (bad secTset (p.tsets.find? fun b => !tsetOk b)) fun _ =>
    orThen (bad secReader (p.readers.find? fun b => !s.readerOk p b)) fun _ =>
      orThen (bad secResv (p.resv.find? fun b => !resvOk b)) fun _ =>
        orThen (if p.cls = [] ∨ classOk p.cls = true then none else some (malformedPlan 0x07 0 secClass 0)) fun _ =>
          bad secList (p.lists.find? fun b => !p.listOk b)

/-! ## Check 8: what is installed already -/

/-- The first number of a rising list that is taken, or that comes twice. -/
def taken (have_ : Nat → Bool) (l : List Nat) : Option Nat :=
  match l with
  | [] => none
  | x :: rest => if have_ x || rest.head? == some x then some x else taken have_ rest

def State.check8 (s : State) (p : PlanImg) : Option Refused :=
  let bad := fun (sec : Nat) (x : Option Nat) => x.map fun h => malformedPlan 0x08 h sec 0
  let parts := (s.plans.map fun q => q.resv.map (·.part)).flatten
  orThen (bad secPlan (taken (fun h => (s.plan? h).isSome) [p.plan])) fun _ =>
    orThen (bad secTset (taken (fun h => (s.tset? h).isSome) (p.tsets.map recId))) fun _ =>
      orThen (bad secTable (taken (fun h => (s.table? h).isSome) (p.tables.map recId))) fun _ =>
        orThen (bad secProg (taken (fun h => (s.image? h).isSome) (p.progs.map (·.handle)))) fun _ =>
          orThen (bad secWset (taken (fun h => (s.wset? h).isSome) (p.wsets.map recId))) fun _ =>
            bad secResv (taken parts.contains (p.resv.map fun b => field b 0 1))

/-! ## Check 9: masks (R259, R260) -/

/-- Whether the plan changes the masks in force. -/
def PlanImg.setsMasks (p : PlanImg) : Bool := p.cls != [] && !bitOf (field p.cls 34 2) 0
def State.planMask (s : State) (p : PlanImg) (n : Nat) : Nat := if p.setsMasks then field p.cls (2 * n) 2 else s.classMask n
def State.planMirror (s : State) (p : PlanImg) : Nat := if p.setsMasks then field p.cls 32 2 else s.mirrorMask

/-- Check 9: the mirror mask is reported as class 16 (log entry 32). -/
def State.check9 (s : State) (p : PlanImg) : Option Refused :=
  let stage := s.planMask p 4
  orThen (((List.range 16).find? fun n => n ≠ 4 ∧ Nat.land (s.planMask p n) stage ≠ 0).map fun n => malformedPlan 0x09 n 0 0) fun _ =>
    if s.planMirror p = 0 ∨ Nat.land (s.planMirror p) stage ≠ 0 then some (malformedPlan 0x09 16 0 0) else none

/-! ## Checks 10 to 14: capacities -/

def State.check10 (s : State) (p : PlanImg) : Option Refused :=
  (([(secPlan, s.plans.length + 1, 64), (secTset, s.tsets.length + p.tsets.length, 4096), (secProg, s.images.length + p.progs.length, 4096),
     (secWset, s.wsets.length + p.wsets.length, 4096)] : List (Nat × Nat × Nat)).find? fun e => decide (e.2.2 < e.2.1)).map
    fun e => noRoom 0x10 0 e.1 e.2.1 e.2.2

/-- Filter bits of a table: none without a promoted tier (R42, R69). -/
def TableDesc.filterSize (d : TableDesc) : Nat := if d.tiered ∧ d.filterLog2 ≠ 0 then 2 ^ d.filterLog2 else 0

/-- Check 11 over the plan's tables, from the bits in use. -/
def filterCheck (used : Nat) (l : List TableDesc) : Option Refused :=
  match l with
  | [] => none
  | d :: rest =>
    let n := used + d.filterSize
    if d.filterSize ≠ 0 ∧ 2 ^ 20 < n then some (noRoom 0x11 d.table 0 n (2 ^ 20)) else filterCheck n rest

def PlanImg.descs (p : PlanImg) : List TableDesc := p.tables.map tableDescOf

def State.check11 (s : State) (p : PlanImg) : Option Refused :=
  filterCheck ((s.tables.map fun e => e.2.desc.filterSize).foldl (· + ·) 0) p.descs

def check12 (p : PlanImg) : Option Refused :=
  (p.descs.find? fun d => d.tiered && decide (4 * 2 ^ d.mapLog2 < 2 * (d.warmSlots + d.hotSlots))).map fun d =>
    noRoom 0x12 d.table 0 (2 * (d.warmSlots + d.hotSlots)) (4 * 2 ^ d.mapLog2)

/-- The ways of a mask. -/
def wayCount (m : Nat) : Nat := ((List.range 16).filter (bitOf m)).length

def PlanImg.wayMin (p : PlanImg) : List Nat := (List.range 16).map fun n => if p.cls = [] then 0 else field p.cls (36 + n) 1

def State.check13 (s : State) (p : PlanImg) : Option Refused :=
  (List.range 16).findSome? fun n =>
    let need := (s.plans.map fun q => q.wayMin.getD n 0).foldl Nat.max (p.wayMin.getD n 0)
    let given := wayCount (s.planMask p n)
    if given < need then some (noRoom 0x13 n 0 need given) else none

def check14 (p : PlanImg) : Option Refused :=
  p.opts.findSome? fun b =>
    let o := optDescOf b
    if 4 * o.buckets < 2 * o.maxTouched then some (noRoom 0x14 (recId b) 0 (4 * o.buckets) (2 * o.maxTouched)) else none

/-! ## Check 15: regions (R371) -/

/-- What a region needs of its segments: anything, not RO, or WB and OWN. -/
inductive Need where
  | any
  | written
  | owned
  deriving DecidableEq, Repr

/-- A region of an object: its address, its bytes, its number in the order of R371 (log entry 32), and what it needs. -/
structure PlanRegion where
  object : Nat
  number : Nat
  va : Nat
  len : Nat
  need : Need
  deriving DecidableEq, Repr

/-- The regions of a table (R45, R47, R54, R66, R73, R173, R179). -/
def tableRegions (d : TableDesc) (o : Option OptDesc) : List PlanRegion :=
  let t := d.table
  [⟨t, 0, d.coldBase, (d.rows - 1) * d.coldStride + d.tierBytes 0, .written⟩] ++
    (if d.warmSlots = 0 then [] else [⟨t, 1, d.warmBase, (d.warmSlots - 1) * d.warmStride + d.tierBytes 1, .written⟩]) ++
    (if d.hotSlots = 0 then [] else [⟨t, 2, d.hotBase, (d.hotSlots - 1) * d.hotStride + d.tierBytes 2, .written⟩]) ++
    (if d.tiered then [⟨t, 3, d.mapBase, 64 * 2 ^ d.mapLog2, .written⟩] else []) ++
    (if d.hasSide then [⟨t, 4, d.sideBase, 16 * d.rows, .written⟩] else []) ++ [⟨t, 5, d.patinaBase, 8 * 2 ^ d.patinaLog2, .written⟩] ++
    match o with
    | none => []
    | some o =>
      [⟨t, 6, o.stageBase, 64 * o.buckets + o.maxTouched * d.slotBytes, .owned⟩] ++
        if o.opt = 0 then [] else [⟨t, 7, o.stateBase, (d.rows - 1) * o.stateStride + stateBytes d o, .written⟩]

/-- The regions of a weight set (R219, R220). -/
def wsetRegions (h : Nat) (w : WeightSet) : List PlanRegion :=
  let n := (ceilDiv w.n 128 - 1) * w.tileStride + w.tileBytes
  [⟨h, 8, w.baseA, n, .any⟩] ++ (if w.bound then [⟨h, 9, w.baseB, n, .any⟩] else []) ++
    if w.bias then [⟨h, 10, w.biasBase, 4 * w.n, .any⟩] else []

/-- The regions of the plan, in the order in which they are checked. -/
def PlanImg.regions (p : PlanImg) : List PlanRegion :=
  (p.descs.map fun d => tableRegions d (p.opt d.table)).flatten ++
    (p.wsets.map fun b => wsetRegions (recId b) (weightSetOf b p.plan p.owner)).flatten ++
    p.tsets.map fun b => ⟨recId b, 11, field b 16 8, 64, .owned⟩

/-- The regions of the plans that a context has loaded. -/
def State.regionsOf (s : State) (ctx : Nat) : List PlanRegion :=
  ((s.tables.filter fun e => e.2.owner == ctx).map fun e => tableRegions e.2.desc e.2.opt).flatten ++
    ((s.wsets.filter fun e => e.2.owner == ctx).map fun e => wsetRegions e.1 e.2).flatten ++
    (s.tsets.filter fun e => e.2.owner == ctx).map fun e => ⟨e.1, 11, e.2.recAddr, 64, .owned⟩

/-- Whether a segment has the attributes that a region needs. -/
def Segment.meets (g : Segment) (n : Need) : Bool :=
  match n with
  | .any => true
  | .written => g.wattr != 3
  | .owned => g.wattr == 0 && !g.coh

/-- Whether addresses `[a, e)` lie in valid segments with the attributes needed. -/
def coveredBy (segs : List Segment) (n : Need) (a e fuel : Nat) : Bool :=
  if e ≤ a then true
  else
    match fuel with
    | 0 => false
    | fuel + 1 =>
      match segs.find? fun g => g.valid && decide (g.vbase ≤ a) && decide (a < g.vbase + g.size) with
      | some g => g.meets n && coveredBy segs n (g.vbase + g.size) e fuel
      | none => false

def PlanRegion.meets (a b : PlanRegion) : Bool := decide (a.va < b.va + b.len) && decide (b.va < a.va + a.len)

/-- The part of a region within one aligned run of 64 KiB, which lies in one page: its address and length. -/
def PlanRegion.chunk (r : PlanRegion) (i : Nat) : Nat × Nat :=
  let a := Nat.max r.va ((r.va / 2 ^ 16 + i) * 2 ^ 16)
  (a, Nat.min (r.va + r.len) ((r.va / 2 ^ 16 + i + 1) * 2 ^ 16) - a)

/-- Whether a region of a context lies in the firmware region, by the pages that the context's tables map (R410; DEDUCED: log entry 116). -/
def State.inFirmware (s : State) (ctx : Nat) (r : PlanRegion) : Bool :=
  (List.range ((r.va + r.len - 1) / 2 ^ 16 - r.va / 2 ^ 16 + 1)).any fun i =>
    let (va, n) := r.chunk i
    match s.segOf ctx va with
    | none => false
    | some (k, g) =>
      match (s.walk k g va false).1 with
      | .ok pa _ => s.isLocal pa && decide (localOf pa < fwBase + fwBytes) && decide (fwBase < localOf pa + n)
      | _ => false

/-- Check 15: each region against its segments, the owner's loaded regions, the regions of the plan before it, and what no region may lie in. -/
def regionCheck (segs : List Segment) (barred : PlanRegion → Bool) (seen : List PlanRegion) (l : List PlanRegion) : Option Refused :=
  match l with
  | [] => none
  | r :: rest =>
    if coveredBy segs r.need r.va (r.va + r.len) 17 && seen.all (fun x => !x.meets r) && !barred r then regionCheck segs barred (r :: seen) rest
    else some (noRoom 0x15 r.object r.number r.va 0)

/-- Check 15: no region of the plan lies in the firmware region (R371, R410). -/
def State.check15 (s : State) (p : PlanImg) : Option Refused :=
  regionCheck (((s.context? p.owner).map fun x => x.segs.toList).getD []) (s.inFirmware p.owner) (s.regionsOf p.owner) p.regions

/-! ## Checks 16 to 18: space, regulators, apply windows -/

/-- The announced expander bytes (R305). -/
def State.announced (s : State) : Nat := ((List.range 16).map s.expBytes).foldl (· + ·) 0

/-- Check 16 over the plan's sets, from the bytes declared already. -/
def spaceCheck (share cap pool used : Nat) (l : List (List Byte)) : Option Refused :=
  match l with
  | [] => none
  | b :: rest =>
    let pool := pool + field b 32 8
    let used := used + field b 40 8
    if share < pool then some (noRoom 0x16 (recId b) 0 pool (share / 2 ^ 20))
    else if cap < used then some (noRoom 0x16 (recId b) 1 used (cap / 2 ^ 20))
    else spaceCheck share cap pool used rest

def State.check16 (s : State) (p : PlanImg) : Option Refused :=
  spaceCheck s.poolShare s.announced ((s.tsets.map fun e => e.2.poolBytes).foldl (· + ·) 0)
    ((s.tsets.map fun e => e.2.capBytes).foldl (· + ·) 0) p.tsets

/-- The reserved rate of a bucket over the installed plans and this one (R372). -/
def State.rateSum (s : State) (p : PlanImg) (d : Nat) : Nat :=
  (((s.plans.map (·.resv)).flatten ++ p.resv.map resvOf).map fun r => r.rate.getD d 0).foldl (· + ·) 0

/-- Check 17: the larger load is reported, the pool's when they are equal, with the plan's lowest partition (log entry 32). -/
def State.check17 (s : State) (p : PlanImg) : Option Refused :=
  let pool := poolLoad (s.rateSum p 0) (s.rateSum p 1)
  let cap := capLoad (s.rateSum p 2) (s.rateSum p 3)
  if pool.le .one && cap.le .one then none
  else
    let isCap := pool.lt cap
    let load := if isCap then cap else pool
    some (stBudget, { reason := 0x20, object := ((p.resv.head?).map (field · 0 1)).getD 0, index := if isCap then 1 else 0
                      value := (load.mul (.ofNat 10000)).floor, limit := 10000 })

/-- The clocks per column of an LR table's basis (R224). -/
def State.basisClocks (s : State) (p : PlanImg) (d : TableDesc) : Nat :=
  if ((s.wsetFor p d.lrBasis).map (·.fmt)).getD 7 = 1 then 2 else 1

/-- W of each table set of the plan (R205). -/
def State.planBounds (s : State) (p : PlanImg) : List (Nat × Nat) :=
  p.tsets.map fun b =>
    let ts := (p.descs.filter fun d => p.setOf d.table == recId b).map fun d =>
      ({ desc := d, opt := p.opt d.table, basis := s.basisClocks p d } : CostTable)
    (recId b, applyWindow ts (field b 24 4) (field b 28 4) (wayCount (s.planMask p 4)) (field b 40 8 != 0))

/-- Check 18: each reader with a budget, of the plan's sets and of loaded ones (R206). -/
def State.check18 (s : State) (p : PlanImg) (ws : List (Nat × Nat)) : Option Refused :=
  p.readers.findSome? fun b =>
    let h := recId b
    let w := match kget ws h with
      | some w => w
      | none => ((s.tset? h).map (·.bound)).getD 0
    let budget := 1000 * field b 4 4
    if budget ≠ 0 ∧ budget < w then
      some (stApplyWindow, { reason := 0x30, object := h, object2 := field b 2 2, value := w, limit := budget })
    else none

/-- Admission after check 1: the first refusal of R371, with W of each set when there is none. -/
def State.admitPlan (s : State) (p : PlanImg) : Option Refused × List (Nat × Nat) :=
  let ws := s.planBounds p
  (orThen (check2 p) fun _ => orThen (check3 p) fun _ => orThen (check4 p) fun _ => orThen (check5 p) fun _ => orThen (s.check6 p) fun _ =>
    orThen (s.check7 p) fun _ => orThen (s.check8 p) fun _ => orThen (s.check9 p) fun _ => orThen (s.check10 p) fun _ =>
      orThen (s.check11 p) fun _ => orThen (check12 p) fun _ => orThen (s.check13 p) fun _ => orThen (check14 p) fun _ =>
        orThen (s.check15 p) fun _ => orThen (s.check16 p) fun _ => orThen (s.check17 p) fun _ => s.check18 p ws, ws)

end Sys2Proof.Machine
end

