-- ==== Sys2Proof/Machine/Plan.lean ====
section
/-! DEFINITION. LOAD_PLAN and UNLOAD_PLAN (R369 to R372): admission, the installation of a plan whole, the epoch records, directories and
slot registries of its table sets (R174, R181, R185), and its removal. -/

namespace Sys2Proof.Machine

/-! ## Installation (R369) -/

/-- A table as a plan installs it: Adam's powers start at β (R181). -/
def PlanImg.tableOf (p : PlanImg) (d : TableDesc) : Table :=
  let o := p.opt d.table
  let b1 := (o.map (·.beta1)).getD 0
  let b2 := (o.map (·.beta2)).getD 0
  { desc := d, opt := o, tset := p.setOf d.table, cls := p.classOf d.table, owner := p.owner, p1 := b1, p2 := b2
    omb1 := subOdd f32One b1, omb2 := subOdd f32One b2 }

/-- The REGU registers of a reservation: a bucket is regulated when its rate is not zero (R329, R368; log entry 33). -/
def State.setRegu (s : State) (r : Resv) : State :=
  foldN 4 s fun s d =>
    let rate := r.rate.getD d 0
    let v := (if rate = 0 then 0 else 2 ^ 31) + (if bitOf r.borrow d then 2 ^ 30 else 0) + 2 ^ 16 * r.burst.getD d 0 + rate
    s.setReg (0x38000 + 16 * r.part + 4 * d) (BitVec.ofNat 32 v)

/-- The masks of a plan are written, unless it keeps those in force (R287, R368). -/
def State.setMasks (s : State) (p : PlanImg) : State :=
  if p.setsMasks then
    (foldN 16 s fun s n => s.setReg (0x20040 + 4 * n) (BitVec.ofNat 32 (field p.cls (2 * n) 2))).setReg 0x20008 (BitVec.ofNat 32 (field p.cls 32 2))
  else s

/-- An admitted plan in the inventory: its sets, tables, images, weight sets, readers, lists, regulators and masks. -/
def State.addPlan (s : State) (p : PlanImg) (ws : List (Nat × Nat)) : State :=
  let s := p.tsets.foldl (fun (s : State) b =>
    (s.clearCounters 4 (recId b)).setTset (recId b) { tableSetOf b p.plan p.owner with bound := (kget ws (recId b)).getD 0 }) s
  let s := p.descs.foldl (fun (s : State) d => (s.clearCounters 3 d.table).setTable d.table (p.tableOf d)) s
  let s := p.readers.foldl (fun (s : State) b => s.updTset (recId b) fun t => { t with readers := t.readers ++ [(field b 2 2, field b 4 4, p.plan)] }) s
  let s := p.lists.foldl (fun (s : State) b => s.updTset (recId b) fun t =>
    { t with lists := t.lists ++ [{ epoch := field b 4 4, entries := promoEntries (b.drop 16) (field b 8 4) }] }) s
  let resv := p.resv.map resvOf
  let s := (resv.foldl State.setRegu s).setMasks p
  let new : Plan :=
    { handle := p.plan, owner := p.owner, tsets := p.tsets.map recId, tables := p.tables.map recId, images := p.progs.map (·.handle)
      wsets := p.wsets.map recId, resv := resv, wayMin := p.wayMin, digest := leNat (Config.sha384 p.bytes) }
  { s with
    images := p.progs.foldl (fun (m : List (Nat × Image)) x => sinsert m x.handle (imageOf x.image p.plan)) s.images
    wsets := p.wsets.foldl (fun (m : List (Nat × WeightSet)) b => sinsert m (recId b) (weightSetOf b p.plan p.owner)) s.wsets
    plans := insertBy Plan.handle new s.plans }

/-! ## The state of the sets (R174, R181, R185) -/

/-- Adam's powers after a number of commits (R181). -/
def Table.stepped (t : Table) (n : Nat) : Table := foldN n t fun t _ => t.advance

/-- Every bucket of a table's map, into the slot registry and the filter; an unreadable one is to be rebuilt (R185, R430). -/
def learnMap (c : CmdId) (w : Who) (n : Nat) (js : List Nat) : Work Unit :=
  Work.each (fun j s =>
    let t := (s.table? n).getD {}
    ((readWork c (s.mapSpace t c) w (t.desc.bucketVa j) 64).andThen fun b =>
      Work.upd fun s => match b with
        | some b => s.updTable n fun t => t.learnBucket b j
        | none => s.markBucket n j) s) js

/-- The directories of a set are cleared against the epoch that it loads with (R174). -/
def clearForLoad (h : Nat) (c : CmdId) : Work Unit := fun s =>
  let e := s.epochOf h
  match s.clearDirs c (s.whoJob c) (s.tablesOf h) e with
  | (s, .ok _) => (s.updTset h fun t => { t with clearEpoch := e }, .ok ())
  | (s, r) => (s, r.pass)

/-- A set that starts anew: its epoch record is written as a stable record (R185). -/
def freshSet (h : Nat) (c : CmdId) : Work Unit := fun s =>
  match s.tset? h with
  | none => (s, .ok ())
  | some t => ((writeWork c (s.recordSpace t) (s.whoJob c) t.recAddr t.record).andThen fun _ => Work.upd fun s => s.settleVa (s.recordSpace t) t.recAddr) s

/-- A read of a record: none when it cannot be read, for whatever reason (R185). -/
def Work.orNone {α : Type} (w : Work (Option α)) : Work (Option α) := fun s =>
  match w s with
  | (s, .stop _ _) => (s, .ok none)
  | r => r

/-- A write that is left out when it is refused. -/
def Work.orDrop (w : Work Unit) : Work Unit := fun s =>
  match w s with
  | (s, .stop _ _) => (s, .ok ())
  | r => r

/-- The record of a set that loads TORN, or without the mark that its last step had, is written as the set stands (R208, R215). -/
def showRecord (h : Nat) (c : CmdId) : Work Unit := fun s =>
  match s.tset? h with
  | none => (s, .ok ())
  | some t =>
    Work.orDrop ((writeWork c (s.recordSpace t) (s.whoJob c) t.recAddr t.record).andThen fun _ => Work.upd fun s => s.settleVa (s.recordSpace t) t.recAddr) s

/-- A set that resumes from its epoch record: OPEN at its epoch with what stands in its regions, or TORN, with epoch 0 when the record
cannot be read (R185). -/
def resumeSet (h : Nat) (c : CmdId) : Work Unit := fun s =>
  match s.tset? h with
  | none => (s, .ok ())
  | some t =>
    ((Work.orNone (readWork c (s.recordSpace t) (s.whoJob c) t.recAddr 64)).andThen fun b =>
      match b with
      | none => (Work.upd fun s => s.updTset h fun t => { t with st := .torn }).andThen fun _ => showRecord h c
      | some b =>
        let torn := field b 0 4 % 2 == 1 || bitOf (field b 20 4) 1
        let steps := field b 32 8
        (Work.upd fun s => s.updTset h fun t =>
          { t with
            epoch := field b 4 4, seq := field b 0 4, commitTime := field b 8 8, windowNs := field b 16 4, restored := bitOf (field b 20 4) 2
            snapEpoch := field b 24 8, adamSteps := steps, st := if torn then .torn else .opened }).andThen fun _ =>
        if torn then showRecord h c
        else
          (if bitOf (field b 20 4) 0 then showRecord h c else Work.ret ()).andThen fun _ =>
          (Work.upd fun (s : State) => { s with tables := s.tables.map fun (e : Nat × Table) =>
            if e.2.tset = h then (e.1, e.2.stepped steps) else e }).andThen fun _ =>
          Work.each (fun (e : Nat × Table) => if e.2.desc.tiered then learnMap c (s.whoJob c) e.1 (List.range (2 ^ e.2.desc.mapLog2)) else Work.ret ())
            (s.tablesOf h)) s

/-- The plan is installed whole. -/
def installPlan (c : CmdId) (p : PlanImg) (ws : List (Nat × Nat)) : Work Unit :=
  (Work.upd fun s => s.addPlan p ws).andThen fun _ =>
    Work.each (fun b => (if bitOf (field b 2 2) 0 then resumeSet (recId b) c else freshSet (recId b) c).andThen fun _ => clearForLoad (recId b) c) p.tsets

/-! ## LOAD_PLAN -/

/-- A plan that admission lets in: the reply of R357, and, but for CHECK_ONLY, the installation (R369). -/
def State.loadAdmitted (s : State) (j : Job) (p : PlanImg) (ws : List (Nat × Nat)) : State :=
  let c := j.id
  let reply := fun (s : State) => (s.updJob c fun j => { j with value0 := p.plan, value1 := (ws.map (·.2)).foldl Nat.max 0 }).complete c
  if flCheckOnly j.pkt then reply s
  else
    match (installPlan c p ws).whole s with
    | (s, .ok _) => reply s
    | (s, .stop st d) => s.complete c st d
    | (s, .wait) => s.await c

/-- A read of the image that gives no bytes. -/
def State.planRead (s : State) (c : CmdId) (r : Rd) : State :=
  match r with
  | .stop st d => s.complete c st d
  | .bad _ => s.complete c stAborted
  | _ => s.await c

/-- The length of an in-line plan image (R342). -/
def inlineLen (d : Nat) : Option Nat :=
  match desc d with
  | .inline _ n => some n
  | _ => none

/-- LOAD_PLAN: plans are admitted one at a time, in acceptance order; one that passes every check is installed whole (R369, R371). -/
def execLoadPlan (c : CmdId) (s : State) : Out :=
  cmdRow s c opLoadPlan fun j s =>
    let d := pktD0 j.pkt
    let refuse := fun (s : State) (r : Refused) => s.complete c r.1 r.2
    if s.jobs.any (fun k => pktOpcode k.pkt == opLoadPlan && k.parsed && k.phase != .finishing && decide (k.order < j.order)) then s.await c
    else
      match s.readOperand c j.pkt d 0 64 with
      | (s, .ok h) =>
        (match headerCheck h (pktHandle j.pkt) (inlineLen d) with
         | some r => refuse s r
         | none =>
           match s.readOperand c j.pkt d 0 (field h 4 4) with
           | (s, .ok im) =>
             (match sectionCheck im with
              | some r => refuse s r
              | none =>
                let p := planImg im c.ctx
                match s.admitPlan p with
                | (some r, _) => refuse s r
                | (none, ws) => s.loadAdmitted j p ws)
           | (s, r) => s.planRead c r)
      | (s, r) => s.planRead c r

/-! ## UNLOAD_PLAN (R370) -/

/-- Whether a command names an object of a plan (R91, R370). -/
def State.usesPlan (s : State) (p : Plan) (j : Job) : Bool :=
  let op := pktOpcode j.pkt
  let sub := pktOparam j.pkt
  j.parsed &&
    ((isBagOp op && (p.images.contains (pktHandle j.pkt) || (bagTables j.pkt j.block).any p.tables.contains)) ||
     (cmdWsets j.pkt j.block).any p.wsets.contains || (s.readSets j.pkt j.block).any p.tsets.contains ||
     ((op == opApply || op == opSnapshot || op == opRestore) && p.tsets.contains (pktObj j.pkt)) ||
     (op == opConfig && sub == subArmWeights && p.wsets.contains (field j.block 0 2)) ||
     (op == opConfig && (sub == subPromoList || sub == subShardSet) && p.tsets.contains (field j.block 0 2)))

/-- Whether every set of a plan is OPEN or TORN, with no step being applied (R197). -/
def State.setsIdle (s : State) (p : Plan) : Bool :=
  p.tsets.all fun h => match s.tset? h with
    | some t => (t.st == .opened || t.st == .torn) && t.apply.isNone
    | none => true

/-- The REGU registers of a partition are clear. -/
def State.clearRegu (s : State) (part : Nat) : State := foldN 4 s fun s d => s.setReg (0x38000 + 16 * part + 4 * d) 0

/-- The sketches of a plan's tables take what the merging buffers hold of them (R74; log entry 101). -/
def State.flushPlan (s : State) (c : CmdId) (p : Plan) : State × Bool :=
  p.tsets.foldl (fun (acc : State × Bool) h =>
    let (s, done) := acc.1.flushSketch c (s.whoJob c) h
    (s, acc.2 && done)) (s, true)

/-- A plan is gone, with its objects, its staging, its filter regions and slots, its reader records and its regulators (R370). -/
def State.removePlan (s : State) (p : Plan) : State :=
  let s := (p.resv.map (·.part)).foldl State.clearRegu s
  let s := p.wsets.foldl State.dropBasis s
  { s with
    plans := s.plans.filter fun q => q.handle ≠ p.handle
    tables := s.tables.filter fun e => !p.tables.contains e.1
    tsets := (s.tsets.filter fun e => !p.tsets.contains e.1).map fun (e : Nat × TableSet) =>
      (e.1, { e.2 with readers := e.2.readers.filter fun r => r.2.2 ≠ p.handle })
    images := s.images.filter fun e => !p.images.contains e.1
    wsets := s.wsets.filter fun e => !p.wsets.contains e.1
    poisoned := s.poisoned.filter fun r => !p.tables.contains r.table
    sketchBuf := s.sketchBuf.filter fun e => !p.tables.contains e.table
    fab := { s.fab with shards := s.fab.shards.filter fun e => !p.tsets.contains e.1 } }

/-- UNLOAD_PLAN: completes once every command that names the plan's objects has ended and its sets are OPEN or TORN (R91, R197, R370). -/
def execUnloadPlan (c : CmdId) (s : State) : Out :=
  cmdRow s c opUnloadPlan fun j s =>
    match s.plan? (pktHandle j.pkt) with
    | none => s.complete c
    | some p =>
      if s.jobs.any (fun k => decide (k.id ≠ c) && s.usesPlan p k) || !s.setsIdle p then s.await c
      else
        match s.flushPlan c p with
        | (s, true) => (s.removePlan p).complete c
        | (s, false) => s.await c

end Sys2Proof.Machine
end

