-- ==== Sys2Proof/Machine/Streams.lean ====
section
/-! DEFINITION. The stream instructions (R93): each issues on its stream when it is the instruction at the stream's PC and the stream
runs, and otherwise changes nothing (R103, R105). -/

namespace Sys2Proof.Machine

/-- LDI (R93). -/
def execLdi (st : StreamId) (d : Fin 16) (imm : BitVec 22) (s : State) : Out := actS s (·.issuePlain st.key (.ldi d imm))

/-- LDH (R93). -/
def execLdh (st : StreamId) (d : Fin 16) (imm : BitVec 16) (pos : BitVec 2) (s : State) : Out :=
  actS s (·.issuePlain st.key (.ldh d imm pos))

/-- MOV (R93). -/
def execMov (st : StreamId) (d a : Fin 16) (s : State) : Out := actS s (·.issuePlain st.key (.mov d a))

/-- ADD (R93). -/
def execAdd (st : StreamId) (d a b : Fin 16) (s : State) : Out := actS s (·.issuePlain st.key (.add d a b))

/-- SUB (R93). -/
def execSub (st : StreamId) (d a b : Fin 16) (s : State) : Out := actS s (·.issuePlain st.key (.sub d a b))

/-- MUL (R93). -/
def execMul (st : StreamId) (d a b : Fin 16) (s : State) : Out := actS s (·.issuePlain st.key (.mul d a b))

/-- MULHU (R93). -/
def execMulhu (st : StreamId) (d a b : Fin 16) (s : State) : Out := actS s (·.issuePlain st.key (.mulhu d a b))

/-- AND (R93). -/
def execAnd (st : StreamId) (d a b : Fin 16) (s : State) : Out := actS s (·.issuePlain st.key (.and d a b))

/-- OR (R93). -/
def execOr (st : StreamId) (d a b : Fin 16) (s : State) : Out := actS s (·.issuePlain st.key (.or d a b))

/-- XOR (R93). -/
def execXor (st : StreamId) (d a b : Fin 16) (s : State) : Out := actS s (·.issuePlain st.key (.xor d a b))

/-- MINU (R93). -/
def execMinu (st : StreamId) (d a b : Fin 16) (s : State) : Out := actS s (·.issuePlain st.key (.minu d a b))

/-- SHL (R93). -/
def execShl (st : StreamId) (d a b : Fin 16) (s : State) : Out := actS s (·.issuePlain st.key (.shl d a b))

/-- SHR (R93). -/
def execShr (st : StreamId) (d a b : Fin 16) (s : State) : Out := actS s (·.issuePlain st.key (.shr d a b))

/-- ADDI (R93). -/
def execAddi (st : StreamId) (d a : Fin 16) (imm : BitVec 18) (s : State) : Out :=
  actS s (·.issuePlain st.key (.addi d a imm))

/-- ANDI (R93). -/
def execAndi (st : StreamId) (d a : Fin 16) (imm : BitVec 18) (s : State) : Out :=
  actS s (·.issuePlain st.key (.andi d a imm))

/-- SHLI (R93). -/
def execShli (st : StreamId) (d a : Fin 16) (sh : BitVec 6) (s : State) : Out := actS s (·.issuePlain st.key (.shli d a sh))

/-- SHRI (R93). -/
def execShri (st : StreamId) (d a : Fin 16) (sh : BitVec 6) (s : State) : Out := actS s (·.issuePlain st.key (.shri d a sh))

/-- HMUL (R93). -/
def execHmul (st : StreamId) (d a b : Fin 16) (sh : BitVec 6) (s : State) : Out :=
  actS s (·.issuePlain st.key (.hmul d a b sh))

/-- HMIX (R94). -/
def execHmix (st : StreamId) (d a : Fin 16) (seed : BitVec 14) (s : State) : Out :=
  actS s (·.issuePlain st.key (.hmix d a seed))

/-- CROSS (R94). -/
def execCross (st : StreamId) (d a b : Fin 16) (seed : BitVec 14) (s : State) : Out :=
  actS s (·.issuePlain st.key (.cross d a b seed))

/-- CHKS (R95). -/
def execChks (st : StreamId) (d : Fin 16) (width kind : BitVec 2) (s : State) : Out :=
  actS s (·.issuePlain st.key (.chks d width kind))

/-- CHKR (R93). -/
def execChkr (st : StreamId) (d a b : Fin 16) (s : State) : Out := actS s (·.issuePlain st.key (.chkr d a b))

/-- LDX: the next entry of a port, with its check (R86, R87). -/
def execLdx (st : StreamId) (d : Fin 16) (port : Fin 4) (chk : Bool) (s : State) : Out :=
  actS s (·.issueLoad st.key (.ldx d port chk) port.val fun a raw => ldxEff a d port.val chk raw)

/-- LDW: the weight formed from the next entry of a port (R86). -/
def execLdw (st : StreamId) (port : Fin 4) (s : State) : Out :=
  actS s (·.issueLoad st.key (.ldw port) port.val fun a raw => ldwEff a port.val raw)

/-- LEN (R93). -/
def execLen (st : StreamId) (d : Fin 16) (s : State) : Out := actS s (·.issuePlain st.key (.len d))

/-- POS (R93). -/
def execPos (st : StreamId) (d : Fin 16) (sel : BitVec 2) (s : State) : Out := actS s (·.issuePlain st.key (.pos d sel))

/-- LOOP (R96). -/
def execLoop (st : StreamId) (lc : Fin 3) (imm : Bool) (a : Fin 16) (count : BitVec 13) (last : BitVec 6) (s : State) : Out :=
  actS s (·.issuePlain st.key (.loop lc imm a count last))

/-- BEQ (R97). -/
def execBeq (st : StreamId) (a b : Fin 16) (t : BitVec 6) (s : State) : Out := actS s (·.issuePlain st.key (.beq a b t))

/-- BNE (R97). -/
def execBne (st : StreamId) (a b : Fin 16) (t : BitVec 6) (s : State) : Out := actS s (·.issuePlain st.key (.bne a b t))

/-- BLTU (R97). -/
def execBltu (st : StreamId) (a b : Fin 16) (t : BitVec 6) (s : State) : Out := actS s (·.issuePlain st.key (.bltu a b t))

/-- BGEU (R97). -/
def execBgeu (st : StreamId) (a b : Fin 16) (t : BitVec 6) (s : State) : Out := actS s (·.issuePlain st.key (.bgeu a b t))

/-- BV (R97). -/
def execBv (st : StreamId) (a : Fin 16) (t : BitVec 6) (s : State) : Out := actS s (·.issuePlain st.key (.bv a t))

/-- BR (R97). -/
def execBr (st : StreamId) (t : BitVec 6) (s : State) : Out := actS s (·.issuePlain st.key (.br t))

/-- EMIT: a row reference to the pointing stage (R98, R104, R110). -/
def execEmit (st : StreamId) (a : Fin 16) (s : State) : Out := actS s (·.issueSend st.key (.emit a))

/-- BAGEND: a bag-end marker, and the next bag or the end of the work item (R99, R104, R110, R112). -/
def execBagend (st : StreamId) (t : BitVec 6) (s : State) : Out := actS s (·.issueSend st.key (.bagend t))

/-- PREF: a hint that brings a row's copy into the row cache (R101). -/
def execPref (st : StreamId) (a : Fin 16) (s : State) : Out := actS s (·.issuePref st.key a)

/-- RUN: the references of the entries left in the piece (R100, R104, R109, R110). -/
def execRun (st : StreamId) (a : Fin 16) (s : State) : Out := actS s (·.issueRun st.key a)

/-- MODE: the mode word from a register (R84, R108, R115). -/
def execMode (st : StreamId) (a : Fin 16) (s : State) : Out := actS s (·.issueMode st.key (.mode a) a)

/-- MODET (R84, R108). -/
def execModet (st : StreamId) (t : BitVec 2) (s : State) : Out := actS s (·.issuePlain st.key (.modet t))

/-- STOP (R99). -/
def execStop (st : StreamId) (s : State) : Out := actS s (·.issuePlain st.key .stop)

end Sys2Proof.Machine
end

