-- ==== Sys2Proof/Machine/Dispatch.lean ====
section
/-! DEFINITION. The effect of each command: one arm per row of the table. -/

namespace Sys2Proof.Machine

/-- The effect of a command on everything but the queue of waiting commands. -/
def exec (i : Instr) (s : State) : Host.Outcome State Fault Refusal :=
  match i with
  | .resetN => Sys2Proof.Machine.execResetN s
  | .ctlPllLock => Sys2Proof.Machine.execCtlPllLock s
  | .plinthImageReadDone copyB readOk img => Sys2Proof.Machine.execPlinthImageReadDone copyB readOk img s
  | .coreCachePllLock => Sys2Proof.Machine.execCoreCachePllLock s
  | .bootScrubEnd => Sys2Proof.Machine.execBootScrubEnd s
  | .armatureImageReadDone copyB readOk img => Sys2Proof.Machine.execArmatureImageReadDone copyB readOk img s
  | .poolReady => Sys2Proof.Machine.execPoolReady s
  | .ready => Sys2Proof.Machine.execReady s
  | .bootTimeout b => Sys2Proof.Machine.execBootTimeout b s
  | .nop c => Sys2Proof.Machine.execNop c s
  | .gather c => Sys2Proof.Machine.execGather c s
  | .gatherSeq c => Sys2Proof.Machine.execGatherSeq c s
  | .scatterGrad c => Sys2Proof.Machine.execScatterGrad c s
  | .applyEpoch c => Sys2Proof.Machine.execApplyEpoch c s
  | .project c => Sys2Proof.Machine.execProject c s
  | .loadPlan c => Sys2Proof.Machine.execLoadPlan c s
  | .unloadPlan c => Sys2Proof.Machine.execUnloadPlan c s
  | .mapSegment c => Sys2Proof.Machine.execMapSegment c s
  | .invalidate c => Sys2Proof.Machine.execInvalidate c s
  | .contextCreate c => Sys2Proof.Machine.execContextCreate c s
  | .contextDelete c => Sys2Proof.Machine.execContextDelete c s
  | .queueCreate c => Sys2Proof.Machine.execQueueCreate c s
  | .queueDelete c => Sys2Proof.Machine.execQueueDelete c s
  | .grant c => Sys2Proof.Machine.execGrant c s
  | .armWeights c => Sys2Proof.Machine.execArmWeights c s
  | .promoList c => Sys2Proof.Machine.execPromoList c s
  | .expander c => Sys2Proof.Machine.execExpander c s
  | .poolShare c => Sys2Proof.Machine.execPoolShare c s
  | .attest c => Sys2Proof.Machine.execAttest c s
  | .setNode c => Sys2Proof.Machine.execSetNode c s
  | .routeSet c => Sys2Proof.Machine.execRouteSet c s
  | .routeClear c => Sys2Proof.Machine.execRouteClear c s
  | .neighbours c => Sys2Proof.Machine.execNeighbours c s
  | .shardSet c => Sys2Proof.Machine.execShardSet c s
  | .port c => Sys2Proof.Machine.execPort c s
  | .snapshot c => Sys2Proof.Machine.execSnapshot c s
  | .restore c => Sys2Proof.Machine.execRestore c s
  | .setEnvelope c => Sys2Proof.Machine.execSetEnvelope c s
  | .queryCounters c => Sys2Proof.Machine.execQueryCounters c s
  | .traceCtl c => Sys2Proof.Machine.execTraceCtl c s
  | .waitGraph c => Sys2Proof.Machine.execWaitGraph c s
  | .drain c => Sys2Proof.Machine.execDrain c s
  | .join c => Sys2Proof.Machine.execJoin c s
  | .dbgNonce c => Sys2Proof.Machine.execDbgNonce c s
  | .dbgOpen c => Sys2Proof.Machine.execDbgOpen c s
  | .dbgClose c => Sys2Proof.Machine.execDbgClose c s
  | .dbgRead c => Sys2Proof.Machine.execDbgRead c s
  | .cqDb r idx tail chead => Sys2Proof.Machine.execCqDb r idx tail chead s
  | .packetFetched idx => Sys2Proof.Machine.execPacketFetched idx s
  | .pass2Start c => Sys2Proof.Machine.execPass2Start c s
  | .stagingAdd c => Sys2Proof.Machine.execStagingAdd c s
  | .heavyRowFlush c => Sys2Proof.Machine.execHeavyRowFlush c s
  | .enterDraining tset => Sys2Proof.Machine.execEnterDraining tset s
  | .enterWriting tset => Sys2Proof.Machine.execEnterWriting tset s
  | .enterCommitting tset => Sys2Proof.Machine.execEnterCommitting tset s
  | .commandTimeout c => Sys2Proof.Machine.execCommandTimeout c s
  | .workItemDeal => Sys2Proof.Machine.execWorkItemDeal s
  | .workItemStart st => Sys2Proof.Machine.execWorkItemStart st s
  | .workItemSteal slice => Sys2Proof.Machine.execWorkItemSteal slice s
  | .workItemMigrate item slice => Sys2Proof.Machine.execWorkItemMigrate item slice s
  | .rateIntervalEnd => Sys2Proof.Machine.execRateIntervalEnd s
  | .ldi st d imm => Sys2Proof.Machine.execLdi st d imm s
  | .ldh st d imm pos => Sys2Proof.Machine.execLdh st d imm pos s
  | .mov st d a => Sys2Proof.Machine.execMov st d a s
  | .add st d a b => Sys2Proof.Machine.execAdd st d a b s
  | .sub st d a b => Sys2Proof.Machine.execSub st d a b s
  | .mul st d a b => Sys2Proof.Machine.execMul st d a b s
  | .mulhu st d a b => Sys2Proof.Machine.execMulhu st d a b s
  | .and st d a b => Sys2Proof.Machine.execAnd st d a b s
  | .or st d a b => Sys2Proof.Machine.execOr st d a b s
  | .xor st d a b => Sys2Proof.Machine.execXor st d a b s
  | .minu st d a b => Sys2Proof.Machine.execMinu st d a b s
  | .shl st d a b => Sys2Proof.Machine.execShl st d a b s
  | .shr st d a b => Sys2Proof.Machine.execShr st d a b s
  | .addi st d a imm => Sys2Proof.Machine.execAddi st d a imm s
  | .andi st d a imm => Sys2Proof.Machine.execAndi st d a imm s
  | .shli st d a sh => Sys2Proof.Machine.execShli st d a sh s
  | .shri st d a sh => Sys2Proof.Machine.execShri st d a sh s
  | .hmul st d a b sh => Sys2Proof.Machine.execHmul st d a b sh s
  | .hmix st d a seed => Sys2Proof.Machine.execHmix st d a seed s
  | .cross st d a b seed => Sys2Proof.Machine.execCross st d a b seed s
  | .chks st d width kind => Sys2Proof.Machine.execChks st d width kind s
  | .chkr st d a b => Sys2Proof.Machine.execChkr st d a b s
  | .ldx st d port chk => Sys2Proof.Machine.execLdx st d port chk s
  | .ldw st port => Sys2Proof.Machine.execLdw st port s
  | .len st d => Sys2Proof.Machine.execLen st d s
  | .pos st d sel => Sys2Proof.Machine.execPos st d sel s
  | .loop st lc imm a count last => Sys2Proof.Machine.execLoop st lc imm a count last s
  | .beq st a b t => Sys2Proof.Machine.execBeq st a b t s
  | .bne st a b t => Sys2Proof.Machine.execBne st a b t s
  | .bltu st a b t => Sys2Proof.Machine.execBltu st a b t s
  | .bgeu st a b t => Sys2Proof.Machine.execBgeu st a b t s
  | .bv st a t => Sys2Proof.Machine.execBv st a t s
  | .br st t => Sys2Proof.Machine.execBr st t s
  | .emit st a => Sys2Proof.Machine.execEmit st a s
  | .bagend st t => Sys2Proof.Machine.execBagend st t s
  | .pref st a => Sys2Proof.Machine.execPref st a s
  | .run st a => Sys2Proof.Machine.execRun st a s
  | .mode st a => Sys2Proof.Machine.execMode st a s
  | .modet st t => Sys2Proof.Machine.execModet st t s
  | .stop st => Sys2Proof.Machine.execStop st s
  | .pointingStageReference st => Sys2Proof.Machine.execPointingStageReference st s
  | .walkComplete ctx seg page => Sys2Proof.Machine.execWalkComplete ctx seg page s
  | .faultRecordPost slot => Sys2Proof.Machine.execFaultRecordPost slot s
  | .xlFaultDone r outcome faultId => Sys2Proof.Machine.execXlFaultDone r outcome faultId s
  | .faultTimeout slot => Sys2Proof.Machine.execFaultTimeout slot s
  | .streamResume st => Sys2Proof.Machine.execStreamResume st s
  | .xlSqNotifyAck r => Sys2Proof.Machine.execXlSqNotifyAck r s
  | .sortWindowAge st => Sys2Proof.Machine.execSortWindowAge st s
  | .missRequestIssue st => Sys2Proof.Machine.execMissRequestIssue st s
  | .refill => Sys2Proof.Machine.execRefill s
  | .rowCacheRequest slice e => Sys2Proof.Machine.execRowCacheRequest slice e s
  | .memoryReadComplete tag ue devLoad => Sys2Proof.Machine.execMemoryReadComplete tag ue devLoad s
  | .memoryWriteAck line devLoad => Sys2Proof.Machine.execMemoryWriteAck line devLoad s
  | .laneDataArrival st => Sys2Proof.Machine.execLaneDataArrival st s
  | .wcEntryAge line => Sys2Proof.Machine.execWcEntryAge line s
  | .readSnoop line => Sys2Proof.Machine.execReadSnoop line s
  | .invalidatingSnoop line => Sys2Proof.Machine.execInvalidatingSnoop line s
  | .patrolScrubRead bank e => Sys2Proof.Machine.execPatrolScrubRead bank e s
  | .bankTimeout bank => Sys2Proof.Machine.execBankTimeout bank s
  | .mapOutPassEnd bank => Sys2Proof.Machine.execMapOutPassEnd bank s
  | .rcMapOut r bank => Sys2Proof.Machine.execRcMapOut r bank s
  | .reseed r => Sys2Proof.Machine.execReseed r s
  | .temperatureReport stack temp => Sys2Proof.Machine.execTemperatureReport stack temp s
  | .throttleLower stack => Sys2Proof.Machine.execThrottleLower stack s
  | .sensorLost stack => Sys2Proof.Machine.execSensorLost stack s
  | .tagLimitRaise port => Sys2Proof.Machine.execTagLimitRaise port s
  | .capacityPortLost port => Sys2Proof.Machine.execCapacityPortLost port s
  | .accessCountDecay => Sys2Proof.Machine.execAccessCountDecay s
  | .ctCfgGo r v => Sys2Proof.Machine.execCtCfgGo r v s
  | .cfgRequestDone status data => Sys2Proof.Machine.execCfgRequestDone status data s
  | .layerStart c => Sys2Proof.Machine.execLayerStart c s
  | .tileEnd u es => Sys2Proof.Machine.execTileEnd u es s
  | .arrayEn r v => Sys2Proof.Machine.execArrayEn r v s
  | .livenessProbe quad answers ue => Sys2Proof.Machine.execLivenessProbe quad answers ue s
  | .ccHeartbeat core => Sys2Proof.Machine.execCcHeartbeat core s
  | .plinthHeartbeat => Sys2Proof.Machine.execPlinthHeartbeat s
  | .ccWatchExpiry core => Sys2Proof.Machine.execCcWatchExpiry core s
  | .ccBusError core => Sys2Proof.Machine.execCcBusError core s
  | .takeover src lost => Sys2Proof.Machine.execTakeover src lost s
  | .takeoverTimeout core => Sys2Proof.Machine.execTakeoverTimeout core s
  | .plinthWatchExpiry => Sys2Proof.Machine.execPlinthWatchExpiry s
  | .plinthBusError => Sys2Proof.Machine.execPlinthBusError s
  | .bankerDisagree => Sys2Proof.Machine.execBankerDisagree s
  | .fenceGo r => Sys2Proof.Machine.execFenceGo r s
  | .cleanDone failedSectors => Sys2Proof.Machine.execCleanDone failedSectors s
  | .unitLossDetected u => Sys2Proof.Machine.execUnitLossDetected u s
  | .restoreTimeout table row => Sys2Proof.Machine.execRestoreTimeout table row s
  | .shedInputChange chB asserted => Sys2Proof.Machine.execShedInputChange chB asserted s
  | .shedFilterStable chB => Sys2Proof.Machine.execShedFilterStable chB s
  | .discFault => Sys2Proof.Machine.execDiscFault s
  | .releaseHoldEnd => Sys2Proof.Machine.execReleaseHoldEnd s
  | .envelopeStep => Sys2Proof.Machine.execEnvelopeStep s
  | .cmd p f => Sys2Proof.Machine.execCmd p f s
  | .status p f => Sys2Proof.Machine.execStatus p f s
  | .rdReq p f => Sys2Proof.Machine.execRdReq p f s
  | .rdResp p f => Sys2Proof.Machine.execRdResp p f s
  | .wrReq p f => Sys2Proof.Machine.execWrReq p f s
  | .wrAck p f => Sys2Proof.Machine.execWrAck p f s
  | .credit p f => Sys2Proof.Machine.execCredit p f s
  | .ack p f => Sys2Proof.Machine.execAck p f s
  | .hello p f => Sys2Proof.Machine.execHello p f s
  | .loss p f => Sys2Proof.Machine.execLoss p f s
  | .unreachable p f => Sys2Proof.Machine.execUnreachable p f s
  | .joinReq p f => Sys2Proof.Machine.execJoinReq p f s
  | .regRd p f => Sys2Proof.Machine.execRegRd p f s
  | .regWr p f => Sys2Proof.Machine.execRegWr p f s
  | .regResp p f => Sys2Proof.Machine.execRegResp p f s
  | .badFrame p k f => Sys2Proof.Machine.execBadFrame p k f s
  | .signalDetect p => Sys2Proof.Machine.execSignalDetect p s
  | .trainingComplete p => Sys2Proof.Machine.execTrainingComplete p s
  | .laneLockLost p lanes => Sys2Proof.Machine.execLaneLockLost p lanes s
  | .realignComplete p => Sys2Proof.Machine.execRealignComplete p s
  | .realignTimeout p => Sys2Proof.Machine.execRealignTimeout p s
  | .lossOfSignal p => Sys2Proof.Machine.execLossOfSignal p s
  | .ackTimer p => Sys2Proof.Machine.execAckTimer p s
  | .helloTimer p => Sys2Proof.Machine.execHelloTimer p s
  | .creditTimer p => Sys2Proof.Machine.execCreditTimer p s
  | .joinReqTimer => Sys2Proof.Machine.execJoinReqTimer s
  | .isolate => Sys2Proof.Machine.execIsolate s
  | .remoteRequestTimeout tag => Sys2Proof.Machine.execRemoteRequestTimeout tag s
  | .routeUnusableExpiry dst idx => Sys2Proof.Machine.execRouteUnusableExpiry dst idx s
  | .drainDeadline => Sys2Proof.Machine.execDrainDeadline s
  | .accept r p => Sys2Proof.Machine.execAccept r p s
  | .retrain r p => Sys2Proof.Machine.execRetrain r p s
  | .portEn r p en => Sys2Proof.Machine.execPortEn r p en s
  | .pcCapture r => Sys2Proof.Machine.execPcCapture r s
  | .hangCheck => Sys2Proof.Machine.execHangCheck s
  | .gateExpiry => Sys2Proof.Machine.execGateExpiry s
  | .lowWordRead r off => Sys2Proof.Machine.execLowWordRead r off s
  | .highWordWrite r off v => Sys2Proof.Machine.execHighWordWrite r off v s
  | .lowWordWrite r off v => Sys2Proof.Machine.execLowWordWrite r off v s
  | .badRegisterAccess r off size isWrite => Sys2Proof.Machine.execBadRegisterAccess r off size isWrite s
  | .registerWrite r off v => Sys2Proof.Machine.execRegisterWrite r off v s
  | .resetNRelease => Sys2Proof.Machine.execResetNRelease s
  | .memCapFabPllLock capNoLock fabNoLock => Sys2Proof.Machine.execMemCapFabPllLock capNoLock fabNoLock s
  | .capacityLinkUp port bifurcated => Sys2Proof.Machine.execCapacityLinkUp port bifurcated s
  | .coherenceRegistrationAccept line => Sys2Proof.Machine.execCoherenceRegistrationAccept line s
  | .checkpointServiceReply table row cold promoted side state => Sys2Proof.Machine.execCheckpointServiceReply table row cold promoted side state s

end Sys2Proof.Machine
end

