-- ==== Sys2Proof/Safety.lean ====
section
/-! DEFINITION. The terms of the claims: what a command or a stream needs in order to act, when nothing else is due at an event, and the part
of the state that status records leave. -/

namespace Sys2Proof.Machine

/-- The state that neither a translation, an access to memory, a frame, an error or trace record nor a status record changes: the queue of
commands, time, boot, fuses, the read-write registers, what commands install, the streams and slices, and the units outside the memory path. Of a
ring it holds the doorbell index, the context and the queue number. -/
structure Kept where
  pending : List Instr
  time : Nat
  boot : Boot
  fuses : Fuses
  regs : Sparse (BitVec 32)
  req : Sparse ReqState
  contexts : List (Nat × Context)
  rings : List (Nat × Nat × Nat)
  fabqs : List FabQueue
  plans : List Plan
  tables : List (Nat × Table)
  images : List (Nat × Image)
  wsets : List (Nat × WeightSet)
  streams : Sparse Stream
  slices : Sparse Slice
  items : List WorkItem
  hbm : Vector Stack 16
  cap : Vector CapPort 8
  cfg : CfgBox
  grants : Sparse Nat
  qlocked : Bool
  poolShare : Nat
  poisoned : List PoisonedRow
  arrays : Vector ArrayUnit 4
  pw : Power
  dbg : DebugGate
  deriving DecidableEq, Repr

/-- That part of a state. -/
def State.kept (s : State) : Kept :=
  { pending := s.pending, time := s.time, boot := s.boot, fuses := s.fuses, regs := s.regs, req := s.req, contexts := s.contexts,
    rings := s.rings.map fun e => (e.1, e.2.ctx, e.2.queue), fabqs := s.fabqs, plans := s.plans, tables := s.tables, images := s.images, wsets := s.wsets, streams := s.streams, slices := s.slices,
    items := s.items, hbm := s.hbm, cap := s.cap, cfg := s.cfg, grants := s.grants, qlocked := s.qlocked, poolShare := s.poolShare,
    poisoned := s.poisoned, arrays := s.arrays, pw := s.pw, dbg := s.dbg }

/-- An accepted command that starts now: the block acts, the parser has finished with the packet, every earlier command of its queue has
started, no fault holds it (R319, R339, R363), and no work item is its own yet. -/
def Ready (s : State) (c : CmdId) (j : Job) : Prop :=
  s.alive = true ∧ s.job? c = some j ∧ j.parsed = true ∧ j.phase = .accepted ∧ s.mayStart j = true ∧ s.faultWait (.job c) = false ∧
    (s.items.all fun w => w.cmd != c) = true

/-- An accepted command of an opcode that starts now. -/
def ReadyOp (s : State) (c : CmdId) (j : Job) (op : Nat) : Prop := Ready s c j ∧ pktOpcode j.pkt = op

/-- An accepted CONFIG command of a sub-op that starts now. -/
def ReadySub (s : State) (c : CmdId) (j : Job) (sub : Nat) : Prop := Ready s c j ∧ pktOpcode j.pkt = opConfig ∧ pktOparam j.pkt = sub

/-- Nothing is due at the end of an event: no command can write its status record, no frame waits for credit or a link, no command is held
or is to begin reading, and the arrays have no user with a tile to run (R192, R243, R337, R380). -/
def NothingDue (s : State) : Prop :=
  (s.jobs.all fun j => !j.settled) = true ∧ (allPorts.all fun p => (s.fport p).waiting.isEmpty) = true ∧
    (s.jobs.all fun j => j.heldSince.isNone && (s.nextSets j).isNone && (s.cmdTile j).isNone) = true ∧
    s.feeder.deals = [] ∧ s.feeder.lr = none ∧ s.feeder.lrQueue = []

/-- A stream that issues an instruction now: the block acts, a work item of command `j` runs on the stream with program environment `env`,
and the instruction is the one at its PC (R103). -/
def StreamAt (s : State) (st : StreamId) (i : SInstr) (j : Job) (env : SEnv) : Prop :=
  s.alive = true ∧ s.streamEnv st.key = some (j, env) ∧ s.issuable st.key i = true

/-- A write by a requester reaches its register, and the block acts (R408, R462, R464, R465). -/
def Written (s : State) (off : Nat) (r : Requester) : Prop := s.writeReaches off r = true ∧ s.alive = true


/-- An instruction that only computes: on the stream it is at, with nothing due and the budget not spent, the registers change as `f`
says, then the PC and the loops advance; nothing else in the state changes (R82, R93, R96, R103). -/
def Computes (st : StreamId) (c : Instr) (i : SInstr) (f : SEnv → Arch → Arch) : Prop :=
  ∀ s j env, StreamAt s st i j env → NothingDue s → (s.stream st.key).budget + 1 < 65536 →
    exec c s = .next (s.setStream st.key { s.stream st.key with
      arch := (f env (s.stream st.key).arch).retire, budget := (s.stream st.key).budget + 1, runningRun := false })

/-- An instruction that sets the PC: the architectural state becomes `f` of it, and nothing else changes (R96, R97). -/
def Jumps (st : StreamId) (c : Instr) (i : SInstr) (f : Arch → Arch) : Prop :=
  ∀ s j env, StreamAt s st i j env → NothingDue s → (s.stream st.key).budget + 1 < 65536 →
    exec c s = .next (s.setStream st.key { s.stream st.key with
      arch := f (s.stream st.key).arch, budget := (s.stream st.key).budget + 1, runningRun := false })

/-- A program error with its detail: the work item is aborted with status PROGRAM_ERROR, and the detail and bag are recorded (R115). -/
def ErrsOn (st : StreamId) (c : Instr) (i : SInstr) (cond : SEnv → Stream → Prop) (detail : Nat) : Prop :=
  ∀ s j env, StreamAt s st i j env → cond env (s.stream st.key) →
    exec c s = .next (s.abortItem st.key stProgram { reason := detail, value := (s.stream st.key).arch.bag }).settle

/-- A routed frame of a type that its link accepts: its headers are those of a frame of the row, the port takes it now, and it is the next in
the link's sequence (R376, R378, R381, R382). -/
def Arrives (s : State) (p : Fin 8) (f : Frame) (typ : Nat) : Prop :=
  s.alive = true ∧ f.typ = typ ∧ f.etype = s.etherType ∧ f.ver = 1 ∧ (s.fport p).takes typ = true ∧ seqAhead f.lseq (s.fport p).rxSeq = 0

/-- A frame of one link arrives on a port that is trained or in discovery, its headers those of a frame of the row (R376, R378, R382). -/
def LinkArrives (s : State) (p : Fin 8) (f : Frame) (typ : Nat) : Prop :=
  s.alive = true ∧ f.typ = typ ∧ f.etype = s.etherType ∧ f.ver = 1 ∧ ((s.fport p).talks = true ∨ (s.fport p).st = .discovery)

/-- The state once a link has accepted a routed frame, which stands in its receive buffer: what it acknowledges has left the retry buffer, and
the next number is expected (R380, R381). -/
def State.linked (s : State) (p : Fin 8) (f : Frame) : State :=
  (s.acknowledge p f.lack).updFport p fun x => { x with rxSeq := (x.rxSeq + 1) % 2 ^ 16 }

/-- The state once an accepted frame has left its receive buffer: its credits are free (R380). -/
def State.received (s : State) (p : Fin 8) (f : Frame) : State := (s.linked p f).freeFrame p f

/-- A command row ends: its command has the effect that `t` holds, then every command that is done writes its status record; and of the
state that records leave, exactly what `k` says has changed. -/
def EndsAs (i : Instr) (s t : State) (k : Kept) : Prop := exec i s = .next t.settle ∧ t.settle.kept = k

end Sys2Proof.Machine
end

