-- ==== Sys2Proof/Certificates/Slice0/Obligations.lean ====
section
/-! DEFINITION. The statements for the provers: what each command does when its unit is ready, what it leaves, the rules of the whole machine,
and the encoding of stream instructions. -/

open Sys2Proof Sys2Proof.Machine

/-! ## The block -/

/-- A step takes the command at the front of the queue and runs it on the state with the queue's rest. -/
def Obligations.StepTakesFront : Prop :=
  ∀ (c : Instr) (rest : List Instr) (s : State), s.pending = c :: rest → step s = exec c { s with pending := rest }

/-- On an empty queue the block ticks: 10 ns of the time base pass unless RESET_N is held, and each domain's copy of it then stands at or after the
new value and before the next one; nothing else of the machine changes (R36, R37; the model's choice, log entries 7 and 95). -/
def Obligations.EmptyQueueTicks : Prop :=
  ∀ s : State, s.pending = [] →
    (s.boot.held = true → step s = .next s) ∧
    (s.boot.held = false → ∃ cs : Vector Nat 6,
      let t : State := { s with time := s.time + 10, copies := cs, fresh := s.fresh + 6 }
      step s = .next t ∧ ∀ d : Domain, s.time + 10 ≤ t.now d ∧ t.now d < s.time + 20)

/-- No command stops the block: each answers a next state from every state. -/
def Obligations.EveryCommandAnswers : Prop := ∀ (c : Instr) (s : State), ∃ t, exec c s = .next t

/-- The state after the cold reset, RESET_N still asserted: time 0, nothing locked or released, no fence, every SRAM clear, no context,
queue, plan, table or command, each replacement LFSR loaded from the reset seed, memory with nothing listed (R37, R263, R398). -/
def Obligations.ResetState : Prop :=
  let s := State.reset
  s.pending = [] ∧ s.time = 0 ∧ s.boot.held = true ∧ s.boot.stage = 0 ∧ s.err.fenced = false ∧ s.mem = [] ∧ s.poison = [] ∧
    s.contexts = [] ∧ s.rings = [] ∧ s.plans = [] ∧ s.tables = [] ∧ s.tsets = [] ∧ s.jobs = [] ∧ s.streams = [] ∧ s.rc.ways = [] ∧ s.wc = [] ∧
    s.tlb2 = [] ∧ s.faults = [] ∧ s.counters = [] ∧ (∀ g : Fin 16, s.rc.lfsr.get g = 0x1A2B3C4D ^^^ BitVec.ofNat 32 g.val) ∧
    Memory.wf s.mem = true

/-- While RESET_N is asserted no command but its two own and the levels at the shed pins changes anything; a level at a pin changes what the pin
holds alone (R398, R417). -/
def Obligations.HeldFreezes : Prop :=
  ∀ (c : Instr) (s : State), s.boot.held = true → c ≠ .resetN → c ≠ .resetNRelease →
    ((∀ b l, c ≠ .shedInputChange b l) → exec c s = .next s) ∧
    (∀ b l, c = .shedInputChange b l → ∃ a b' x y, exec c s = .next { s with pw := { s.pw with rawA := a, rawB := b', changedA := x, changedB := y } })

/-- The fence holds until RESET_N is asserted: every step from a fenced state whose front command is another leaves it fenced (R27, R438). -/
def Obligations.FenceHolds : Prop :=
  ∀ (s t : State), s.err.fenced = true → s.pending.head? ≠ some .resetN → step s = .next t → t.err.fenced = true

/-- Behind the fence only the report of the cleaning done changes memory: every other command but RESET_N leaves memory, poison, commands,
streams, contexts, plans, table sets and the row cache as they are (R27, R438, R464). -/
def Obligations.FenceStopsWork : Prop :=
  ∀ (c : Instr) (s t : State), s.err.fenced = true → c ≠ .resetN → (∀ l, c ≠ .cleanDone l) → exec c s = .next t →
    t.mem = s.mem ∧ t.poison = s.poison ∧ t.jobs = s.jobs ∧ t.streams = s.streams ∧ t.contexts = s.contexts ∧ t.plans = s.plans ∧
      t.tables = s.tables ∧ t.tsets = s.tsets ∧ t.rings = s.rings ∧ t.rc = s.rc ∧ t.wc = s.wc

/-! ## Stream instructions: words, registers, arithmetic -/

/-- Decoding the word of a well-formed stream instruction gives it back, with every operand (R93). -/
def Obligations.StreamWordsRoundTrip : Prop := ∀ i : SInstr, i.wf = true → decodeS (encodeS i) = some i

/-- A word has at most one reading: two stream instructions that some word decodes to, or that share a word, are one; and a word that
decodes is the encoding of what it decodes to (R93). -/
def Obligations.StreamWordsUnambiguous : Prop :=
  (∀ (w : BitVec 32) (i : SInstr), decodeS w = some i → i.wf = true ∧ encodeS i = w) ∧
    ∀ i k : SInstr, i.wf = true → k.wf = true → encodeS i = encodeS k → i = k

/-- Words written out from the table of R93, one of each format, and words that it makes illegal. -/
def Obligations.StreamWordsFromTheTable : Prop :=
  decodeS 0x053FFFFF#32 = some (.ldi 4 0x3FFFFF) ∧ decodeS 0x0861ABCD#32 = none ∧ decodeS 0x0860ABCD#32 = some (.ldh 1 0xABCD 2) ∧
    decodeS 0x208C0000#32 = some (.add 2 3 0) ∧ decodeS 0x58000040#32 = none ∧ decodeS 0x5147FFFF#32 = some (.addi 5 1 0x3FFFF) ∧
    decodeS 0x80A80000#32 = some (.ldx 2 2 true) ∧ decodeS 0xA1800085#32 = some (.loop 1 true 0 2 5) ∧ decodeS 0xA1880085#32 = none ∧
    decodeS 0xA4880007#32 = some (.beq 2 2 7) ∧ decodeS 0xC1C00000#32 = some (.emit 7) ∧ decodeS 0xC4000003#32 = some (.bagend 3) ∧
    decodeS 0xFC000000#32 = some .stop ∧ decodeS 0xFC000001#32 = none ∧ decodeS 0#32 = none

/-- Writing Gd sets Gd and Vd and leaves every other register and void bit (R82, R83).

The instructions on registers: their results, and the void bit as the OR of the sources' (R83, R93).

The instructions with an immediate, and those that read the stream's position: LDI, LEN and POS clear the void bit, LDH keeps it (R83,
R93).

CHKR keeps Gd and sets Vd on Ga ≥ Gb or a void source (R83, R93). -/
def Obligations.RegisterInstructions : Prop :=
  (∀ (r : Arch) (d e : Fin 16) (x : BitVec 64) (b : Bool),
      (r.put d x b).reg e = (if e = d then x else r.reg e) ∧ (r.put d x b).void e = (if e = d then b else r.void e)) ∧
  (∀ (st : StreamId) (d a b : Fin 16) (sh : BitVec 6),
      Computes st (.mov st d a) (.mov d a) (fun _ r => r.put d (r.reg a) (r.void a)) ∧
      Computes st (.add st d a b) (.add d a b) (fun _ r => r.put d (r.reg a + r.reg b) (r.void a || r.void b)) ∧
      Computes st (.sub st d a b) (.sub d a b) (fun _ r => r.put d (r.reg a - r.reg b) (r.void a || r.void b)) ∧
      Computes st (.mul st d a b) (.mul d a b) (fun _ r => r.put d (r.reg a * r.reg b) (r.void a || r.void b)) ∧
      Computes st (.mulhu st d a b) (.mulhu d a b)
        (fun _ r => r.put d (BitVec.ofNat 64 ((r.reg a).toNat * (r.reg b).toNat / 2 ^ 64)) (r.void a || r.void b)) ∧
      Computes st (.and st d a b) (.and d a b) (fun _ r => r.put d (r.reg a &&& r.reg b) (r.void a || r.void b)) ∧
      Computes st (.or st d a b) (.or d a b) (fun _ r => r.put d (r.reg a ||| r.reg b) (r.void a || r.void b)) ∧
      Computes st (.xor st d a b) (.xor d a b) (fun _ r => r.put d (r.reg a ^^^ r.reg b) (r.void a || r.void b)) ∧
      Computes st (.minu st d a b) (.minu d a b)
        (fun _ r => r.put d (if (r.reg a).toNat ≤ (r.reg b).toNat then r.reg a else r.reg b) (r.void a || r.void b)) ∧
      Computes st (.shl st d a b) (.shl d a b) (fun _ r => r.put d (r.reg a <<< ((r.reg b).toNat % 64)) (r.void a || r.void b)) ∧
      Computes st (.shr st d a b) (.shr d a b) (fun _ r => r.put d (r.reg a >>> ((r.reg b).toNat % 64)) (r.void a || r.void b)) ∧
      Computes st (.hmul st d a b sh) (.hmul d a b sh) (fun _ r => r.put d ((r.reg a * r.reg b) >>> sh.toNat) (r.void a || r.void b))) ∧
  (∀ (st : StreamId) (d a : Fin 16) (i22 : BitVec 22) (i18 : BitVec 18) (i16 : BitVec 16) (pos sel : BitVec 2) (sh : BitVec 6),
      Computes st (.ldi st d i22) (.ldi d i22) (fun _ r => r.put d (i22.signExtend 64) false) ∧
      Computes st (.ldh st d i16 pos) (.ldh d i16 pos) (fun _ r =>
        r.put d ((r.reg d &&& ~~~((0xFFFF : BitVec 64) <<< (16 * pos.toNat))) ||| (i16.zeroExtend 64 <<< (16 * pos.toNat))) (r.void d)) ∧
      Computes st (.addi st d a i18) (.addi d a i18) (fun _ r => r.put d (r.reg a + i18.signExtend 64) (r.void a)) ∧
      Computes st (.andi st d a i18) (.andi d a i18) (fun _ r => r.put d (r.reg a &&& i18.zeroExtend 64) (r.void a)) ∧
      Computes st (.shli st d a sh) (.shli d a sh) (fun _ r => r.put d (r.reg a <<< sh.toNat) (r.void a)) ∧
      Computes st (.shri st d a sh) (.shri d a sh) (fun _ r => r.put d (r.reg a >>> sh.toNat) (r.void a)) ∧
      Computes st (.len st d) (.len d) (fun _ r => r.put d (BitVec.ofNat 64 (r.entryEnd - r.entry)) false) ∧
      (sel = 0 → Computes st (.pos st d sel) (.pos d sel) (fun _ r => r.put d (BitVec.ofNat 64 r.bag) false)) ∧
      (sel = 1 → Computes st (.pos st d sel) (.pos d sel) (fun _ r => r.put d (BitVec.ofNat 64 r.entry) false)) ∧
      (sel = 2 → Computes st (.pos st d sel) (.pos d sel) (fun env r =>
        r.put d (BitVec.ofNat 64 (env.offs.getD (r.bag + 1) 0 - env.offs.getD r.bag 0)) false))) ∧
  (∀ (st : StreamId) (d a b : Fin 16),
      Computes st (.chkr st d a b) (.chkr d a b) (fun _ r =>
        r.put d (r.reg d) (r.void d || decide ((r.reg b).toNat ≤ (r.reg a).toNat) || r.void a || r.void b)))

/-- HMIX and CROSS: the mixing functions, with the constants and shifts of R94 written out; and crossing two values in the other order
differs in general (R94). -/
def Obligations.MixingFunctions : Prop :=
  let round := fun (x : BitVec 64) =>
    let y := (x ^^^ (x >>> 32)) * 0xD2B74407B1CE6E93
    let z := (y ^^^ (y >>> 29)) * 0xCA5A826395121157
    z ^^^ (z >>> 32)
  let hmix := fun (x : BitVec 64) (seed : BitVec 14) => round (x ^^^ (seed.zeroExtend 64 * 0x9F4A7C15B3E12D87))
  let cross := fun (x y : BitVec 64) (seed : BitVec 14) => hmix (x ^^^ (y.rotateLeft 27 * 0xE7037ED1A0B428DB)) seed
  (∀ (st : StreamId) (d a b : Fin 16) (seed : BitVec 14),
    Computes st (.hmix st d a seed) (.hmix d a seed) (fun _ r => r.put d (hmix (r.reg a) seed) (r.void a)) ∧
      Computes st (.cross st d a b seed) (.cross d a b seed) (fun _ r => r.put d (cross (r.reg a) (r.reg b) seed) (r.void a || r.void b))) ∧
    ∃ x y seed, cross x y seed ≠ cross y x seed

/-- CHKS tests the low width bits of Gd: sentinel sets Vd when they are all ones, negative when the top one of them is 1; Gd is kept, and a set
Vd stays set (R95). -/
def Obligations.SentinelChecks : Prop :=
  ∀ (st : StreamId) (d : Fin 16) (width kind : BitVec 2),
    let n := if width = 0 then 16 else if width = 1 then 32 else 64
    Computes st (.chks st d width kind) (.chks d width kind) (fun _ r =>
      r.put d (r.reg d) (r.void d || ((kind.getLsbD 0 && decide ((r.reg d).toNat % 2 ^ n = 2 ^ n - 1)) ||
        (kind.getLsbD 1 && (r.reg d).getLsbD (n - 1)))))

/-! ## Branches, loops, loads, references and bags -/

/-- Branches compare values alone, BV tests a void bit, and the PC becomes the target or the next index; nothing else changes (R83, R93,
R97).

LOOP starts its counter, with start at the next index, or branches past END on a count of 0; a register count that is void or at 2^32
or above is a program error, detail 4 (R96, R115).

The end of a loop: when the instruction at END of the one active loop that ends there retires, the count drops by one, and the PC goes
back to the start unless the count has reached 0, when the loop ends; where no active loop ends, the PC only advances (R96). -/
def Obligations.BranchesAndLoops : Prop :=
  (∀ (st : StreamId) (a b : Fin 16) (t : BitVec 6),
      Jumps st (.beq st a b t) (.beq a b t) (fun r => { r with pc := if r.reg a = r.reg b then t else r.pc + 1 }) ∧
      Jumps st (.bne st a b t) (.bne a b t) (fun r => { r with pc := if r.reg a = r.reg b then r.pc + 1 else t }) ∧
      Jumps st (.bltu st a b t) (.bltu a b t) (fun r => { r with pc := if (r.reg a).toNat < (r.reg b).toNat then t else r.pc + 1 }) ∧
      Jumps st (.bgeu st a b t) (.bgeu a b t) (fun r => { r with pc := if (r.reg a).toNat < (r.reg b).toNat then r.pc + 1 else t }) ∧
      Jumps st (.bv st a t) (.bv a t) (fun r => { r with pc := if r.void a = true then t else r.pc + 1 }) ∧
      Jumps st (.br st t) (.br t) (fun r => { r with pc := t })) ∧
  (∀ (st : StreamId) (lc : Fin 3) (imm : Bool) (a : Fin 16) (count : BitVec 13) (last : BitVec 6),
      (∀ s j env, StreamAt s st (.loop lc imm a count last) j env → NothingDue s → (s.stream st.key).budget + 1 < 65536 →
        let r := (s.stream st.key).arch
        let n := if imm then count.toNat else (r.reg a).toNat
        (imm = false → r.void a = false ∧ (r.reg a).toNat < 2 ^ 32) →
        exec (.loop st lc imm a count last) s = .next (s.setStream st.key { s.stream st.key with
          arch := if n = 0 then { r with pc := last + 1 }
            else { r with pc := r.pc + 1, lc := r.lc.set lc { count := BitVec.ofNat 32 n, start := r.pc + 1, last := last, active := true } }
          budget := (s.stream st.key).budget + 1, runningRun := false })) ∧
      ErrsOn st (.loop st lc false a count last) (.loop lc false a count last)
        (fun _ x => x.arch.void a = true ∨ 2 ^ 32 ≤ (x.arch.reg a).toNat) 4) ∧
  (∀ r : Arch,
      ((∀ n : Fin 3, ¬(r.lc[n].active = true ∧ r.lc[n].last = r.pc)) → r.retire = { r with pc := r.pc + 1 }) ∧
      ∀ n : Fin 3, r.lc[n].active = true → r.lc[n].last = r.pc →
        (∀ m : Fin 3, m ≠ n → ¬(r.lc[m].active = true ∧ r.lc[m].last = r.pc)) →
        (r.lc[n].count = 1 → r.retire = { r with pc := r.pc + 1, lc := r.lc.set n { r.lc[n] with count := 0, active := false } }) ∧
        (r.lc[n].count ≠ 1 → r.retire = { r with pc := r.lc[n].start, lc := r.lc.set n { r.lc[n] with count := r.lc[n].count - 1 } }))

/-- A port read names one entry: P0 the entry at the ordinal of the piece, an ENTRY port that of the current entry, a BAG port that of
the bag; with none at the end of the piece, or with no current entry, the read gives no entry. A load of P0 makes the entry current and
advances the ordinal; at the end of the piece it leaves the ordinal and no current entry (R86, R87).

LDX: the port's entry, sign-extended when SIGNED and zero-extended otherwise, void by its check when it is all ones or negative;
all ones and void where there is no entry. A load of P0 makes the entry current and advances the ordinal (R86, R87).

LDW: W is formed from the entry as read, from its low 32 bits as F32 or its low 16 as B16 or H16; an absent entry reads as all ones at
the port's width; no void bit changes (R86, R87). -/
def Obligations.PortLoads : Prop :=
  (∀ (s : State) (k : Nat) (j : Job) (env : SEnv) (r : Arch) (p : Fin 4),
      (p = 0 → r.entry < r.entryEnd → portIndex env r p.val = some (r.base + r.entry) ∧
        r.afterLoad p.val = { r with entry := r.entry + 1, cur := some r.entry, k := 0 }) ∧
      (p = 0 → r.entryEnd ≤ r.entry → s.portRead k j env r p.val = (s, .ok none) ∧ r.afterLoad p.val = { r with cur := none }) ∧
      (p ≠ 0 → r.afterLoad p.val = r) ∧
      (p ≠ 0 → portUseOf env.portUse p.val = 1 → ∀ e, r.cur = some e → portIndex env r p.val = some (r.base + e)) ∧
      (p ≠ 0 → portUseOf env.portUse p.val = 1 → r.cur = none → s.portRead k j env r p.val = (s, .ok none)) ∧
      (p ≠ 0 → portUseOf env.portUse p.val = 2 → portIndex env r p.val = some r.bag)) ∧
  (∀ (st : StreamId) (d : Fin 16) (p : Fin 4) (chk : Bool) (s t : State) (j : Job) (env : SEnv) (raw : Option Nat),
      StreamAt s st (.ldx d p chk) j env → NothingDue t → (s.stream st.key).budget + 1 < 65536 → t.streams = s.streams →
      s.portRead st.key j env (s.stream st.key).arch p.val = (t, .ok raw) →
      let x := s.stream st.key
      let n := 8 * (if modeWidth x.arch.mode p.val = 0 then 2 else if modeWidth x.arch.mode p.val = 1 then 4 else 8)
      let sg := modeSigned x.arch.mode p.val
      let r := x.arch.afterLoad p.val
      (∀ e, raw = some e → e < 2 ^ n →
        exec (.ldx st d p chk) s = .next (t.setStream st.key { x with
          arch := (r.put d (if sg = true ∧ 2 ^ (n - 1) ≤ e then BitVec.ofNat 64 (e + (2 ^ 64 - 2 ^ n)) else BitVec.ofNat 64 e)
            (chk && (decide (e = 2 ^ n - 1) || (sg && decide (2 ^ (n - 1) ≤ e))))).retire
          budget := if p = 0 then 0 else x.budget + 1, runningRun := false })) ∧
      (raw = none →
        exec (.ldx st d p chk) s = .next (t.setStream st.key { x with
          arch := (r.put d (BitVec.ofNat 64 (2 ^ 64 - 1)) true).retire, budget := if p = 0 then 0 else x.budget + 1, runningRun := false }))) ∧
  (∀ (st : StreamId) (p : Fin 4) (s t : State) (j : Job) (env : SEnv) (raw : Option Nat),
      StreamAt s st (.ldw p) j env → NothingDue t → (s.stream st.key).budget + 1 < 65536 → t.streams = s.streams →
      s.portRead st.key j env (s.stream st.key).arch p.val = (t, .ok raw) →
      let x := s.stream st.key
      let n := 8 * (if modeWidth x.arch.mode p.val = 0 then 2 else if modeWidth x.arch.mode p.val = 1 then 4 else 8)
      let e := raw.getD (2 ^ n - 1)
      let f := modeWfmt x.arch.mode
      let w : F32 := if f = 0 then BitVec.ofNat 32 e else if f = 1 then BitVec.ofNat 32 (e % 2 ^ 16 * 2 ^ 16) else toF32 .nearest (h16Value e)
      exec (.ldw st p) s = .next (t.setStream st.key { x with
        arch := { x.arch.afterLoad p.val with w := w }.retire, budget := if p = 0 then 0 else x.budget + 1, runningRun := false }))

/-- EMIT sends the reference of row Ga of the selected table at position e × F + k, with W when WEIGHTED, invalid when Va is set or the slot
names no table, and then increments k (R98).

A stream whose reference queue is full holds its sends, and one whose references are held halts at them (R104, R110). -/
def Obligations.EmitSendsOneReference : Prop :=
  (∀ (st : StreamId) (a : Fin 16) (s : State) (j : Job) (env : SEnv) (e : Nat),
      StreamAt s st (.emit a) j env → NothingDue s →
      let x := s.stream st.key
      let r := x.arch
      let slot := env.slots.getD (modeTsel r.mode) none
      x.faulted = false → x.queue.length < 32 → r.cur = some e → r.k ≠ env.fan →
      exec (.emit st a) s = .next ((s.streamWork st.key 1).setStream st.key { x with
        arch := { r with k := r.k + 1 }.retire, budget := 0, runningRun := false
        queue := x.queue ++ [.ref { src := env.src, bag := r.bag, pos := e * env.fan + r.k, table := slot, row := (r.reg a).toNat
                                    weight := if modeWeighted r.mode then r.w else 0x3F800000
                                    valid := !r.void a && slot.isSome, single := true }] })) ∧
  (∀ (st : StreamId) (a : Fin 16) (t : BitVec 6) (s : State) (j : Job) (env : SEnv), NothingDue s →
      let x := s.stream st.key
      (StreamAt s st (.emit a) j env → x.faulted = false → 32 ≤ x.queue.length → exec (.emit st a) s = .next s) ∧
      (StreamAt s st (.bagend t) j env → x.faulted = false → 32 ≤ x.queue.length → exec (.bagend st t) s = .next s) ∧
      (StreamAt s st (.emit a) j env → x.faulted = true → exec (.emit st a) s = .next ((s.setStreamSt st.key .halted).closeWindow st.key)) ∧
      (StreamAt s st (.bagend t) j env → x.faulted = true → exec (.bagend st t) s = .next ((s.setStreamSt st.key .halted).closeWindow st.key)) ∧
      (StreamAt s st (.run a) j env → x.faulted = true → exec (.run st a) s = .next ((s.setStreamSt st.key .halted).closeWindow st.key)))

/-- EMIT with no current entry, or with k already at F, is a program error, detail 2 or 1; MODE with a reserved field or value is detail
5; RUN with WEIGHTED set and P1 not an ENTRY port is detail 7 (R98, R100, R115).

65,536 instructions in a row without a load of P0, a send or a RUN are a program error, detail 3, on every instruction that only computes or
branches (R115). -/
def Obligations.ProgramErrors : Prop :=
  (∀ (st : StreamId) (a : Fin 16),
      ErrsOn st (.emit st a) (.emit a) (fun _ x => x.faulted = false ∧ x.queue.length < 32 ∧ x.arch.cur = none) 2 ∧
      ErrsOn st (.emit st a) (.emit a) (fun env x => x.faulted = false ∧ x.queue.length < 32 ∧ x.arch.cur.isSome = true ∧ x.arch.k = env.fan) 1 ∧
      ErrsOn st (.mode st a) (.mode a) (fun _ x => modeOk ((x.arch.reg a).truncate 32) = false) 5 ∧
      ErrsOn st (.run st a) (.run a)
        (fun env x => x.faulted = false ∧ modeWeighted x.arch.mode = true ∧ portUseOf env.portUse 1 ≠ 1) 7) ∧
  (∀ (st : StreamId) (d a b : Fin 16) (t : BitVec 6),
      ErrsOn st (.add st d a b) (.add d a b) (fun _ x => 65535 ≤ x.budget) 3 ∧
      ErrsOn st (.beq st a b t) (.beq a b t) (fun _ x => 65535 ≤ x.budget) 3 ∧
      ErrsOn st (.len st d) (.len d) (fun _ x => 65535 ≤ x.budget) 3)

/-- BAGEND sends the marker of its bag; with bags left it moves to the next bag, ordinal 0, no current entry, and branches to its target;
at the last bag the work item's stream goes idle. STOP sends the markers of the open bag and of every later bag (R99). -/
def Obligations.BagsClose : Prop :=
  ∀ (st : StreamId) (t : BitVec 6) (s : State) (j : Job) (env : SEnv),
    let x := s.stream st.key
    let r := x.arch
    (StreamAt s st (.bagend t) j env → NothingDue s → x.faulted = false → x.queue.length < 32 → 1 < r.bagsLeft → ∀ it, x.item = some it →
      let r' : Arch := { r with
        bag := r.bag + 1, bagsLeft := r.bagsLeft - 1, entry := 0, cur := none, k := 0, pc := t, base := env.offs.getD (r.bag + 1) 0
        entryEnd := env.offs.getD (r.bag + 2) 0 - env.offs.getD (r.bag + 1) 0 }
      exec (.bagend st t) s = .next (((s.setStream st.key { x with
        arch := r', queue := x.queue ++ [.bagEnd env.src r.bag], budget := 0, runningRun := false }).updItem it
          fun w => { w with pending := some r' }).commitCheckpoints r.cmd)) ∧
    (StreamAt s st (.bagend t) j env → NothingDue s → x.faulted = false → x.queue.length < 32 → r.bagsLeft ≤ 1 →
      exec (.bagend st t) s = .next ((s.setStream st.key { x with
        arch := { r with bagsLeft := 0 }, queue := x.queue ++ [.bagEnd env.src r.bag], budget := 0, st := .idle, runningRun := false }).closeWindow
          st.key)) ∧
    (StreamAt s st .stop j env → NothingDue s → x.budget + 1 < 65536 →
      exec (.stop st) s = .next ((s.setStream st.key { x with
        arch := { r with bagsLeft := 0, bag := r.bag + (r.bagsLeft - 1) }
        queue := x.queue ++ (List.range r.bagsLeft).map fun i => .bagEnd env.src (r.bag + i)
        budget := x.budget + 1, st := .idle, runningRun := false }).closeWindow st.key))

/-- RUN: where no entry is left it retires with no current entry and W = 1.0; for the last entry of a piece, not weighted, it first emits the
reference whose row is the entry extended by P0FMT plus Ga, at k = 0, invalid when Va is set or the entry fails its check (R100). -/
def Obligations.RunEmitsTheRest : Prop :=
  ∀ (st : StreamId) (a : Fin 16) (s : State) (j : Job) (env : SEnv),
    StreamAt s st (.run a) j env → NothingDue s →
    let x := s.stream st.key
    let r := x.arch
    let slot := env.slots.getD (modeTsel r.mode) none
    let n := 8 * (if modeWidth r.mode 0 = 0 then 2 else if modeWidth r.mode 0 = 1 then 4 else 8)
    let sg := modeSigned r.mode 0
    x.faulted = false → modeWeighted r.mode = false →
    (r.entryEnd ≤ r.entry →
      exec (.run st a) s = .next (s.setStream st.key { x with
        arch := { r with cur := none, w := 0x3F800000, pc := r.pc + 1 }, runningRun := false, budget := 0 })) ∧
    (∀ e, r.entry + 1 = r.entryEnd → x.queue.length < 32 → e < 2 ^ n → s.portRead st.key j env r 0 = (s, .ok (some e)) →
      let ref : RowRef :=
        { src := env.src, bag := r.bag, pos := r.entry * env.fan, table := slot
          row := ((if sg = true ∧ 2 ^ (n - 1) ≤ e then BitVec.ofNat 64 (e + (2 ^ 64 - 2 ^ n)) else BitVec.ofNat 64 e) + r.reg a).toNat
          weight := 0x3F800000
          valid := !r.void a && slot.isSome && !(decide (e = 2 ^ n - 1) || (sg && decide (2 ^ (n - 1) ≤ e))), single := false }
      ∃ t, exec (.run st a) s = .next t ∧
        t.stream st.key = { x with
          arch := { r with entry := r.entryEnd, cur := none, w := 0x3F800000, pc := r.pc + 1 }
          queue := x.queue ++ [.ref ref], runningRun := false, budget := 0 } ∧
        t.jobs = s.jobs ∧ t.mem = s.mem ∧ t.items = s.items ∧ t.ctr 1 st.key 11 = satAdd (2 ^ 64 - 1) (s.ctr 1 st.key 11) 1)

/-- MODE takes Ga's low 32 bits as the mode word when they are legal, and MODET the table selection alone; no register changes (R84, R108).

PREF has no result and no position: the stream only goes on; and it is discarded, the row cache untouched, when Va is set, when the
slot names no table, or while the stream's references are held (R98, R101, R110). -/
def Obligations.ModeWordsAndPrefetch : Prop :=
  (∀ (st : StreamId) (a : Fin 16) (tsel : BitVec 2),
      (∀ s j env, StreamAt s st (.mode a) j env → NothingDue s → (s.stream st.key).budget + 1 < 65536 →
        let x := s.stream st.key
        let m := (x.arch.reg a).truncate 32
        modeOk m = true → (∀ p : Fin 4, modeWidth m p.val = modeWidth x.arch.mode p.val) →
        exec (.mode st a) s = .next (s.setStream st.key { x with
          arch := { x.arch with mode := m }.retire, budget := x.budget + 1, runningRun := false })) ∧
      Computes st (.modet st tsel) (.modet tsel)
        (fun _ r => { r with mode := (r.mode &&& ~~~(0x0C000000 : BitVec 32)) ||| (tsel.zeroExtend 32 <<< 26) })) ∧
  (∀ (st : StreamId) (a : Fin 16) (s : State) (j : Job) (env : SEnv),
      StreamAt s st (.pref a) j env → NothingDue s → (s.stream st.key).budget + 1 < 65536 →
      let x := s.stream st.key
      (x.faulted = true ∨ x.arch.void a = true ∨ env.slots.getD (modeTsel x.arch.mode) none = none) →
      exec (.pref st a) s = .next (s.setStream st.key { x with arch := x.arch.retire, budget := x.budget + 1, runningRun := false }))

/-! ## Resets, boot and power -/

/-- RESET_N clears the block to its reset state and keeps fuses, memory, the levels at the shed pins, the waiting commands and the free values
taken, and whether the engine comes back from a fence (log entry 62); its release starts the time base, and the filters of the shed pins, at 0
(R398, R404, R417, R439). -/
def Obligations.ColdReset : Prop :=
  ∀ s : State,
    exec .resetN s = .next { State.reset with pending := s.pending, fresh := s.fresh, mem := s.mem, poison := s.poison, fuses := s.fuses,
                                                   pw := { rawA := s.pw.rawA, rawB := s.pw.rawB }, fab := { rejoin := s.err.fenced || s.fab.rejoin } } ∧
    (s.boot.held = true → exec .resetNRelease s =
      .next { s with time := 0, boot := { s.boot with held := false }, pw := { s.pw with changedA := 0, changedB := 0 } }) ∧
    (s.boot.held = false → exec .resetNRelease s = .next s)

/-- The boot sequence of R404 in order: each stage's event moves the block to the next stage and changes what the table says; an image that
fails its checks, whose cryptographic part is open, makes the boot try copy B, or stops it (R402, R407). -/
def Obligations.BootSequence : Prop :=
  ∀ (s : State) (copyB : Bool) (img : List Byte), s.alive = true →
    (s.boot.stage = 0 → s.boot.ctlLocked = false →
      exec .ctlPllLock s = .next { s with boot := { s.boot with ctlLocked := true, stage := 1, since := s.time } }) ∧
    (s.boot.stage = 1 → s.boot.triedA = copyB →
      ∃ t, exec (.plinthImageReadDone copyB true img) s = .next t ∧ t.fuses = s.fuses ∧ t.mem = s.mem ∧
        if imgPasses s.fuses 1 img then
          t.boot.stage = 2 ∧ t.boot.since = s.time ∧ t.boot.plinthCopyB = copyB ∧ t.boot.plinth = some (runningImage img) ∧ t.err.beatPlinth = s.time
        else if copyB then t.boot.stage = 6 ∧ t.boot.fail = imgFailCode s.fuses 1 img
        else t.boot = { s.boot with triedA := true }) ∧
    (s.boot.stage = 2 → s.boot.coreLocked = false →
      exec .coreCachePllLock s = .next { s with boot := { s.boot with coreLocked := true, stage := 3, since := s.time }
                                                clocks := (s.clocks.run .core s.time).run .cache s.time
                                                rc := { s.rc with scrubbing := true } }) ∧
    (s.rc.scrubbing = true →
      ∃ t, exec .bootScrubEnd s = .next t ∧ t.rc.ways = [] ∧ t.rc.plru = [] ∧ t.rc.scrubbing = false ∧ t.boot = s.boot ∧ t.mem = s.mem ∧
        ∀ g : Fin 16, t.rc.lfsr.get g = lfsrLoad s.lfsrSeed g.val) ∧
    (s.boot.stage = 3 → s.rc.scrubbing = false → s.boot.triedA = copyB →
      ∃ t, exec (.armatureImageReadDone copyB true img) s = .next t ∧ t.fuses = s.fuses ∧ t.mem = s.mem ∧
        if imgPasses s.fuses 2 img then
          t.boot.stage = 4 ∧ t.boot.armCopyB = copyB ∧ t.boot.ccReleased = true ∧ t.boot.arm = some (runningImage img) ∧
          t.err.beatCc = Vector.replicate 4 s.time ∧ t.fabqs = s.fabqs ++ [{ ctx := 4095, queue := 0, next := 0 }] ∧
          t.contexts = sinsert s.contexts 4095 { part := 63, rights := 0x3F, timeoutMs := 10000, maxQueues := 64, srcMask := 0, resident := true }
        else if copyB then t.boot.stage = 6 ∧ t.boot.fail = 0x05
        else t.boot = { s.boot with triedA := true }) ∧
    (∀ capBad fabBad : BitVec 8, s.boot.stage = 4 → s.boot.memLocked = false →
      ∃ t, exec (.memCapFabPllLock capBad fabBad) s = .next t ∧ t.boot = { s.boot with memLocked := true } ∧
        (∀ p : Fin 8, (t.cap.get p).noPll = bitOf capBad.toNat p.val) ∧ (∀ p : Fin 8, (t.fport p).noPll = bitOf fabBad.toNat p.val)) ∧
    (s.boot.stage = 4 → s.boot.memLocked = true → s.boot.poolReady = false →
      exec .poolReady s = .next { s with boot := { s.boot with poolReady := true } }) ∧
    (s.boot.stage = 4 → s.boot.poolReady = true →
      exec .ready s = .next { s with
        boot := { s.boot with stage := 5, since := s.time, readyUs := sat16 (s.time / 1000) }
        fuses := { s.fuses with
          plinthSvn := match s.boot.plinth with
            | some r => if r.commit then max s.fuses.plinthSvn r.svn else s.fuses.plinthSvn
            | none => s.fuses.plinthSvn
          armSvn := match s.boot.arm with
            | some r => if r.commit then max s.fuses.armSvn r.svn else s.fuses.armSvn
            | none => s.fuses.armSvn } })

/-- A boot that cannot complete stops: the failure code is that of its cause, and every fabric port is DOWN with EN clear (R407). -/
def Obligations.BootFailures : Prop :=
  ∀ (s : State) (img : List Byte) (copyB : Bool), s.alive = true →
    let stops := fun (c : Instr) (code : Nat) => ∃ t, exec c s = .next t ∧ t.boot.stage = 6 ∧ t.boot.fail = code ∧ t.mem = s.mem ∧
      ∀ p : Fin 8, (t.fport p).en = false ∧ (t.fport p).st = .down
    (s.boot.stage = 1 → s.boot.triedA = copyB → stops (.plinthImageReadDone copyB false img) 0x04) ∧
    (s.boot.stage = 3 → s.rc.scrubbing = false → s.boot.triedA = copyB → stops (.armatureImageReadDone copyB false img) 0x04) ∧
    (s.boot.stage < 5 → s.boot.poolReady = false → 50000000 ≤ s.time → stops (.bootTimeout .poolReady) 0x06) ∧
    (s.boot.stage < 5 → 60000000 + s.boot.extraNs ≤ s.time → stops (.bootTimeout .ready) 0x08) ∧
    (s.boot.stage = 0 → s.boot.ctlLocked = false → s.boot.since + 1000000 ≤ s.time → stops (.bootTimeout .pllLock) 0x07) ∧
    (s.boot.stage = 1 → stops (.bootTimeout .flashRead) 0x04)

/-- SET_ENVELOPE: a level of lower power, or the level already reached, is taken at once and the command completes with the levels in VALUE0;
a level of higher power starts the steps, or joins those that run; during shed the level is kept, the effective one stays, and the command
completes (R415, R419).

ENVELOPE_STEP: 50 µs after the step before, the effective level moves one level; the last step ends the rise and the command that asked for
it (R415).

The shed input: a raw level waits 1 µs before it is taken; both channels asserted qualify shed, with the effective level at 15 and its
time noted; both clear release it into the hold; a disagreement starts its timer, and after DISC_US counts as shed; the hold's end starts
the rise (R417 to R420). Each of these acts behind a fence as well. -/
def Obligations.PowerLevels : Prop :=
  (∀ (s : State) (c : CmdId) (j : Job) (n : Nat), ReadyOp s c j opSetEnvelope → n = bitsOf (pktOparam j.pkt) 3 0 → s.pw.cmd = none →
      let ends := fun (p : Power) (v : Nat) =>
        EndsAs (.setEnvelope c) s ((({ s.begin c with pw := p } : State).updJob c fun j => { j with value0 := v }).complete c) { s.kept with pw := p }
      let waits := fun (p : Power) => EndsAs (.setEnvelope c) s { s.begin c with pw := p } { s.kept with pw := p }
      (s.pw.shed = true → ends { s.pw with commanded := n, cmd := none } (s.pw.effective + 16 * n + 256)) ∧
      (s.pw.shed = false → s.pw.effective ≤ n →
        ends { s.pw with commanded := n, effective := n, ramping := false, cmd := none } (n + 16 * n)) ∧
      (s.pw.shed = false → n < s.pw.effective → s.pw.hold = false → s.pw.ramping = false →
        waits { s.pw with commanded := n, ramping := true, lastStep := s.time, cmd := some c }) ∧
      (s.pw.shed = false → n < s.pw.effective → (s.pw.hold = true ∨ s.pw.ramping = true) → waits { s.pw with commanded := n, cmd := some c })) ∧
  (∀ s : State, s.boot.held = false → s.pw.ramping = true → s.pw.shed = false → s.pw.hold = false → s.pw.lastStep + 50000 ≤ s.time →
      let e := s.pw.effective - 1
      ((s.pw.cmd = none ∨ s.pw.commanded < e) → ∃ t, exec .envelopeStep s = .next t ∧
        t.kept = { s.kept with pw := { s.pw with effective := e, lastStep := s.pw.lastStep + 50000, ramping := decide (s.pw.commanded < e) } }) ∧
      (∀ c, s.pw.cmd = some c → e ≤ s.pw.commanded → (s.items.all fun w => w.cmd != c) = true → ∃ t, exec .envelopeStep s = .next t ∧
        t.kept = { s.kept with pw := { s.pw with effective := e, lastStep := s.pw.lastStep + 50000, ramping := false, cmd := none } })) ∧
  (∀ (s : State) (b level : Bool), s.boot.held = false →
      (exec (.shedInputChange b level) s = .next { s with pw :=
        if b then { s.pw with rawB := level, changedB := s.time } else { s.pw with rawA := level, changedA := s.time } }) ∧
      (s.time < s.pw.changedA + 1000 → exec (.shedFilterStable false) s = .next s) ∧
      (s.pw.changedA + 1000 ≤ s.time → s.pw.rawA = true → s.pw.filtB = true → s.pw.disagreeSince = none → s.pw.shed = false →
        ∃ t, exec (.shedFilterStable false) s = .next t ∧ t.kept = { s.kept with pw := { s.pw with
          filtA := true, takenA := true, discDone := false, shed := true, effective := 15, ramping := false, hold := false, shedTime := s.time } }) ∧
      (s.pw.changedB + 1000 ≤ s.time → s.pw.rawB = false → s.pw.filtA = false → s.pw.disagreeSince = none → s.pw.shed = true →
        exec (.shedFilterStable true) s = .next { s with pw := { s.pw with
          filtB := false, takenB := true, discDone := false, shed := false, hold := true, releasedAt := s.time } }) ∧
      (s.pw.changedA + 1000 ≤ s.time → s.pw.rawA = true → s.pw.filtB = false → s.pw.disagreeSince = none →
        exec (.shedFilterStable false) s = .next { s with pw := { s.pw with
          filtA := true, takenA := true, disagreeSince := some s.time, discDone := false } }) ∧
      (∀ since, s.pw.disagreeSince = some since → since + s.discUs * 1000 ≤ s.time → s.pw.discDone = false → s.pw.shed = false →
        ∃ t, exec .discFault s = .next t ∧ t.kept = { s.kept with pw := { s.pw with
          discDone := true, discFault := true, shed := true, effective := 15, ramping := false, hold := false, shedTime := s.time } }) ∧
      (s.pw.hold = true → s.pw.releasedAt + s.holdMs * 1000000 ≤ s.time → s.pw.commanded < s.pw.effective →
        exec .releaseHoldEnd s = .next { s with pw := { s.pw with hold := false, ramping := true, lastStep := s.time } }))

/-! ## Commands of contexts, queues and memory management -/

/-- NOP completes; CONTEXT_CREATE adds the context of its descriptor and clears its counters; CONTEXT_DELETE of a context with no other
command in progress removes it and its queues, and otherwise marks it and waits; and Plinth refuses a request whose right has gone, a context
that is there already, or one that is not there to delete, as PROTECTION with reason 0x52 (R343, R353, R362, R364, R409, R444). -/
def Obligations.ContextCommands : Prop :=
  ∀ (s : State) (c : CmdId) (j : Job),
    let b := j.block
    let u := s.begin c
    let ctx := field b 0 2
    let new : Context :=
      { part := field b 2 1, rights := BitVec.ofNat 8 (field b 3 1), rgroups := (List.range 8).map fun i => field b (4 + i) 1
        timeoutMs := field b 12 2, srcMask := field b 14 2, srcNode := field b 16 2, maxQueues := field b 18 1 }
    let refused := u.complete c stProtection (reason 0x52)
    let delete := ReadySub s c j subContextDelete ∧ ctx < 2 ^ 12 ∧ zeroRange b 2 6 = true
    (ReadyOp s c j opNop → EndsAs (.nop c) s (u.complete c) s.kept) ∧
    (ReadySub s c j subContextCreate → firstBroken (contextRules b) = none → s.allowed j = true → s.context? ctx = none →
      EndsAs (.contextCreate c) s (((u.clearCounters 2 ctx).setContext ctx new).complete c) { s.kept with contexts := sinsert s.contexts ctx new }) ∧
    (ReadySub s c j subContextCreate → firstBroken (contextRules b) = none → (s.allowed j = false ∨ (s.context? ctx).isSome = true) →
      EndsAs (.contextCreate c) s refused s.kept) ∧
    (delete → s.allowed j = true → (s.context? ctx).isSome = true → (s.jobs.all fun k => k.id.ctx != ctx || k.id == c) = true →
      ∃ t : State, exec (.contextDelete c) s = .next t.settle ∧ t.settle.kept = { s.kept with
        contexts := s.contexts.filter fun e => e.1 ≠ ctx
        rings := s.kept.rings.filter fun e => e.2.1 ≠ ctx
        fabqs := s.fabqs.filter fun q => q.ctx ≠ ctx }) ∧
    (∀ x, delete → s.allowed j = true → s.context? ctx = some x → (s.jobs.any fun k => k.id.ctx == ctx && k.id != c) = true →
      EndsAs (.contextDelete c) s ((u.setContext ctx { x with deleting := true }).await c)
        { s.kept with contexts := sinsert s.contexts ctx { x with deleting := true } }) ∧
    (delete → (s.allowed j = false ∨ s.context? ctx = none) → EndsAs (.contextDelete c) s refused s.kept)

/-- QUEUE_CREATE adds a fabric queue at its FIRST_SEQ, or a ring of its descriptor under a doorbell index that no other ring has, which its reply
carries; QUEUE_DELETE with no other command of the queue in progress removes it, ring or fabric queue, and otherwise marks it and waits; one
queue more than MAX_QUEUES is refused for capacity (R332, R333, R353). -/
def Obligations.QueueCommands : Prop :=
  ∀ (s : State) (c : CmdId) (j : Job),
    let b := j.block
    let ctx := field b 0 2
    let q := field b 2 1
    let u := s.begin c
    let ring : Ring :=
      { ctx := ctx, queue := q, log2Entries := field b 4 1, log2Slot := field b 5 1, sqBase := field b 16 8, cqBase := field b 24 8
        firstSeq := field b 8 4 }
    let create := ReadySub s c j subQueueCreate ∧ firstBroken (queueRules b) = none ∧ u.queueExists ctx q = false
    let delete := ReadySub s c j subQueueDelete ∧ ctx < 2 ^ 12 ∧ q < 64 ∧ zeroRange b 3 5 = true
    let mine := fun (a d : Nat) => a == ctx && d == q
    (∀ x, create → s.context? ctx = some x → u.queueCount ctx < x.maxQueues → field b 3 1 = 1 → s.fabqs.length < 16384 →
      EndsAs (.queueCreate c) s (({ u with fabqs := u.fabqs ++ [{ ctx := ctx, queue := q, next := field b 8 4 }] } : State).complete c)
        { s.kept with fabqs := s.fabqs ++ [{ ctx := ctx, queue := q, next := field b 8 4 }] }) ∧
    (∀ x, create → s.context? ctx = some x → u.queueCount ctx < x.maxQueues → field b 3 1 = 0 → u.rings.length < 16384 →
      ∃ i, i < 16384 ∧ i ∉ u.rings.map (·.1) ∧
        EndsAs (.queueCreate c) s ((({ u.took with rings := sinsert u.rings i ring } : State).updJob c fun j => { j with value0 := i }).complete c)
          { s.kept with rings := (sinsert u.rings i ring).map fun e => (e.1, e.2.ctx, e.2.queue) }) ∧
    (∀ x, create → s.context? ctx = some x → x.maxQueues ≤ u.queueCount ctx →
      EndsAs (.queueCreate c) s
        (u.complete c stCapacity { reason := 0x62, object := j.handlerObject, index := 0x8002, value := u.queueCount ctx + 1, limit := x.maxQueues })
        s.kept) ∧
    (delete → (s.jobs.all fun k => !(k.id.ctx == ctx && k.id.queue == q) || k.id == c) = true →
      ∃ t : State, exec (.queueDelete c) s = .next t.settle ∧ t.settle.kept = { s.kept with
        rings := s.kept.rings.filter fun e => !mine e.2.1 e.2.2, fabqs := s.fabqs.filter fun x => !mine x.ctx x.queue }) ∧
    (delete → (s.jobs.any fun k => k.id.ctx == ctx && k.id.queue == q && k.id != c) = true →
      EndsAs (.queueDelete c) s (({ u with
          rings := u.rings.map (fun (e : Nat × Ring) => if mine e.2.ctx e.2.queue then (e.1, { e.2 with deleting := true }) else e)
          fabqs := u.fabqs.map (fun (x : FabQueue) => if mine x.ctx x.queue then { x with deleting := true } else x) } : State).await c)
        { s.kept with fabqs := s.fabqs.map fun x => if mine x.ctx x.queue then { x with deleting := true } else x })

/-- GRANT writes FRAMES consecutive entries, owner and read group, into Plinth's table (R308, R353); MAP_SEGMENT writes a segment of a context that
is there and locks the quadrant count, invalidates first a valid segment that it changes, and is refused as PROTECTION, reason 0x52, for a
context that is not there (R291, R310, R366, R409).

EXPANDER presents an expander's register, POOL_SHARE sets the share that plans may declare, and ARM_WEIGHTS arms a bound weight set (R222,
R305, R353).

ATTEST: the request is read in the command's context, and Plinth's response to it, as `State.spdm` forms it, is written where it fits the area, with
its length in VALUE0, and refused with reason 0x46 where it does not (R411, R412). -/
def Obligations.ConfigurationCommands : Prop :=
  (∀ (s : State) (c : CmdId) (j : Job),
      let b := j.block
      let u := s.begin c
      (ReadySub s c j subGrant → field b 0 4 + field b 4 4 ≤ 8912896 → field b 8 2 < 2 ^ 12 → zeroRange b 11 5 = true → s.allowed j = true →
        ∃ t : State, exec (.grant c) s = .next t.settle ∧
          t.settle.grants = foldN (field b 4 4) s.grants (fun g k => sput 0 g (field b 0 4 + k) (field b 8 2 + field b 10 1 * 2 ^ 12)) ∧
          t.settle.contexts = s.contexts ∧ t.settle.regs = s.regs ∧ t.settle.plans = s.plans ∧ t.settle.streams = s.streams ∧
          t.settle.items = s.items ∧ t.settle.boot = s.boot) ∧
      (∀ x, ReadyOp s c j opMapSegment → s.allowed j = true →
        let ctx := pktCount j.pkt
        let i := bitsOf (pktOparam j.pkt) 3 0
        let old := x.segs.toList.getD i {}
        let y : Context := { x with segs := x.segs.setIfInBounds i (segmentOf b) }
        let v : State := { u.setContext ctx y with qlocked := true }
        let w := v.invalidateScope { ctx := ctx, seg := some i }
        s.context? ctx = some x → firstBroken (segmentRules b ((x.segs.toList.zipIdx.filter fun e => e.2 ≠ i).map (·.1))) = none →
        ((old.valid = false ∨ old = segmentOf b) →
          EndsAs (.mapSegment c) s (v.complete c) { s.kept with contexts := sinsert s.contexts ctx y, qlocked := true }) ∧
        (old.valid = true → old ≠ segmentOf b → w.ctxBusy c ctx = false → exec (.mapSegment c) s = .next (w.complete c).settle) ∧
        (old.valid = true → old ≠ segmentOf b → w.ctxBusy c ctx = true → exec (.mapSegment c) s = .next (w.await c).settle)) ∧
      (ReadyOp s c j opMapSegment → firstBroken (segmentRules b []) = none → s.context? (pktCount j.pkt) = none →
        EndsAs (.mapSegment c) s (u.complete c stProtection (reason 0x52)) s.kept)) ∧
  (∀ (s : State) (c : CmdId) (j : Job),
      let b := j.block
      let reg := (s.begin c).setReg (0x90000 + 4 * field b 0 1) (BitVec.ofNat 32 (2 ^ 31 + field b 2 2))
      (ReadySub s c j subExpander → field b 0 1 ≤ 15 → field b 1 1 = 0 → field b 2 2 ≤ 1024 → zeroRange b 4 4 = true →
        EndsAs (.expander c) s ((reg.noteExp (field b 0 1)).complete c) { s.kept with regs := reg.regs }) ∧
      (ReadySub s c j subPoolShare →
        EndsAs (.poolShare c) s (({ s.begin c with poolShare := field b 0 8 } : State).complete c) { s.kept with poolShare := field b 0 8 }) ∧
      (∀ w, ReadySub s c j subArmWeights → s.wset? (field b 0 2) = some w → w.bound = true → zeroRange b 2 6 = true →
        EndsAs (.armWeights c) s (((s.begin c).updWset (field b 0 2) fun w => { w with armed := true }).complete c)
          { s.kept with wsets := s.wsets.map fun e => if e.1 = field b 0 2 then (e.1, { e.2 with armed := true }) else e })) ∧
  (∀ (s : State) (c : CmdId) (j : Job) (t : State) (req : List Byte),
      let b := j.block
      let u := s.begin c
      let rsp := t.spdm req
      ReadySub s c j subAttest → zeroRange b 12 4 = true → s.allowed j = true →
      u.readVa c (u.cmdSpace c) (u.whoJob c) (field b 0 8) (field b 8 2) = (t, .ok req) →
      (field b 10 2 < rsp.length → exec (.attest c) s =
        .next (t.took.complete c stMalformed { reason := 0x46, object := j.handlerObject, index := 0x800A, value := rsp.length }).settle) ∧
      (rsp.length ≤ field b 10 2 → exec (.attest c) s =
        .next (((t.took.updJob c fun j => { j with value0 := rsp.length }).writeVa c (t.took.cmdSpace c) (field b 16 8) rsp).complete c).settle))

/-- INVALIDATE without a flush completes once no access of the context is in flight, and waits until then; and after a scope is invalidated no TLB
of either level holds a translation in it, while every other translation stays (R322). -/
def Obligations.InvalidationRemovesTheScope : Prop :=
  (∀ (s : State) (c : CmdId) (j : Job), ReadyOp s c j opInvalidate →
    let ctx := pktCount j.pkt
    let scope := bitsOf (pktOparam j.pkt) 1 0
    let x : Scope := { ctx := ctx, seg := if scope = 1 then some (bitsOf (pktOparam j.pkt) 5 2) else none
                       range := if scope = 0 then some (field j.block 0 8, field j.block 8 8) else none }
    let u := (s.begin c).invalidateScope x
    pktOparam j.pkt < 2 ^ 6 → scope ≠ 3 →
    (u.ctxBusy c ctx = false → exec (.invalidate c) s = .next (u.complete c).settle) ∧
    (u.ctxBusy c ctx = true → exec (.invalidate c) s = .next (u.await c).settle)) ∧
  ∀ (s : State) (x : Scope) (e : TlbEntry),
    let inScope := x.covers e.ctx e.seg (s.segAt e.ctx e.seg) e.page (2 ^ e.runLog2)
    ((∃ k l, (k, l) ∈ (s.invalidateScope x).tlb2 ∧ e ∈ l) ↔ (∃ k l, (k, l) ∈ s.tlb2 ∧ e ∈ l) ∧ inScope = false) ∧
      ((∃ k y, (k, y) ∈ (s.invalidateScope x).slices ∧ e ∈ y.tlb) ↔ (∃ k y, (k, y) ∈ s.slices ∧ e ∈ y.tlb) ∧ inScope = false)

/-- The handlers' refusals: a command whose block breaks a rule changes nothing that it names and completes as MALFORMED with reason 0x47, the
opcode and sub-op, and the first field broken with the value found (R477). -/
def Obligations.HandlersRefuse : Prop :=
  ∀ (s : State) (c : CmdId) (j : Job) (r : FieldRule),
    let bad := (s.begin c).complete c stMalformed
      { reason := 0x47, object := pktOpcode j.pkt + (if pktOpcode j.pkt = opConfig then 256 * (pktOparam j.pkt % 256) else 0), index := r.index, value := r.value }
    let b := j.block
    (ReadySub s c j subContextCreate → firstBroken (contextRules b) = some r → EndsAs (.contextCreate c) s bad s.kept) ∧
    (ReadySub s c j subContextDelete → 2 ^ 12 ≤ field b 0 2 → r = ⟨false, 0x8000, field b 0 2⟩ → EndsAs (.contextDelete c) s bad s.kept) ∧
    (ReadySub s c j subQueueCreate → firstBroken (queueRules b) = some r → EndsAs (.queueCreate c) s bad s.kept) ∧
    (ReadySub s c j subQueueCreate → firstBroken (queueRules b) = none → s.context? (field b 0 2) = none → r = ⟨false, 0x8000, field b 0 2⟩ →
      EndsAs (.queueCreate c) s bad s.kept) ∧
    (ReadySub s c j subGrant → 8912896 < field b 0 4 + field b 4 4 → r = ⟨false, 0x8004, field b 4 4⟩ → EndsAs (.grant c) s bad s.kept) ∧
    (ReadySub s c j subExpander → 15 < field b 0 1 → r = ⟨false, 0x8000, field b 0 1⟩ → EndsAs (.expander c) s bad s.kept) ∧
    (ReadySub s c j subPort → 8 ≤ field b 0 1 → r = ⟨false, 0x8000, field b 0 1⟩ → EndsAs (.port c) s bad s.kept) ∧
    (ReadyOp s c j opJoin → firstBroken (joinRules b) = some r → EndsAs (.join c) s bad s.kept) ∧
    (ReadyOp s c j opTraceCtl → firstBroken (traceRules b) = some r → EndsAs (.traceCtl c) s bad s.kept)

/-- A doorbell write sets a ring's TAIL and CHEAD when they keep R335; one that breaks it puts the queue in error, named in CQ_QERR; a queue
in error takes no doorbell (R335, R336).

PACKET_FETCHED: the slot's packet is read, counted as fetched, and goes to the parser, accepted only where its CTX and QUEUE are the ring's;
a slot whose PLEN does not fit, or whose bytes cannot be read, puts the queue in error, and one whose bytes wait for a fault is fetched later
(R319, R334, R336, R363). -/
def Obligations.PacketsReachTheParser : Prop :=
  (∀ (s : State) (r : Requester) (i : Fin 16384) (tail chead : BitVec 16) (q : Ring),
      let n := 2 ^ q.log2Entries
      let f := q.fetched % 2 ^ 16
      let ok := n = 2 ^ 16 ∨ ((tail.toNat + 2 ^ 16 - f) % 2 ^ 16 < n ∧ (tail.toNat + 2 ^ 16 - chead.toNat) % 2 ^ 16 < n)
      let u := s.updRing i.val fun q => { q with writer := some r }
      Written s (doorbellOff i.val) r → s.ring? i.val = some q → (q.writer = none ∨ q.writer = some r) → q.log2Entries ≤ 16 →
      (q.err = false → ok →
        exec (.cqDb r i tail chead) s = .next (u.updRing i.val fun q => { q with tail := tail.toNat, chead := chead.toNat }).settle) ∧
      (q.err = false → ¬ok → exec (.cqDb r i tail chead) s = .next (u.queueError i.val q.ctx).settle) ∧
      (q.err = true → exec (.cqDb r i tail chead) s = .next u.settle)) ∧
  (∀ (s t : State) (i : Fin 16384) (q : Ring) (r : Rd),
      s.alive = true → s.isReady = true → s.ring? i.val = some q → q.canFetch = true → s.faultWait (.fetchQueue i.val) = false →
      s.readSlot i.val q (q.sqBase + (q.fetched % 2 ^ q.log2Entries) * 2 ^ q.log2Slot) (2 ^ q.log2Slot) = (t, r) →
      (∀ bs x, r = .ok bs → pktPlen bs ≤ 2 ^ q.log2Slot - 64 → t.context? q.ctx = some x →
        let p := bs.take (64 + pktPlen bs)
        exec (.packetFetched i) s = .next ((t.updRing i.val fun q => { q with fetched := q.fetched + 1 }).accept ⟨q.ctx, q.queue, pktSeq p⟩ p
          (.ring i.val) (pktCtx p == q.ctx && pktQueue p == q.queue && !q.deleting && !x.deleting)).settle) ∧
      (∀ bs, r = .ok bs → 2 ^ q.log2Slot - 64 < pktPlen bs → exec (.packetFetched i) s = .next (t.queueError i.val q.ctx).settle) ∧
      (∀ a, r = .bad a → exec (.packetFetched i) s = .next (t.queueError i.val q.ctx).settle) ∧
      (∀ st d, r = .stop st d → exec (.packetFetched i) s = .next (t.queueError i.val q.ctx).settle) ∧
      (r = .wait → exec (.packetFetched i) s = .next t.settle))

/-! ## Plans, gathers, scatters, steps and projections -/

/-- LOAD_PLAN with no earlier one in progress: a header or section that breaks a rule refuses the plan; an admitted one with CHECK_ONLY set
completes with its handle and its widest window bound, nothing installed; and one without it is installed whole first (R357, R365, R369).

UNLOAD_PLAN: a plan that no other command names, its sets OPEN or TORN, goes with every object that it defined, once its sketches are whole in
memory; a handle that names none completes; and while the plan is in use the command waits and the plan stays (R74, R91, R370). -/
def Obligations.PlansLoadAndUnload : Prop :=
  (∀ (s : State) (c : CmdId) (j : Job) (h im : List Byte) (ws : List (Nat × Nat)), ReadyOp s c j opLoadPlan →
      let u := s.begin c
      let a := u.readOperand c j.pkt (pktD0 j.pkt) 0 64
      let b := a.1.readOperand c j.pkt (pktD0 j.pkt) 0 (field h 4 4)
      let p := planImg im c.ctx
      let reply := fun (s : State) => (s.updJob c fun j => { j with value0 := p.plan, value1 := (ws.map (·.2)).foldl Nat.max 0 }).complete c
      (u.jobs.any fun k => pktOpcode k.pkt == opLoadPlan && k.parsed && k.phase != .finishing && decide (k.order < j.order)) = false →
      a.2 = .ok h →
      (∀ r, headerCheck h (pktHandle j.pkt) (inlineLen (pktD0 j.pkt)) = some r →
        EndsAs (.loadPlan c) s (a.1.complete c r.1 r.2) (a.1.complete c r.1 r.2).settle.kept) ∧
      (headerCheck h (pktHandle j.pkt) (inlineLen (pktD0 j.pkt)) = none → b.2 = .ok im →
        (∀ r, sectionCheck im = some r → exec (.loadPlan c) s = .next (b.1.complete c r.1 r.2).settle) ∧
        (sectionCheck im = none → ∀ r, b.1.admitPlan p = (some r, ws) → exec (.loadPlan c) s = .next (b.1.complete c r.1 r.2).settle) ∧
        (sectionCheck im = none → b.1.admitPlan p = (none, ws) → flCheckOnly j.pkt = true → exec (.loadPlan c) s = .next (reply b.1).settle) ∧
        (sectionCheck im = none → b.1.admitPlan p = (none, ws) → flCheckOnly j.pkt = false → ((installPlan c p ws).whole b.1).2 = .ok () →
          exec (.loadPlan c) s = .next (reply ((installPlan c p ws).whole b.1).1).settle))) ∧
  (∀ (s : State) (c : CmdId) (j : Job), ReadyOp s c j opUnloadPlan →
      let u := s.begin c
      (u.plan? (pktHandle j.pkt) = none → EndsAs (.unloadPlan c) s (u.complete c) s.kept) ∧
      (∀ p v, u.plan? (pktHandle j.pkt) = some p → (u.jobs.any fun k => decide (k.id ≠ c) && u.usesPlan p k) = false → u.setsIdle p = true →
        (u.flushPlan c p = (v, true) →
          exec (.unloadPlan c) s = .next ((v.removePlan p).complete c).settle ∧
          (v.removePlan p).plans = v.plans.filter (fun q => q.handle ≠ p.handle) ∧
          (v.removePlan p).tables = v.tables.filter (fun e => !p.tables.contains e.1) ∧
          (v.removePlan p).images = v.images.filter (fun e => !p.images.contains e.1) ∧
          (v.removePlan p).wsets = v.wsets.filter (fun e => !p.wsets.contains e.1) ∧
          (∀ e ∈ (v.removePlan p).tsets, p.tsets.contains e.1 = false) ∧
          (v.removePlan p).streams = v.streams ∧ (v.removePlan p).contexts = v.contexts ∧ (v.removePlan p).mem = v.mem) ∧
        (u.flushPlan c p = (v, false) → exec (.unloadPlan c) s = .next (v.await c).settle)) ∧
      (∀ p, u.plan? (pktHandle j.pkt) = some p → (u.jobs.any fun k => decide (k.id ≠ c) && u.usesPlan p k) = true →
        EndsAs (.unloadPlan c) s (u.await c) s.kept) ∧
      (∀ p, u.plan? (pktHandle j.pkt) = some p → u.setsIdle p = false → EndsAs (.unloadPlan c) s (u.await c) s.kept))

/-- Whether a command that reads table sets may begin: not, and it is to end, when one of them is TORN; not while one of them is past PENDING,
but for a command accepted before its DRAINING began, or has not reached the minimum epoch that the command names for it; not while one of
them has sixteen readers; otherwise it may (R187, R192, R197, R199, R200, R204, R215). -/
def Obligations.ReadersGate : Prop :=
  ∀ (s : State) (j : Job) (sets : List Nat), s.nextSets j = some sets →
    let awaits := fun (h : Nat) => j.epochs = [] ∧ ∃ e ∈ s.minEpochs j, e.1 = h ∧ epochReached (s.epochOf h) e.2 = false
    let lets := fun (h : Nat) =>
      (s.setState h = .opened ∨ s.setState h = .pending ∨ (s.setState h = .draining ∧ h ∈ j.promised)) ∧ ¬awaits h
    ((∃ h ∈ sets, s.setState h = .torn) → s.gate j = .torn) ∧
    ((∀ h ∈ sets, s.setState h ≠ .torn) → (∃ h ∈ sets, ¬lets h) → s.gate j = .held) ∧
    ((∀ h ∈ sets, lets h) → (∃ h ∈ sets, 16 ≤ (s.reading h).length) → s.gate j = .full) ∧
    ((∀ h ∈ sets, lets h) → (∀ h ∈ sets, (s.reading h).length < 16) → s.gate j = .go)

/-- GATHER and GATHER_SEQ are cut into work items, which wait in the intake; the first of them that is dealt begins the command, at the epochs in
force, and a torn set ends it as ABORTED_FAULT (R118, R192, R198, R215). SNAPSHOT begins when its set lets it, reads it, and writes the
image; it is held otherwise, and a torn set ends it (R197, R212).

Holds: a command that a set starts to hold is marked held from that time on, by that set; one that no set holds any more counts the time of
its hold (R202, R203).

COMMAND_TIMEOUT: a gather held for a minimum epoch for its context's timeout ends as ABORTED_FAULT, its hold counted; before that time, or
with every minimum epoch reached, it stays (R200, R362). -/
def Obligations.GathersBeginOrAreHeld : Prop :=
  (∀ (s : State) (c : CmdId) (j : Job),
      let u := s.begin c
      (ReadyOp s c j opGather → exec (.gather c) s = .next ((u.notStarted c .running).makeItems j).settle) ∧
      (ReadyOp s c j opGatherSeq → exec (.gatherSeq c) s = .next ((u.notStarted c .running).makeItems j).settle) ∧
      (∀ k v x bs, ReadyOp s c j opSnapshot → j.epochs = [] → u.gate j = .go →
        let w := u.updJob c fun j' => { j' with epochs := [(pktObj j.pkt, u.epochOf (pktObj j.pkt))] }
        w.job? c = some k → w.flushSketch c (w.whoJob c) (pktObj j.pkt) = (v, true) →
        readImage c (v.whoJob c) (v.sections (pktObj j.pkt)) [] v = (x, .ok bs) →
        let y := (x.updJob c fun j => { j with phase := .running, value0 := x.epochOf (pktObj k.pkt), value1 := bs.length }).endReads c
        exec (.snapshot c) s = .next ((y.writeVa c (y.cmdSpace c) (imageVa j.pkt) bs).complete c).settle) ∧
      (ReadyOp s c j opSnapshot → j.epochs = [] → (u.gate j = .held ∨ u.gate j = .full) →
        exec (.snapshot c) s = .next (u.notStarted c .accepted).settle) ∧
      (ReadyOp s c j opSnapshot → j.epochs = [] → u.gate j = .torn → exec (.snapshot c) s = .next (u.fail c stAborted).settle)) ∧
  (∀ (s : State) (w : WorkItem) (i : Nat) (j : Job), s.alive = true →
      s.items.find? (fun w => w.place == .intake && s.mayDeal w.cmd) = some w → s.dealSlice = some i → s.job? w.cmd = some j →
      (∀ sets, s.nextSets j = some sets → s.gate j = .go → flFused j.pkt = false → sets ≠ [] →
        exec .workItemDeal s = .next (((s.begin w.cmd).updJob w.cmd fun k => { k with epochs := s.epochsOf sets, proj := none }).dealTo w.id i).settle) ∧
      (s.gate j = .torn → exec .workItemDeal s = .next (s.fail w.cmd stAborted).settle)) ∧
  (∀ (s : State) (c : CmdId) (j : Job), s.job? c = some j →
      let t := s.rehold c
      t.kept = s.kept ∧
      (j.heldSince = none → s.holders j = [] → t = s) ∧
      (j.heldSince = none → s.holders j ≠ [] →
        ∃ k, t.job? c = some k ∧ k.heldSince = some s.time ∧ k.wasHeld = true ∧ ∀ h, h ∈ k.heldBy.map (·.1) ↔ h ∈ s.holders j) ∧
      (∀ since, j.heldSince = some since → s.holders j = [] →
        ∃ k, t.job? c = some k ∧ k.heldSince = none ∧ k.heldBy = [] ∧ k.holdNs = j.holdNs + (s.time - since))) ∧
  (∀ (s : State) (c : CmdId) (j : Job) (since : Nat), s.alive = true → s.job? c = some j → j.heldSince = some since →
      let ms := ((s.context? c.ctx).map (·.timeoutMs)).getD 0
      let short := ∃ e ∈ s.minEpochs j, epochReached (s.epochOf e.1) e.2 = false
      ((s.nextSets j).isSome = true → j.epochs = [] → short → since + ms * 1000000 ≤ s.time →
        exec (.commandTimeout c) s = .next ((s.endHold j true).fail c stAborted).settle) ∧
      (s.time < since + ms * 1000000 → exec (.commandTimeout c) s = .next s.settle) ∧ (¬short → exec (.commandTimeout c) s = .next s.settle))

/-- The work items of a bag command hold every bag of it: each item names up to 64 bags, and an item that is not a piece holds no bag of more
than 4,096 references (R118). -/
def Obligations.ItemsCoverTheBags : Prop :=
  ∀ (s : State) (j : Job), 1 ≤ j.fan → j.fan ≤ 4096 →
    let n := j.offs.length - 1
    let lens := (List.range n).map fun b => j.offs.getD (b + 1) 0 - j.offs.getD b 0
    let t := s.makeItems j
    let new := t.items.drop s.items.length
    t.items.take s.items.length = s.items ∧ t.nextItem = s.nextItem + new.length ∧ t.jobs = s.jobs ∧ t.streams = s.streams ∧ t.slices = s.slices ∧
      (∀ w ∈ new, w.cmd = j.id ∧ w.place = .intake ∧ 1 ≤ w.bags ∧ w.bags ≤ 64 ∧ w.firstBag + w.bags ≤ n) ∧
      (∀ w ∈ new, w.piece = none → ∀ b, w.firstBag ≤ b → b < w.firstBag + w.bags → lens.getD b 0 * j.fan ≤ 4096) ∧
      (∀ w ∈ new, ∀ x, w.piece = some x → w.bags = 1 ∧ x.1 < x.2 ∧ x.2 ≤ lens.getD w.firstBag 0) ∧
      (∀ b < n, ∃ w ∈ new, w.firstBag ≤ b ∧ b < w.firstBag + w.bags)

/-- SCATTER_GRAD runs pass 1 over its references and bags where its set is open or its step has come; one that must wait for the next step waits,
not started; a torn set aborts it, and a FIXED table whose T in the step is another one closes it as STEP_CLOSED (R155, R156, R165).

Pass 2 runs where every pass 1 of its group has ended, and waits for the group otherwise; a staging add is made one at a time, a table out of
slots failing the command; a flush puts the heavy rows' accumulators among the adds once the last pass 2 has ended, and each of its adds
carries the sum that the scatters that share it have (R157, R168, R171, R175).

A scatter that drops nothing and clamps nothing ends OK; one with drops or mismatches ends with the drop status, one with clamped elements with
the clamp status; the counts and window exponents stand in its words (R160, R177, R356). -/
def Obligations.ScattersRunInPasses : Prop :=
  (∀ (s : State) (c : CmdId) (j : Job) (x : ScatterJob), ReadyOp s c j opScatter → j.scatter = some x → x.pass1 = false →
      let u := s.begin c
      let st := ((u.tset? x.tset).map (·.st)).getD .torn
      (st = .torn → exec (.scatterGrad c) s = .next (u.fail c stAborted).settle) ∧
      (st ≠ .torn → x.next = true → st ≠ .opened → exec (.scatterGrad c) s = .next (u.notStarted c .waiting).settle) ∧
      (st ≠ .torn → (x.next = false ∨ st = .opened) → u.fixedConflict j = true →
        exec (.scatterGrad c) s = .next ((u.countSet x.tset 10 1).complete c stStepClosed { object := x.tset }).settle) ∧
      (∀ v d, st ≠ .torn → (x.next = false ∨ st = .opened) → u.fixedConflict j = false → u.scatterData j = (v, .ok d) →
        exec (.scatterGrad c) s = .next ((v.takeFixedT j).endPass1 j x d).settle)) ∧
  (∀ (s : State) (c : CmdId) (j : Job) (x : ScatterJob), s.alive = true → s.job? c = some j → j.scatter = some x → s.faultWait (.job c) = false →
      (j.phase = .running → s.mayPass2 x = true →
        exec (.pass2Start c) s = .next (((if x.group then s.findT x.tset else s).runPass2 j x).checkScatter c).settle) ∧
      (j.phase = .running → s.mayPass2 x = false → exec (.pass2Start c) s = .next (s.groupWait c x).settle) ∧
      (∀ a rest t, x.adds = a :: rest → s.table? a.table = some t →
        let full := { object := a.table, value := t.slots, limit := (t.opt.getD {}).maxTouched : ErrDetail }
        (∀ v n, (a.heavy = false ∨ x.rolling = true) → s.addToSlot c (s.whoJob c) t (t.opt.getD {}) a = (v, .slot n) →
          exec (.stagingAdd c) s = .next ((v.updScatter c (·.madeOne a)).checkScatter c).settle) ∧
        (∀ v, a.heavy = false → x.rolling = false → s.addToSlot c (s.whoJob c) t (t.opt.getD {}) a = (v, .full) →
          exec (.stagingAdd c) s = .next (v.fail c stStaging full).settle) ∧
        (∀ v n b, a.heavy = true → x.rolling = false → (s.accumulators c x).find? a.sameSeg = some b →
          s.addToSlot c (s.whoJob c) t (t.opt.getD {}) b = (v, .slot n) → exec (.stagingAdd c) s = .next (v.madeFlush c x a).settle) ∧
        (a.heavy = true → x.rolling = false → (s.accumulators c x).find? a.sameSeg = none →
          exec (.stagingAdd c) s = .next (s.madeFlush c x a).settle)) ∧
      (x.pass2 = true → x.rolling = false → s.accumulators c x ≠ [] → ((s.heavyShare c x).all (·.pass2Ended)) = true →
        exec (.heavyRowFlush c) s = .next (s.updScatter c fun y => { y with adds := y.adds ++ s.accumulators c x }).settle)) ∧
  (∀ (s : State) (c : CmdId) (j : Job) (x : ScatterJob), s.job? c = some j → j.scatter = some x → j.phase = .running → x.pass2 = true →
      x.rolling = false → x.adds = [] → x.heavyAdds = [] →
      let u := s.updJob c fun j => { j with words := [leNat (x.usedT.map fun (v : Int) => BitVec.ofInt 8 v), j.drops, j.trunc, j.clamp, j.mismatch] }
      (j.drops = 0 → j.empty = 0 → j.mismatch = 0 → j.clamp = 0 → s.checkScatter c = u.finish c) ∧
      ((0 < j.drops ∨ 0 < j.empty ∨ 0 < j.mismatch) → j.clamp = 0 → s.checkScatter c = (u.cause c stDrops).finish c) ∧
      (j.drops = 0 → j.empty = 0 → j.mismatch = 0 → 0 < j.clamp → s.checkScatter c = (u.cause c stClamped).finish c) ∧
      ((0 < j.drops ∨ 0 < j.empty ∨ 0 < j.mismatch) → 0 < j.clamp → s.checkScatter c = ((u.cause c stDrops).cause c stClamped).finish c))

/-- APPLY_EPOCH at an open set that expects its epoch moves it to PENDING, closing its step; one that expects another epoch completes as
EPOCH_MISMATCH with both epochs; a set that is not open makes it wait, and a torn one ends it as ABORTED_FAULT. RESTORE at an open or torn set
whose image passes the checks enters its window, and waits at a pending one (R188 to R190, R213, R215). -/
def Obligations.StepsClose : Prop :=
  ∀ (s : State) (c : CmdId) (j : Job) (t : TableSet),
    let u := s.begin c
    let h := pktObj j.pkt
    u.tset? h = some t →
    (ReadyOp s c j opApply → t.st = .opened → t.apply = none → pktCount j.pkt = t.epoch →
      exec (.applyEpoch c) s = .next (u.enterPending c h { cmd := c, isRestore := false, mu := muOf j.pkt }).settle ∧
        (((∀ d ∈ t.members, (u.job? d).bind (·.scatter) = none) ∨ t.groupClosed = true) →
          (u.enterPending c h { cmd := c, isRestore := false, mu := muOf j.pkt }).tset? h =
            some { t with st := .pending, groupClosed := true, apply := some { cmd := c, isRestore := false, mu := muOf j.pkt } })) ∧
    (ReadyOp s c j opApply → t.st = .opened → t.apply = none → pktCount j.pkt ≠ t.epoch →
      EndsAs (.applyEpoch c) s (u.complete c stEpochMismatch { value := pktCount j.pkt, limit := t.epoch }) s.kept) ∧
    (ReadyOp s c j opApply → t.st ≠ .opened → t.st ≠ .torn → EndsAs (.applyEpoch c) s (u.await c) s.kept) ∧
    (ReadyOp s c j opApply → t.st = .torn → EndsAs (.applyEpoch c) s (u.fail c stAborted) s.kept) ∧
    (ReadyOp s c j opRestore → (t.st = .opened ∨ t.st = .torn) → t.apply = none →
      let k := checkSections h c (u.whoJob c) (imageVa j.pkt) (u.sections h) 0 [] u
      (∀ x, k.2 = .ok x → exec (.restore c) s = .next (k.1.enterPending c h { cmd := c, isRestore := true, image := imageVa j.pkt }).settle) ∧
      (∀ st d, k.2 = .stop st d → exec (.restore c) s = .next (k.1.complete c st d).settle)) ∧
    (ReadyOp s c j opRestore → t.st = .pending → EndsAs (.restore c) s (u.await c) s.kept)

/-- ENTER_DRAINING: a pending set whose step has no group member, earlier scatter or snapshot left drains; a failed step ends without a window,
and is discarded by a RESTORE. ENTER_WRITING: the writes begin, the sketches whole in memory first, once no reader is left and none that was
accepted before is still to begin (R191, R192, R195, R197).

ENTER_COMMITTING: when the window's rows and other writes are done and acknowledged, the step commits, and the set that the commit writes and
installs is OPEN at the next epoch, its SEQ even, its window's time noted; a window with writes left or not acknowledged does not commit (R194,
R208, R209). -/
def Obligations.StepsCommit : Prop :=
  (∀ (s : State) (h : Nat) (t : TableSet) (a : ApplyJob), s.alive = true → s.faultWait (.apply h) = false → s.tset? h = some t → t.apply = some a →
      (t.st = .pending → s.mayDrain h a.cmd = true → (t.failed = false ∨ a.isRestore = true) →
        exec (.enterDraining h) s = .next (s.startWindow h a).settle ∧
          let v := s.closeWait 4 (agentCmd a.cmd) false none none
          ∀ y, v.tset? h = some y →
            (s.startWindow h a).tset? h = some { y with st := .draining, apply := some { a with start := v.now .core } }) ∧
      (t.st = .pending → s.mayDrain h a.cmd = true → t.failed = true → a.isRestore = false →
        exec (.enterDraining h) s = .next (s.failStep h a t.seq).settle) ∧
      (s.mayDrain h a.cmd = false → exec (.enterDraining h) s = .next s.settle) ∧
      (t.st = .draining → s.reading h = [] → s.dueReaders h = [] →
        exec (.enterWriting h) s = .next (s.sketchFirst h a.cmd fun s => s.startWriting h t a).settle) ∧
      (t.st = .draining → (s.reading h ≠ [] ∨ s.dueReaders h ≠ []) → exec (.enterWriting h) s = .next s.settle)) ∧
  (∀ (s : State) (h : Nat) (t : TableSet) (a : ApplyJob), s.alive = true → s.faultWait (.apply h) = false →
      (∃ t0 a0, s.tset? h = some t0 ∧ t0.apply = some a0 ∧ (t0.st = .writing ∨ t0.st = .committing)) →
      let u := s.runWindow h
      let unacked := match u.job? a.cmd with
        | some j => j.acks ≠ 0 ∨ j.outs ≠ []
        | none => u.unacked a.cmd = true
      u.tset? h = some t → t.apply = some a →
      (a.todo = [] → a.work = [] → a.listed = true → (t.st ≠ .torn ∨ a.lost = false) → ¬unacked →
        exec (.enterCommitting h) s = .next (u.commit h t a).settle ∧
          (let y := t.committed a (u.now .core)
           y.st = .opened ∧ y.epoch = (t.epoch + 1) % 2 ^ 32 ∧ y.seq % 2 = 0 ∧ y.apply = none ∧ y.commitTime = u.now .core ∧
             y.windowNs = u.now .core - a.start)) ∧
      ((a.todo ≠ [] ∨ a.work ≠ [] ∨ a.listed = false) → exec (.enterCommitting h) s = .next u.settle) ∧
      (a.todo = [] → a.work = [] → a.listed = true → (t.st ≠ .torn ∨ a.lost = false) → unacked →
        exec (.enterCommitting h) s = .next (u.updTset h fun t => { t with st := if t.st = TsState.torn then t.st else .committing }).settle))

/-- PROMO_LIST: a list whose every entry keeps the rules waits for its commit; one that breaks one is MALFORMED and adds nothing, and one that
names a TORN set is not served (R215, R354, R477).

CHECKPOINT_SERVICE_REPLY: the service's reply stands by for every poisoned row that was asked for, once. RESTORE_TIMEOUT: a row not answered within
RESTORE_MS is stuck, and its reply is then ignored (R214, R429). -/
def Obligations.ListsAndPoisonedRows : Prop :=
  (∀ (s : State) (c : CmdId) (j : Job), ReadySub s c j subPromoList →
      let b := j.block
      let h := field b 0 2
      let u := s.begin c
      let rules := [reservedRule b 2 2, reservedRule b 12 4]
      (s.isTorn h = true → EndsAs (.promoList c) s (u.complete c stAborted) s.kept) ∧
      (∀ x, s.isTorn h = false → firstBroken rules = some x → EndsAs (.promoList c) s (u.malformed j 0x47 x.index x.value) s.kept) ∧
      (∀ v es, s.isTorn h = false → firstBroken rules = none → u.listBytes j = (v, .ok es) →
        (firstBroken ((List.range (field b 8 4)).map (v.entryRules h es)).flatten = none →
          exec (.promoList c) s = .next ((v.updTset h fun t =>
            { t with lists := t.lists ++ [{ epoch := field b 4 4, entries := promoEntries es (field b 8 4) }] }).complete c).settle) ∧
        (∀ x, firstBroken ((List.range (field b 8 4)).map (v.entryRules h es)).flatten = some x →
          exec (.promoList c) s = .next (v.malformed j 0x47 (x.index % 2 ^ 16) x.value).settle))) ∧
  (∀ (s : State) (table row : Nat) (cold promoted side state : List Byte), s.alive = true →
      exec (.checkpointServiceReply table row cold promoted side state) s = .next { s with poisoned := s.poisoned.map fun (p : PoisonedRow) =>
        if p.table = table ∧ p.row = row ∧ p.requestedAt.isSome ∧ p.bytes = none ∧ p.stuck = false then
          { p with bytes := some (cold, promoted, side, state) } else p } ∧
      let late := fun (p : PoisonedRow) => p.table = table ∧ p.row = row ∧ p.bytes = none ∧ p.stuck = false ∧
        ∃ at_ ∈ p.requestedAt, at_ + 1000000 * s.restoreMs ≤ s.time
      ((∃ p ∈ s.poisoned, late p) →
        ∃ t ps, exec (.restoreTimeout table row) s = .next t ∧ t.kept = { s.kept with poisoned := ps } ∧ ps.length = s.poisoned.length ∧
          (∀ p ∈ s.poisoned, late p → { p with stuck := true } ∈ ps) ∧ (∀ p ∈ s.poisoned, ¬late p → p ∈ ps)) ∧
      ((∀ p ∈ s.poisoned, ¬late p) → exec (.restoreTimeout table row) s = .next s))

/-- PROJECT starts its chain; a layer starts at the epoch in force, its weights loaded, is held while its table set does not let it begin, and a
torn set ends the command as ABORTED_FAULT (R201, R215, R232, R233). A free set of arrays is dealt to the one user with a tile to run (R243).

TILE_END: the tile in progress of a command runs to its end on its arrays, and one whose weights cannot be reloaded ends the command; the last
pass of an LR tile hands its rows to the lanes (R231, R241, R244).

ARRAY_EN: a write that would clear every enable is ignored; another stores ARRAY_EN and ZGATE_EN, and disables the array of each cleared bit
until reset (R246, R250). -/
def Obligations.ChainsRunLayerByLayer : Prop :=
  (∀ (s : State) (c : CmdId) (j : Job),
      (ReadyOp s c j opProject → j.proj = none →
        EndsAs (.project c) s (((s.begin c).notStarted c .running).updJob c fun j => { j with proj := some {} }) s.kept) ∧
      (∀ p, s.alive = true → s.job? c = some j → s.faultWait (.job c) = false → j.proj = some p → p.inLayer = false → j.outs = [] →
        (j.phase = .running ∨ j.phase = .waiting) →
        let sets := s.stageSets j p.layer
        let layer := s.newLayer j p ((sets.head?).map s.epochOf)
        (∀ g v x, s.gate j = .go → j.chain[p.layer]? = some g → (preload j layer g).whole s = (v, .ok x) →
          exec (.layerStart c) s = .next ((v.begin c).updJob c fun k =>
            { k with readsEnded := false, epochs := v.epochsOf sets, proj := some layer }).settle) ∧
        ((s.gate j = .held ∨ s.gate j = .full) → exec (.layerStart c) s = .next s.settle) ∧
        (s.gate j = .torn → exec (.layerStart c) s = .next (s.fail c stAborted).settle)) ∧
      (∀ p g d v o es, s.alive = true → s.job? c = some j → s.faultWait (.job c) = false → j.proj = some p → j.chain[p.layer]? = some g →
        s.deal? (.cmd c) = some d → eventsFit d.arrays es = true →
        let rows := j.tileRows p d.arrays.length
        let n := s.stageCols j p.layer
        let t1 := min (p.pass + d.arrays.length) (ceilDiv n 128)
        (tileWork j p g rows d.arrays p.pass).whole (s.loseTiles (j.tag p) es) = (v, .ok o) →
        let w := es.foldl (fun s e => s.arrayEvent d.arrays e) ((v.countTile d o).endDeal (.cmd c))
        (reloadFails es = false → exec (.tileEnd (.cmd c) es) s = .next (w.tileDone j p g rows t1 n o).settle) ∧
        (reloadFails es = true → exec (.tileEnd (.cmd c) es) s = .next (w.fail c stAborted).settle))) ∧
  (∀ (s : State) (k : Nat) (u : TileUser) (t : NextTile), s.feeder.deals = [] → s.tileUsers = [(k, u, t)] →
      s.dealTiles.deal? u = some ⟨u, s.onArrays.take t.need, s.onArrays.drop t.need⟩) ∧
  (∀ (s v : State) (d : Deal) (x : LrTile) (t : Table) (w : WeightSet) (o : TileOut) (e : Nat × Fetch × List Byte)
      (rest : List (Nat × Fetch × List Byte)), s.alive = true → s.deal? .lr = some d → s.feeder.lr = some x → s.lrRows x = e :: rest →
      s.table? x.table = some t → s.wset? t.desc.lrBasis = some w →
      (lrWork e.2.1.ref.src.cmd t.desc w ((e :: rest).map (·.2.2)) d.arrays x.pass).whole (s.loseTiles ⟨none, t.desc.lrBasis⟩ []) = (v, .ok o) →
      let u := (v.countTile d o).endDeal .lr
      let out : List (List (F32 × Bool)) := o.out.zipIdx.map fun r => x.out.getD r.2 [] ++ r.1.map fun c => (c.val, c.big)
      let free : State := { u with feeder := { u.feeder with lr := none } }
      u.lrTiles x.table ≤ x.pass + d.arrays.length →
      exec (.tileEnd .lr []) s = .next (((e :: rest).zip out).foldl (fun (s : State) r => s.lrLand t r.1.1 r.1.2.1 r.2) free).settle) ∧
  (∀ (s : State) (r : Requester) (v : BitVec 32), Written s 0xA0100 r →
      (v &&& 0xF0 = 0 → exec (.arrayEn r v) s = .next s.settle) ∧
      (v &&& 0xF0 ≠ 0 → ∃ t : State, exec (.arrayEn r v) s = .next t.settle ∧ t.regs = (s.setReg 0xA0100 (v &&& 0xF4)).regs ∧ t.jobs = s.jobs ∧ t.mem = s.mem ∧
        ∀ n : Fin 4, t.array n = { s.array n with disabled := (s.array n).disabled || !bitOf v.toNat (4 + n.val) }))

/-! ## Work items, references, rows and misses -/

/-- The oldest item in the intake that may be dealt goes to the unflagged slice in service, with room, of the fewest items queued and running, ties
in the round-robin order after the slice dealt to before; it waits while every unflagged slice has a full queue; and a free stream takes the
oldest item of its own slice's queue (R119). -/
def Obligations.WorkItemsAreDealt : Prop :=
  ∀ (s : State) (w : WorkItem) (n : Fin 16) (st : StreamId) (rest : List Nat), s.alive = true →
    let open_ := fun (m : Nat) => m < 16 ∧ (s.slice m).lost = false ∧ (s.slice m).flagged = false
    let may := fun (m : Nat) => open_ m ∧ (s.slice m).dispatch.length < 8
    let turn := fun (m : Nat) => (m + 16 - (s.rr + 1) % 16) % 16
    (∀ j, s.items.find? (fun w => w.place == .intake && s.mayDeal w.cmd) = some w → s.job? w.cmd = some j → s.nextSets j = none → may n.val →
      (∀ m, may m → s.sliceLoad n.val ≤ s.sliceLoad m ∧ (s.sliceLoad m = s.sliceLoad n.val → turn n.val ≤ turn m)) →
      exec .workItemDeal s = .next ((({ s with rr := n.val } : State).updItem w.id fun w => { w with place := .queued n.val }).updSlice n.val
        fun x => { x with dispatch := x.dispatch ++ [w.id], anyWork := true }).settle) ∧
    ((∃ m, open_ m) → (∀ m, open_ m → 8 ≤ (s.slice m).dispatch.length) → exec .workItemDeal s = .next s.settle) ∧
    ((s.slice st.slice).dispatch = w.id :: rest → s.streamFree st.key = true →
      exec (.workItemStart st) s = .next ((s.updSlice st.slice fun x => { x with dispatch := rest }).startItem st.key w.id)) ∧
    ((s.slice st.slice).dispatch = w.id :: rest → s.streamFree st.key = false → exec (.workItemStart st) s = .next s)

/-- A slice in service with a free stream and an empty queue takes the oldest item of the longest queue, the lowest slice in a tie, its generation
as it was (R120).

A stream that takes an item runs it from the item's committed checkpoint, or from its first bag, over the image's program; and the command
and every other stream stay (R85, R91, R112).

A started item is moved only to a slice in service that is not flagged and has room, from a lost slice as it is, from a flagged one under a
new generation; and when all the unfinished items of its command run on flagged slices, all of them are to be moved (R112, R122, R433). -/
def Obligations.StreamsTakeItems : Prop :=
  (∀ (s : State) (i : Nat) (n k : Fin 16) (rest : List Nat), s.alive = true →
      (s.slice k.val).dispatch = i :: rest → (∀ m < 16, (s.slice m).dispatch.length ≤ (s.slice k.val).dispatch.length) →
      (∀ m < k.val, (s.slice m).dispatch.length < (s.slice k.val).dispatch.length) →
      (s.slice n.val).lost = false → (s.slice n.val).dispatch = [] → (∃ m < 8, s.streamFree (8 * n.val + m) = true) →
      exec (.workItemSteal n) s = .next ((((s.updSlice k.val fun x => { x with dispatch := rest }).noteIdle k.val).updSlice n.val fun x =>
        { x with dispatch := [i], anyWork := true }).updItem i fun w => { w with place := .queued n.val })) ∧
  (∀ (s : State) (k i : Nat) (w : WorkItem) (j : Job) (im : Image),
      s.item? i = some w → s.job? w.cmd = some j → s.image? (pktHandle j.pkt) = some im →
      let t := s.startItem k i
      let env := j.env (2 ^ im.fanLog2) im.portUse.toNat ⟨w.cmd, i, w.gen⟩
      (t.stream k).st = .running ∧ (t.stream k).item = some i ∧ (t.stream k).prog = im.code ∧ (t.stream k).queue = [] ∧ (t.stream k).budget = 0 ∧
        (∀ a, w.committed = some a → (t.stream k).arch = { a with gen := w.gen }) ∧
        (w.committed = none → (t.stream k).arch = startArch env w.cmd (pktHandle j.pkt) w.gen im.mode0 j.bag.sc w.firstBag w.bags w.piece) ∧
        t.jobs = s.jobs ∧ t.mem = s.mem ∧ t.slices = s.slices ∧ ∀ m, m ≠ k → t.stream m = s.stream m) ∧
  (∀ (s : State) (i k : Nat) (w : WorkItem) (n : Fin 16), s.alive = true → s.item? i = some w → w.place = .running k →
      let go := fun (u : State) => (u.updItem i fun w => { w with place := .queued n.val, toMove := false }).updSlice n.val fun x =>
        { x with dispatch := x.dispatch ++ [i], anyWork := true }
      let v := s.markMoves w.cmd
      (s.mayMigrate w k = true → (s.slice n.val).lost = false → (s.slice n.val).flagged = false → (s.slice n.val).dispatch.length < 8 →
        ((s.slice (k / 8)).lost = true → exec (.workItemMigrate i n) s = .next (go v)) ∧
        ((s.slice (k / 8)).lost = false → exec (.workItemMigrate i n) s = .next (go (v.stopItem k i)))) ∧
      ((s.slice n.val).lost = true ∨ (s.slice n.val).flagged = true ∨ 8 ≤ (s.slice n.val).dispatch.length ∨ s.mayMigrate w k = false →
        exec (.workItemMigrate i n) s = .next s))

/-- RATE_INTERVAL_END: each slice's rate is what left its pointing stage in the interval, capped at 4,095, and the count starts again; with four
slices at work throughout it each that had work is judged against their lower median, flagged after 100 intervals below half of it and cleared
after 100 that are not; with fewer no flag changes. That the four are counted as the median counts them is the model's reading (R121, R122; log
entry 108). -/
def Obligations.RatesAreFormed : Prop :=
  (∀ s : State, s.alive = true → s.rateAt / 1000 < s.time / 1000 →
    let worked := (List.range 16).filter fun i => (s.slice i).hadWork && decide (s.sliceLoad i ≠ 0)
    let u := (List.range 16).foldl (fun s i => s.updSlice i fun x => { x with rate := min 4095 x.refs, refs := 0 }) s
    let median := lowerMedian (worked.map fun i => (u.slice i).rate)
    let v := if worked.length < 4 then u else (List.range 16).foldl (fun s i => s.updSlice i fun x => x.judge x.anyWork median) u
    let w := (List.range 16).foldl (fun s i => s.updSlice i fun x =>
      { x with hadWork := decide (s.sliceLoad i ≠ 0), anyWork := decide (s.sliceLoad i ≠ 0) }) v
    exec .rateIntervalEnd s = .next { w with rateAt := s.time } ∧ w.streams = s.streams ∧ w.items = s.items ∧ w.jobs = s.jobs) ∧
  (∀ s : State, s.time / 1000 ≤ s.rateAt / 1000 → exec .rateIntervalEnd s = .next s) ∧
  ∀ (x : Slice) (median : Nat), x.below ≤ 100 → x.above ≤ 100 →
    (2 * x.rate < median → (x.judge true median).below = min 100 (x.below + 1) ∧ (x.judge true median).above = 0 ∧
      (99 ≤ x.below → (x.judge true median).flagged = true) ∧ (x.below < 99 → (x.judge true median).flagged = x.flagged)) ∧
    (median ≤ 2 * x.rate → (x.judge true median).above = min 100 (x.above + 1) ∧ (x.judge true median).below = 0 ∧
      (99 ≤ x.above → (x.judge true median).flagged = false) ∧ (x.above < 99 → (x.judge true median).flagged = x.flagged)) ∧
    (x.judge false median).flagged = x.flagged ∧ (x.judge false median).below = 0 ∧ (x.judge false median).above = 0

/-- The pointing stage takes the oldest element of a stream's queue: a marker closes its bag for its item; a reference that is invalid, names no
table or is out of its table's rows is dropped and counted; a kept one's row is fetched; what comes for a closed bag is passed over; and held
references stay (R98, R99, R102, R110, R129).

A fetch all of whose sectors have arrived reaches the lanes: its elements where the row is sound, a poisoned row's mark where it is known lost, or
its cold copy or its side entry is unreadable; a coefficient row of an LR table goes to the projection feeder; and the cold copy is fetched where a
promoted copy is unreadable (R46, R130, R241, R428). -/
def Obligations.ReferencesReachTheLanes : Prop :=
  (∀ (s : State) (st : StreamId), s.alive = true →
      let k := st.key
      let x := s.stream k
      (x.faulted = true → exec (.pointingStageReference st) s = .next s.settle) ∧
      (x.faulted = false → (s.slice (k / 8)).lost = false → x.fetches = [] →
        (∀ src b rest, x.queue = .bagEnd src b :: rest →
          (s.bagClosed src.cmd b = false → exec (.pointingStageReference st) s = .next (s.markBag k src b).settle) ∧
          (s.bagClosed src.cmd b = true → exec (.pointingStageReference st) s = .next ((s.popQueue k).itemOut k src.cmd).settle)) ∧
        (∀ r rest, x.queue = .ref r :: rest →
          (s.bagClosed r.src.cmd r.bag = true → exec (.pointingStageReference st) s = .next ((s.popQueue k).itemOut k r.src.cmd).settle) ∧
          (∀ t, s.bagClosed r.src.cmd r.bag = false → r.table.bind s.table? = some t →
            let v := if r.single then s.affinePrefetch k t r.row else s
            (r.valid = true → r.row < t.desc.rows → exec (.pointingStageReference st) s = .next (v.keepRef k t r).settle) ∧
            ((r.valid = false ∨ t.desc.rows ≤ r.row) →
              exec (.pointingStageReference st) s = .next ((v.dropRef k r).itemOut k r.src.cmd).settle)) ∧
          (s.bagClosed r.src.cmd r.bag = false → r.table.bind s.table? = none →
            exec (.pointingStageReference st) s = .next ((s.dropRef k r).itemOut k r.src.cmd).settle)))) ∧
  (∀ (s : State) (st : StreamId) (f : Fetch) (t : Table), s.alive = true →
      (s.stream st.key).fetches.find? (fun f => f.arrived && !s.inFeeder st.key f.id) = some f → f.ref.table.bind s.table? = some t →
      let n := t.desc.table
      let side := f.side.map fun va => f.bytes va 16
      (s.isPoisoned n f.ref.row = true → exec (.laneDataArrival st) s = .next (s.landPoison st.key f n).settle) ∧
      (s.isPoisoned n f.ref.row = false → side = some none →
        exec (.laneDataArrival st) s = .next ((s.poisonRow n f.ref.row false).landPoison st.key f n).settle) ∧
      (s.isPoisoned n f.ref.row = false → side ≠ some none → ∀ bs, f.bytes f.va f.size = some bs →
        (t.desc.fmtOf f.copy ≠ fcLR →
          exec (.laneDataArrival st) s = .next (s.landRow st.key t f (t.desc.values (t.desc.fmtOf f.copy) bs side.join)).settle) ∧
        (t.desc.fmtOf f.copy = fcLR → exec (.laneDataArrival st) s = .next (s.queueLr st.key f n).settle)) ∧
      (s.isPoisoned n f.ref.row = false → side ≠ some none → f.bytes f.va f.size = none → f.copy = .cold →
        exec (.laneDataArrival st) s = .next ((s.poisonRow n f.ref.row false).landPoison st.key f n).settle) ∧
      (s.isPoisoned n f.ref.row = false → side ≠ some none → f.bytes f.va f.size = none → f.copy ≠ .cold →
        exec (.laneDataArrival st) s = .next (s.refetchCold st.key t f).settle))

/-- A window whose oldest request has aged closes, its requests merged and ordered for issue; a younger one stays open; and a halted stream whose
faults are served and whose queue is empty runs again (R105, R110, R125, R126).

MISS_REQUEST_ISSUE: the front request of a stream to a channel, or to a capacity port that takes one, takes a tag of its slice, its partition's
tokens and leaves; it waits without a tag or tokens, and while the line is in a write-combining entry, which drains first; a read of a lost port
goes back to those who wait for it (R22, R126, R298, R300, R307). -/
def Obligations.MissesAndWindows : Prop :=
  (∀ (s : State) (st : StreamId), s.alive = true →
      let x := s.stream st.key
      (x.window ≠ [] → x.windowAt + x.windowAge ≤ s.time →
        exec (.sortWindowAge st) s = .next (s.setStream st.key
          { x with window := [], issue := x.issue ++ (mergeReqs x.window []).foldl (fun l r => s.insertReq r l) [] })) ∧
      (s.time < x.windowAt + x.windowAge → exec (.sortWindowAge st) s = .next s) ∧
      (x.st = .halted → x.faulted = false → s.streamWaits st.key = false → x.queue = [] →
        ∃ t : State, exec (.streamResume st) s = .next t.settle ∧ t.stream st.key = { x with st := .running }) ∧
      ((x.st ≠ .halted ∨ x.faulted = true ∨ s.streamWaits st.key = true) → exec (.streamResume st) s = .next s)) ∧
  (∀ (s : State) (st : StreamId) (r : MissReq) (rest : List MissReq) (t : Target), s.alive = true →
      let k := st.key
      let d := bucketOf t false
      let p := s.partOf r.cmdCtx
      let m : MemReq := { tag := s.nextId, slice := k / 8, stream := k, line := r.line, lo := r.lo, hi := r.hi, target := t, ctx := r.ctx
                          cmdCtx := r.cmdCtx, cmd := r.cmd, direct := r.direct }
      let free := s.sliceTags (k / 8) < 2048
      (s.stream k).issue = r :: rest → s.targetOf r.line = t → ((∃ ch, t = .channel ch) ∨ ∃ n, t = .capacity n) →
      (¬free → exec (.missRequestIssue st) s = .next s.settle) ∧
      (free → (s.wc.any (·.waits r.line)) = true → exec (.missRequestIssue st) s = .next (s.drain r.line).settle) ∧
      (free → (s.wc.any (·.waits r.line)) = false → (s.wc.any fun e => e.line == r.line) = true →
        exec (.missRequestIssue st) s = .next s.settle) ∧
      (free → (s.wc.any (·.waits r.line)) = false → (s.wc.any fun e => e.line == r.line) = false → s.onLostPort (localOf r.line) = true →
        exec (.missRequestIssue st) s = .next ((s.popIssue k).failBack r.ctx r.line k r.direct).settle) ∧
      (free → (s.wc.any (·.waits r.line)) = false → (s.wc.any fun e => e.line == r.line) = false → s.onLostPort (localOf r.line) = false →
        (∀ n, t = .capacity n → s.portTakes n = true) →
        (s.mayIssue p d r.bytes (s.richFor p t) = true →
          let u := ((s.chargeTo p d r.bytes).popIssue k).markIssued r
          exec (.missRequestIssue st) s = .next (({ u with memReqs := u.memReqs ++ [m], nextId := u.nextId + 1 } : State).settle)) ∧
        (s.mayIssue p d r.bytes (s.richFor p t) = false → exec (.missRequestIssue st) s = .next s.settle)) ∧
      (∀ n, free → (s.wc.any (·.waits r.line)) = false → (s.wc.any fun e => e.line == r.line) = false → s.onLostPort (localOf r.line) = false →
        t = .capacity n → s.portTakes n = false → exec (.missRequestIssue st) s = .next s.settle))

/-- WALK_COMPLETE: the walk leaves its walker, its entry fills the second level, and each of its requesters goes on, faults or ends with it; an
address that is in no segment of the context ends them as PROTECTION (R311, R316, R318, R319).

FAULT_RECORD_POST writes the record at the tail while the queue is enabled and has room, advances the tail, whose phase changes where it
wraps, and notifies once until acknowledged; the acknowledgement sends the next notification when the tail has moved (R320, R471).

XL_FAULT_DONE answers a posted record: RESOLVED drops the page from the TLBs and its requesters try again; the other outcomes end them with
their statuses; the reserved one is ignored; a FAULT_ID that names no posted record is counted; a record not answered in its time ends as ABORTED_FAULT
with record 0x0018 (R321, R330, R426). -/
def Obligations.WalksAndFaults : Prop :=
  (∀ (s : State) (ctx page : Nat) (seg : Fin 16) (x : Walk), s.alive = true →
      (s.walks.take 64).find? (fun x => x.ctx == ctx && x.seg == seg.val && x.page == page) = some x →
      let u := { s with walks := s.walks.erase x }
      (u.segOf ctx x.va = none → exec (.walkComplete ctx seg page) s = .next (u.walkEnds x (.protection 0x54) none).settle) ∧
      (∀ i g r, u.segOf ctx x.va = some (i, g) → u.walk i g x.va x.write = (r, none) →
        exec (.walkComplete ctx seg page) s = .next ((u.noteWalk g x.va).walkEnds x r none).settle) ∧
      (∀ i g r e, u.segOf ctx x.va = some (i, g) → u.walk i g x.va x.write = (r, some e) →
        exec (.walkComplete ctx seg page) s = .next (((u.noteWalk g x.va).tlb2Fill { e with ctx := ctx }).walkEnds x r (some e)).settle)) ∧
  (∀ (s : State) (slot : Fin 1024) (f : FaultSlot) (r : Requester),
      let next := (s.sqTail + 1) % s.sqSize
      (s.alive = true → s.sqEn = true → s.sqFull = false → (s.faults.find? fun (f : FaultSlot) => f.slot == slot.val && f.posted == none) = some f →
        exec (.faultRecordPost slot) s = .next (s.postFault f).settle ∧ (s.postFault f).sqTail = next ∧
          (s.postFault f).sqPhase = (if next = 0 then !s.sqPhase else s.sqPhase) ∧ (s.postFault f).notifyPending = true) ∧
      (s.alive = true → (s.sqEn = false ∨ s.sqFull = true) → exec (.faultRecordPost slot) s = .next s) ∧
      (Written s 0x4001C r → s.notifyPending = true → s.sqTail = s.notifiedTail →
        exec (.xlSqNotifyAck r) s = .next ({ s with notifyPending := false } : State).settle) ∧
      (Written s 0x4001C r → s.notifyPending = true → s.sqTail ≠ s.notifiedTail →
        exec (.xlSqNotifyAck r) s = .next (({ s with notifyPending := false } : State).sqNotify).settle)) ∧
  (∀ (s : State) (r : Requester) (o : BitVec 2) (id : BitVec 16), Written s 0x40014 r →
      (o = 3 → exec (.xlFaultDone r o id) s = .next s.settle) ∧
      (o ≠ 3 → s.outstanding id.toNat = none → exec (.xlFaultDone r o id) s = .next (s.countEngine 16 1).settle) ∧
      (∀ f : FaultSlot, s.outstanding id.toNat = some f →
        let u := s.freeFault f.slot
        (o = 0 → exec (.xlFaultDone r o id) s =
          .next (f.joiners.foldl (fun s w => s.answerOne f .resolved w) (u.dropTlb f.ctx f.seg f.page)).settle) ∧
        (o = 1 → exec (.xlFaultDone r o id) s = .next (f.joiners.foldl (fun s w => s.answerOne f (.status stProtection) w) u).settle) ∧
        (o = 2 → exec (.xlFaultDone r o id) s = .next (f.joiners.foldl (fun s w => s.answerOne f (.status stWalkError) w) u).settle)) ∧
      (∀ (slot : Fin 1024) (f : FaultSlot), (s.faults.find? fun (f : FaultSlot) => f.slot == slot.val && f.late s.time) = some f →
        let u := (s.errorRecord { code := 0x0018, action := 11, ctx := f.ctx, gen := f.gen, cmdSeq := f.cmdSeq }).freeFault f.slot
        exec (.faultTimeout slot) s = .next (f.joiners.foldl (fun s w => s.answerOne f (.status stAborted) w) u).settle))

/-! ## The row cache and memory -/

/-- The oldest request of a slice that can go on is granted at its bank in the bank's round-robin turn: a hit returns its sectors and becomes the
most recent of its set; one that misses sectors returns what is there and waits for the rest; a miss takes a victim's way, locked for its class,
and asks for its sectors; one that may not allocate asks memory alone. A request whose turn has not come stays, and until the cache's PLL has
locked no request is granted (R24, R255 to R257, R259, R265). -/
def Obligations.CacheRequestsHitOrAllocate : Prop :=
  ∀ (s : State) (slice : Fin 16) (r : CacheReq), s.alive = true → s.headReq slice.val = some r →
    let b := s.reqBank r
    let u := ({ s with rc := { s.rc with grant := sput 16 s.rc.grant b slice.val } } : State).updSlice slice.val fun x => { x with reqs := x.reqs.erase r }
    let a := localOf r.line
    let set := setOf (lineNo a)
    let cmd := (u.stream r.who.stream).arch.cmd
    let v := if u.noWays set (u.classMask r.cls) then u.countEngine r.cls 1 else u
    let y := v.countReq r false
    (s.boot.coreLocked = false → exec (.rowCacheRequest slice .none) s = .next s) ∧
    (s.boot.coreLocked = true → s.itsTurn slice.val b = false → exec (.rowCacheRequest slice .none) s = .next s.settle) ∧
    (s.boot.coreLocked = true → s.itsTurn slice.val b = true →
      (∀ w, v.lookup a = some w →
        let x := v.way set w
        let z := (v.unitWork (20 + groupOf set) (maskBits r.who.mask).length).serveHeld r x
        (x.missing r.who.mask = 0 → exec (.rowCacheRequest slice .none) s = .next ((z.touch set w).countReq r true).settle) ∧
        (x.missing r.who.mask ≠ 0 → z.wayOut set w = false →
          exec (.rowCacheRequest slice .none) s =
            .next (((z.setWay set w { x with lock := true }).countReq r false).wantSectors r cmd w (x.missing r.who.mask)).settle) ∧
        (x.missing r.who.mask ≠ 0 → z.wayOut set w = true →
          exec (.rowCacheRequest slice .none) s = .next ((z.countReq r false).askDirect r cmd (x.missing r.who.mask)).settle)) ∧
      (v.lookup a = none → y.goesDirect r = true → exec (.rowCacheRequest slice .none) s = .next (y.askDirect r cmd r.who.mask).settle) ∧
      (∀ z w, v.lookup a = none → y.goesDirect r = false → y.victim set (y.classMask r.cls) = (z, some w) →
        let x := (z.evict set w (z.partOf r.cmdCtx)).setWay set w { cls := r.cls, tag := tagOf (lineNo a), shared := r.shared, reg := r.shared, lock := true }
        exec (.rowCacheRequest slice .none) s = .next ((if r.shared then x.send (.register r.line) else x).openFill r cmd w r.who.mask).settle))

/-- A bank that times out, or that Armature names, is mapped out once; the end of its background pass clears what it still listed; and RESEED loads
every LFSR from the seed (R263, R277, R280).

A snoop is answered with the line's dirty sectors, which go to memory, and an invalidating one frees the way; one that comes while the line is
being filled waits in order; an accepted registration acknowledges the writes that waited; and the patrol reads one sector of a bank in its
turn (R257, R267 to R269, R279). -/
def Obligations.BanksAndSnoops : Prop :=
  (∀ (s : State) (bank : Fin 64) (r : Requester) (b : BitVec 6), s.alive = true →
      (bitOf s.rc.out.toNat bank.val = true → exec (.bankTimeout bank) s = .next s) ∧
      (bitOf s.rc.out.toNat bank.val = false → exec (.bankTimeout bank) s = .next (s.mapOut bank.val) ∧ (s.mapOut bank.val).kept = s.kept ∧
        (s.rc.blocked = [] → (s.bankWays bank.val) = [] →
          (s.mapOut bank.val).rc.out = s.rc.out ||| BitVec.ofNat 64 (2 ^ bank.val) ∧ (s.mapOut bank.val).rc.passes = s.rc.passes ++ [bank.val])) ∧
      (Written s 0x2001C r → exec (.rcMapOut r b) s = .next (s.mapOut b.toNat).settle) ∧
      (s.rc.passes.contains bank.val = true → ∃ t : State, exec (.mapOutPassEnd bank) s = .next t.settle ∧
        bank.val ∉ t.rc.passes ∧ t.kept = s.kept) ∧
      (s.rc.passes.contains bank.val = false → exec (.mapOutPassEnd bank) s = .next s) ∧
      (Written s 0x20000 r → ∃ t : State, exec (.reseed r) s = .next t.settle ∧ t.rc.ways = s.rc.ways ∧ t.regs = s.regs ∧ t.jobs = s.jobs ∧
        ∀ g : Fin 16, t.rc.lfsr.get g = lfsrLoad s.lfsrSeed g.val)) ∧
  (∀ (s : State) (line : Nat) (bank : Fin 64), s.alive = true →
      let l := line / 256 * 256
      let a := localOf l
      let set := setOf (lineNo a)
      let later := fun (inv : Bool) => ({ s with rc := { s.rc with snoops := s.rc.snoops ++ [(l, inv)] } } : State).settle
      (s.fillPending l = true → exec (.readSnoop line) s = .next (later false) ∧ exec (.invalidatingSnoop line) s = .next (later true)) ∧
      (s.fillPending l = false → s.lookup a = none → (s.wc.any (·.waits l)) = false →
        exec (.readSnoop line) s = .next (s.send (.snoopReply l 0 (Vector.replicate 4 0))).settle ∧
        exec (.invalidatingSnoop line) s = .next (s.send (.snoopReply l 0 (Vector.replicate 4 0))).settle) ∧
      (∀ w, s.fillPending l = false → s.lookup a = some w →
        let v := (s.send (.snoopReply l (s.way set w).sd (s.way set w).data)).snoopClean l
        exec (.readSnoop line) s = .next v.settle ∧
          (v.lookup a = some w → exec (.invalidatingSnoop line) s = .next ((v.evict set w 0).wayFreed).settle)) ∧
      (∀ r, s.rc.regs.find? (·.line == line) = some r →
        exec (.coherenceRegistrationAccept line) s = .next (({ s with rc := { s.rc with regs := s.rc.regs.erase r } } : State).notifyAll r.waiters).settle) ∧
      (s.patrolNs ≠ 0 → s.boot.coreLocked = true → s.rc.scrubbing = false → bitOf s.rc.out.toNat bank.val = false →
        sget 0 s.rc.patrolAt bank.val + s.patrolNs ≤ s.time → (∀ b, (sget [] s.rc.ueTimes b).length < 16) →
        let n := sget 0 s.rc.patrol bank.val
        let i := n % 2 ^ 21
        let x := s.way (setInGroup (bank.val / 4) (i / 16)) (4 * (bank.val % 4) + i / 4 % 4)
        (x.lock = true ∨ x.invalid = false) →
        let u : State := { s with rc := { s.rc with
          patrol := sput 0 s.rc.patrol bank.val (n + 1), patrolAt := sput 0 s.rc.patrolAt bank.val s.time } }
        exec (.patrolScrubRead bank .none) s = .next (if s.patrolPasses < u.patrolPasses then (u.rcStat 0).countEngine 28 1 else u).settle) ∧
      (s.time < sget 0 s.rc.patrolAt bank.val + s.patrolNs → exec (.patrolScrubRead bank .none) s = .next s))

/-- Data read without an error lands in its line's way and serves what waits for it; a write-combining entry of the pool drains when it has aged;
an acknowledged one is gone; and the regulators refill every 10 ns, the writes that waited for tokens trying again (R256, R297, R298, R300,
R326).

A capacity port carries transactions once its link is up, doubles its tag limit after ten µs of light load, and is LOST for good when it fails,
with record 0x0009; the sweep of the access counters runs at its period while counting is enabled (R303, R306, R307, R327). -/
def Obligations.MemoryAndCapacityPorts : Prop :=
  (∀ (s : State) (tag line ch : Nat) (m : MemReq) (load : BitVec 2), s.alive = true →
      (s.memReqs.find? (·.tag == tag) = some m → (∀ k, m.lo ≤ k → k ≤ m.hi → (s.memSector (localOf m.line + 64 * k)).isSome = true) →
        let got := ((List.range (m.hi + 1 - m.lo)).map (· + m.lo)).map fun k => (k, s.memSector (localOf m.line + 64 * k))
        let u := (({ s with memReqs := s.memReqs.erase m } : State).moved m.target (64 * (m.hi + 1 - m.lo))).landSectors m got
        (m.target = .channel ch → exec (.memoryReadComplete tag 0 load) s = .next u.settle) ∧
        (∀ n, m.target = .capacity n → exec (.memoryReadComplete tag 0 load) s =
          .next (((u.devLoad n load.toNat).countAccess (localOf m.line)).unparkAll).settle)) ∧
      (s.memReqs.find? (·.tag == tag) = none → exec (.memoryReadComplete tag 0 load) s = .next s.settle) ∧
      ((s.wcAck line).targetOf line = .channel ch → exec (.memoryWriteAck line load) s = .next (s.wcAck line).settle) ∧
      (∀ e ∈ s.wc, e.waits line = true → isPoolLine line = true → e.born + s.wcAgeNs ≤ s.time →
        exec (.wcEntryAge line) s = .next (s.drain line).settle) ∧
      ((∀ e ∈ s.wc, e.waits line = true → s.time < e.born + s.wcAgeNs) → exec (.wcEntryAge line) s = .next s) ∧
      (s.refillAt + 10 ≤ s.time → exec .refill s = .next ({ s.refillAll with refillAt := s.time } : State).unparkAll.settle) ∧
      (s.time < s.refillAt + 10 → exec .refill s = .next s)) ∧
  (∀ (s : State) (p : Fin 8) (wide : Bool), s.alive = true →
      let x := s.cap.get p
      let with_ := fun (y : CapPort) => ({ s with cap := s.cap.set p.val y } : State)
      let u : State := (with_ { x with st := 2 }).errorRecord { code := 0x0009, unit := 4, index := p.val, action := 8 }
      let mine := fun (m : MemReq) => m.target == Target.capacity p.val
      (s.boot.memLocked = true → x.noPll = false → x.st = 0 →
        exec (.capacityLinkUp p wide) s = .next (with_ { x with st := 1, bifurcated := wide }).unparkAll.settle) ∧
      ((s.boot.memLocked = false ∨ x.noPll = true ∨ x.st ≠ 0) → exec (.capacityLinkUp p wide) s = .next s) ∧
      (∀ t, x.lightSince = some t → t + 10000 ≤ s.time → x.limit < 512 →
        exec (.tagLimitRaise p) s = .next (with_ { x with limit := min 512 (x.limit * 2), lightSince := some s.time }).unparkAll.settle) ∧
      (x.lightSince = none ∨ 512 ≤ x.limit → exec (.tagLimitRaise p) s = .next s) ∧
      (x.st = 1 → (u.wc.filter fun e => !e.parked && u.isLocal e.line && u.onLostPort (localOf e.line)) = [] → u.memReqs.filter mine = [] →
        exec (.capacityPortLost p) s = .next ({ u with memReqs := u.memReqs.filter fun m => !mine m } : State).unparkAll.settle) ∧
      (x.st ≠ 1 → exec (.capacityPortLost p) s = .next s) ∧
      (s.hotEn = true → s.decayMs ≠ 0 → s.decayAt + 1000000 * s.decayMs ≤ s.time →
        ∃ t, exec .accessCountDecay s = .next t ∧ t.decayAt = s.time ∧ t.kept = s.kept) ∧
      (s.hotEn = false ∨ s.decayMs = 0 ∨ s.time < s.decayAt + 1000000 * s.decayMs → exec .accessCountDecay s = .next s))

/-- A temperature above 95 °C raises a stack to level 1 and one above 105 °C to level 2; a level falls by one after 100 µs below its lower threshold; a
stack that has not reported for 100 µs is held at level 2, with record 0x001A (R302).

CT_CFG: a write with GO sends a configuration request to a trained port, or completes at once with STATUS 4; a busy mailbox ignores it; and the
completion gives its STATUS, and its data to a read (R472, R473). -/
def Obligations.ThermalAndConfiguration : Prop :=
  (∀ (s : State) (k : Fin 16) (temp : BitVec 8), s.alive = true →
      let x := s.hbm.get k
      let before := if x.lost then 0 else x.level
      let level := if 105 < temp.toNat then 2 else if 95 < temp.toNat then max before 1 else before
      let set := fun (y : Stack) => ({ s with hbm := s.hbm.set k.val y } : State)
      (∃ since, exec (.temperatureReport k temp) s =
          .next (set { x with level := level, temp := temp.toNat, lost := false, lastReport := s.time, belowSince := since }) ∧
        (since = none ↔ level = 0 ∨ (level = 2 ∧ 102 ≤ temp.toNat) ∨ (level ≠ 0 ∧ level ≠ 2 ∧ 92 ≤ temp.toNat))) ∧
      (∀ t, x.belowSince = some t → t + 100000 ≤ s.time → x.lost = false → x.level ≠ 0 →
        ∃ since, exec (.throttleLower k) s = .next (set { x with level := x.level - 1, belowSince := since })) ∧
      (x.belowSince = none ∨ x.lost = true ∨ x.level = 0 → exec (.throttleLower k) s = .next s) ∧
      (x.lost = false → s.boot.poolReady = true → x.lastReport + 100000 ≤ s.time →
        exec (.sensorLost k) s = .next ((set { x with lost := true, level := 2, belowSince := none }).errorRecord
          { code := 0x001A, unit := 12, index := k.val, action := 8 })) ∧
      (s.time < x.lastReport + 100000 → exec (.sensorLost k) s = .next s)) ∧
  (∀ (s : State) (r : Requester) (v data : BitVec 32) (st : BitVec 3), Written s 0x90090 r →
      let fields := v &&& 0x07FC0FFC
      let n := bitsOf v.toNat 21 19
      (s.cfg.busy = true → exec (.ctCfgGo r v) s = .next s.settle) ∧
      (s.cfg.busy = false → bitOf v.toNat 31 = false → exec (.ctCfgGo r v) s = .next ({ s with cfg := { s.cfg with fields := fields } } : State).settle) ∧
      (∀ h : n < 8, s.cfg.busy = false → bitOf v.toNat 31 = true → s.cap[n].st = 1 → (bitOf v.toNat 18 = false ∨ s.cap[n].bifurcated = true) →
        exec (.ctCfgGo r v) s = .next (({ s with
          cfg := { s.cfg with fields := fields, busy := true, status := 0 }, cfgSentAt := s.time } : State).send (.cfgRequest fields s.cfg.data)).settle) ∧
      (∀ h : n < 8, s.cfg.busy = false → bitOf v.toNat 31 = true → (s.cap[n].st ≠ 1 ∨ (bitOf v.toNat 18 = true ∧ s.cap[n].bifurcated = false)) →
        exec (.ctCfgGo r v) s = .next ({ s with cfg := { s.cfg with fields := fields, status := 4 } } : State).settle) ∧
      (s.cfg.busy = true → st.toNat < 4 → (st ≠ 3 ∨ s.cfgSentAt + 50000000 ≤ s.time) →
        exec (.cfgRequestDone st data) s = .next { s with cfg := { s.cfg with
          busy := false, status := st.toNat, data := if st = 0 ∧ bitOf s.cfg.fields.toNat 26 = false then data else s.cfg.data } }) ∧
      (s.cfg.busy = false → exec (.cfgRequestDone st data) s = .next s))

/-! ## Losses and recovery -/

/-- A slice is lost at its second probe in a row without an answer, or at an uncorrectable error; an answer starts the count again; and a lost
slice's started items take new generations (R431, R433, R434).

A control core without a heartbeat for CC_US, or with a bus error, is declared lost: another in service takes over within 14 µs, or the banker
fences the engine with cause 2, at once where none is left or where the lost core was taking over (R435). -/
def Obligations.SlicesAndCoresAreLost : Prop :=
  (∀ (s : State) (q : Fin 4) (answers ue : BitVec 4) (k : Nat), s.alive = true →
      (s.boot.coreLocked = true → exec (.livenessProbe q answers ue) s = .next (([0, 1, 2, 3].foldl (fun s n =>
        s.probeSlice (4 * q.val + n) (bitOf answers.toNat n) (bitOf ue.toNat n)) s).settle)) ∧
      (s.boot.coreLocked = false → exec (.livenessProbe q answers ue) s = .next s) ∧
      ((s.slice k).lost = true → ∀ a u, s.probeSlice k a u = s) ∧
      ((s.slice k).lost = false →
        s.probeSlice k true false = s.updSlice k (fun x => { x with missedProbes := 0 }) ∧
        ((s.slice k).missedProbes = 0 → s.probeSlice k false false = s.updSlice k fun x => { x with missedProbes := 1 }) ∧
        (1 ≤ (s.slice k).missedProbes → s.probeSlice k false false = s.loseSlice k) ∧ (∀ a, s.probeSlice k a true = s.loseSlice k) ∧
        ((s.loseSlice k).slice k).lost = true ∧ ((s.loseSlice k).slice k).reqs = [] ∧ ((s.loseSlice k).slice k).tlb = [])) ∧
  (∀ (s : State) (n m : Fin 4),
      let late := s.err.beatCc.get n + s.ccUs * 1000 ≤ s.time
      let taking := (s.err.awaiting.any fun e => e.2.2 == n.val) = true
      let u := ({ s with err := { s.err with lostCc := s.err.lostCc ||| BitVec.ofNat 4 (2 ^ n.val), irq := s.err.irq ||| 4 } } : State).errorRecord
        { code := 0x0012, unit := 7, index := n.val, action := 7 }
      (s.alive = true → s.boot.ccReleased = true → bitOf s.err.lostCc.toNat n.val = false →
        ((taking ∨ u.liveCores = []) →
          exec (.ccBusError n) s = .next (u.raiseFence 2).settle ∧ (late → exec (.ccWatchExpiry n) s = .next (u.raiseFence 2).settle)) ∧
        (¬taking → u.liveCores ≠ [] → ∃ taker ∈ u.liveCores,
          let v : State := { u.took with err := { u.err with awaiting := u.err.awaiting ++ [(n.val, u.time, taker)] } }
          exec (.ccBusError n) s = .next v.settle ∧ (late → exec (.ccWatchExpiry n) s = .next v.settle))) ∧
      (s.alive = true → ¬late → exec (.ccWatchExpiry n) s = .next s) ∧
      (s.alive = true → s.boot.ccReleased = true → bitOf s.err.lostCc.toNat m.val = false →
        exec (.takeover m n) s = .next { s with err := { s.err with awaiting := s.err.awaiting.filter fun e => e.1 ≠ n.val } }) ∧
      (∀ at_ taker, s.alive = true → (n.val, at_, taker) ∈ s.err.awaiting → at_ + 14000 ≤ s.time → exec (.takeoverTimeout n) s = .next (s.raiseFence 2)) ∧
      (s.alive = true → (∀ e ∈ s.err.awaiting, e.1 ≠ n.val) → exec (.takeoverTimeout n) s = .next s) ∧
      (Written s (0xE0024 + 4 * n.val) (.cc n) →
        exec (.ccHeartbeat n) s = .next ({ s with err := { s.err with beatCc := s.err.beatCc.set n.val s.time } } : State).settle) ∧
      (Written s 0xE0020 .plinth → exec .plinthHeartbeat s = .next ({ s with err := { s.err with beatPlinth := s.time } } : State).settle))

/-- The loss of Plinth, a disagreement of the banker's copies and a write of ER_FENCE.GO fence the engine with causes 1, 3 and 4; a lost unit is
recorded, with its code and index (R426, R436, R437). -/
def Obligations.LossesFence : Prop :=
  ∀ (s : State) (r : Requester), s.alive = true →
    let plinth := (s.errorRecord { code := 0x0013, unit := 8, action := 9 }).raiseFence 1
    (s.boot.plinth.isSome = true → exec .plinthBusError s = .next plinth ∧
      (s.err.beatPlinth + s.plinthUs * 1000 ≤ s.time → exec .plinthWatchExpiry s = .next plinth)) ∧
    (s.time < s.err.beatPlinth + s.plinthUs * 1000 → exec .plinthWatchExpiry s = .next s) ∧
    (exec .bankerDisagree s = .next ((s.errorRecord { code := 0x0014, unit := 9, action := 9 }).raiseFence 3)) ∧
    (Written s 0xE0050 r → exec (.fenceGo r) s = .next (s.raiseFence 4).settle) ∧
    (let lost := fun (u : LostUnit) (code unit index : Nat) =>
       exec (.unitLossDetected u) s = .next (s.errorRecord { code := code, unit := unit, index := index, action := 9 }).settle
     (∀ n : Fin 32, lost (.channelPort n) 0x000B 3 n.val) ∧ (∀ k : Fin 16, lost (.memPll k) 0x000B 3 (2 * k.val)) ∧ lost .corePll 0x0015 0 0 ∧
       lost .cachePll 0x0015 0 1 ∧ lost .controlSram 0x0015 0 2 ∧ ∀ q : Fin 4, lost (.reductionUnit q) 0x0015 13 q.val)

/-- The fence announces the loss, then holds no command, work item, fault, walk or request; a set that was writing is torn and any other is open with
an empty step; and the cache clean puts what was dirty into memory and empties the buffer (R27, R28, R188, R393, R438).

ISOLATE: an engine whose ports have carried nothing for ISOLATE_MS becomes ISOLATED, keeps of its fabric queues only queue 0 of CTX
4,095, and resets its serving state: no work item, stream or walk is left (R395, R398, R399). -/
def Obligations.TheFenceDiscardsWork : Prop :=
  (∀ (s : State) (cause : Nat) (failed : List Nat),
      (s.err.fenced = false →
        let t := s.raiseFence cause
        t.err.fenced = true ∧ t.err.cause = cause ∧ t.err.fenceTime = s.time ∧ t.jobs = [] ∧ t.items = [] ∧ t.faults = [] ∧ t.faultsWaiting = [] ∧
          t.walks = [] ∧ t.memReqs = [] ∧ t.rc.fills = [] ∧ t.fab.remote = [] ∧ t.plans = s.plans ∧ t.contexts = s.contexts ∧
          (∀ e ∈ t.streams, e.2.st = .stopped ∧ e.2.queue = [] ∧ e.2.fetches = []) ∧
          ∀ h x, kget (s.sendLoss cause).tsets h = some x → ∃ y, kget t.tsets h = some y ∧ y.apply = none ∧ y.epoch = x.epoch ∧
            y.st = (if x.st = .writing ∨ x.st = .committing ∨ x.st = .torn then .torn else .opened)) ∧
      (s.err.fenced = true → s.raiseFence cause = s) ∧
      (s.boot.held = false → s.err.fenced = true → s.err.cleanDone = false →
        ∃ t, exec (.cleanDone failed) s = .next t ∧ t.err.cleanDone = true ∧ t.wc = [] ∧ t.mem = (s.putSectors (s.cleanWrites failed)).1.mem ∧
          t.poison = (s.putSectors (s.cleanWrites failed)).1.poison ∧ t.jobs = s.jobs ∧ t.tsets = s.tsets ∧
          ∀ e ∈ t.rc.ways, e.2.sd = 0 ∧ e.2.mir = false) ∧
      ((s.err.fenced = false ∨ s.err.cleanDone = true) → exec (.cleanDone failed) s = .next s)) ∧
  (∀ s : State, s.alive = true →
      (s.cutOff = false → exec .isolate s = .next s) ∧
      (s.cutOff = true →
        let u := ({ s with fab := { s.fab with st := .isolated } } : State).errorRecord { code := 0x000E, unit := 5, action := 10 }
        let v : State := { u with fabqs := (u.fabqs.filter fun (q : FabQueue) => q.ctx == 4095 && q.queue == 0).map fun q => { q with next := 0, buffer := [] } }
        exec .isolate s = .next v.warmReset ∧ v.warmReset.items = [] ∧ v.warmReset.streams = [] ∧ ∀ q ∈ v.fabqs, q.ctx = 4095 ∧ q.queue = 0 ∧ q.next = 0))

/-! ## The fabric -/

/-- SET_NODE, ROUTE_SET, ROUTE_CLEAR, SHARD_SET, NEIGHBOURS and PORT change what their blocks say: the node and the manager's node, an entry of the
route table, a successor, the record of the neighbours, a port; SET_NODE is refused with 0x45 once the engine has joined, and a SHARD_SET of a
TORN set is not served (R215, R387, R389). -/
def Obligations.FabricConfiguration : Prop :=
  ∀ (s : State) (c : CmdId) (j : Job),
    let b := j.block
    let u := s.begin c
    (ReadySub s c j subSetNode → firstBroken [nodeRule b 0, nodeRule b 2, reservedRule b 4 4] = none → u.joined = false →
      let v := u.takeNode (field b 0 2)
      exec (.setNode c) s = .next (({ v with fab := { v.fab with
          mgr := field b 2 2, st := if v.fab.st = EngState.isolated then v.fab.st else .configuring } } : State).complete c).settle ∧
        v.fab.assigned = true ∧ v.fab.node = field b 0 2 ∧ v.mem = u.mem ∧ v.jobs = u.jobs) ∧
    (ReadySub s c j subSetNode → firstBroken [nodeRule b 0, nodeRule b 2, reservedRule b 4 4] = none → u.joined = true →
      EndsAs (.setNode c) s (u.malformed j 0x45 0x8000 (field b 0 2)) s.kept) ∧
    (ReadySub s c j subRouteSet → firstBroken ([nodeRule b 0, reservedRule b 2 6] ++ ([8, 16, 24, 32].map (routeRules b)).flatten) = none →
      EndsAs (.routeSet c) s ((u.setRoutes (field b 0 2) { routes := [8, 16, 24, 32].map (routeOf b) }).complete c) s.kept) ∧
    (ReadySub s c j subRouteClear → firstBroken [nodeRule b 0, reservedRule b 2 6] = none →
      EndsAs (.routeClear c) s ((u.setRoutes (field b 0 2) {}).complete c) s.kept) ∧
    (ReadySub s c j subShardSet → (field b 2 2 < 2 ^ 14 ∨ field b 2 2 = 0xFFFF) → zeroRange b 4 4 = true → s.isTorn (field b 0 2) = true →
      EndsAs (.shardSet c) s (u.complete c stAborted) s.kept) ∧
    (ReadySub s c j subShardSet → (field b 2 2 < 2 ^ 14 ∨ field b 2 2 = 0xFFFF) → zeroRange b 4 4 = true → s.isTorn (field b 0 2) = false →
      let shards := if field b 2 2 = 0xFFFF then serase u.fab.shards (field b 0 2) else sinsert u.fab.shards (field b 0 2) (field b 2 2, field b 8 8)
      EndsAs (.shardSet c) s (({ u with fab := { u.fab with shards := shards } } : State).complete c) s.kept) ∧
    (ReadySub s c j subNeighbours →
      exec (.neighbours c) s = .next (((u.tookN 96).writeVa c ((u.tookN 96).cmdSpace c) (field b 0 8) u.neighbourBytes).complete c).settle) ∧
    (∀ p : Fin 8, ReadySub s c j subPort → field b 0 1 = p.val → zeroRange b 2 6 = true →
      (field b 1 1 = 0 → exec (.port c) s = .next ((u.enablePort p false).complete c).settle) ∧
      (field b 1 1 = 1 → exec (.port c) s = .next ((u.enablePort p true).complete c).settle) ∧
      (field b 1 1 = 2 → exec (.port c) s = .next ((u.retrainPort p).complete c).settle) ∧
      (field b 1 1 = 3 → exec (.port c) s = .next ((u.acceptPort p).complete c).settle))

/-- JOIN puts the engine into service under its manager, sets FB_TIMERS and opens CTX 4,095 to the manager alone; it is refused with 0x45 without
a node, without a route or when serving, and as PROTECTION, reason 0x52, when its right has gone (R391, R409).

DRAIN refuses new commands and waits for those in progress; with none of them left and every image sent the engine is DRAINED and the command
ends; and at its deadline what still runs ends with ABORTED_FAULT (R392). -/
def Obligations.JoiningAndDraining : Prop :=
  ∀ (s : State) (c : CmdId) (j : Job),
    let b := j.block
    let u := s.begin c
    let route := u.hasRoute (field b 0 2)
    let fits := firstBroken (joinRules b) = none
    (ReadyOp s c j opJoin → fits → s.allowed j = true → u.fab.assigned = true → u.fab.st ≠ .serving → route = true →
      exec (.join c) s = .next ((u.joinSystem b).complete c).settle ∧ (u.joinSystem b).fab.st = .serving ∧ (u.joinSystem b).fab.mgr = field b 0 2 ∧
        (u.joinSystem b).regs = (u.setReg 0x80008 (BitVec.ofNat 32 (field b 4 2 * 2 ^ 16 + field b 6 2))).regs ∧
        ∀ x, u.context? 4095 = some x → (u.joinSystem b).context? 4095 = some { x with srcMask := 0x3FFF, srcNode := field b 0 2 }) ∧
    (ReadyOp s c j opJoin → fits → s.allowed j = true → (u.fab.assigned = false ∨ u.fab.st = .serving ∨ route = false) →
      EndsAs (.join c) s (u.malformed j 0x45 0x8000 (field b 0 2)) s.kept) ∧
    (ReadyOp s c j opJoin → fits → s.allowed j = false → EndsAs (.join c) s (u.complete c stProtection (reason 0x52)) s.kept) ∧
    (ReadyOp s c j opDrain → 1 ≤ field b 0 2 → zeroRange b 2 14 = true →
      EndsAs (.drain c) s (({ u with fab := { u.fab with
        st := .draining, drain := some c, drainFor := (u.jobs.map (·.id)).filter (· ≠ c), drainAt := u.time + field b 0 2 * 1000000
        drainLeft := u.fab.shards.map (·.1) } } : State).await c) s.kept) ∧
    (s.alive = true → s.job? c = some j → pktOpcode j.pkt = opDrain → j.parsed = true → j.phase = .waiting → s.faultWait (.job c) = false →
      ((s.jobs.any fun k => s.fab.drainFor.contains k.id) = true → exec (.drain c) s = .next s.settle) ∧
      ((s.jobs.any fun k => s.fab.drainFor.contains k.id) = false → s.fab.drainOut = [] → j.acks = 0 → s.fab.drainCur = none → s.fab.drainLeft = [] →
        exec (.drain c) s = .next (({ s with fab := { s.fab with st := .drained, drain := none } } : State).complete c).settle)) ∧
    (s.alive = true → s.fab.drain.isSome = true → s.fab.drainAt ≤ s.time → s.drainWaits = [] → exec .drainDeadline s = .next s.settle) ∧
    (∀ k, s.alive = true → s.fab.drain.isSome = true → s.fab.drainAt ≤ s.time → s.drainWaits = [k] →
      exec .drainDeadline s = .next ((s.endHold k true).fail k.id stAborted).settle) ∧
    ((s.fab.drain = none ∨ s.time < s.fab.drainAt) → exec .drainDeadline s = .next s)

/-- A port's states: an enabled one trains when its receiver detects signal, says HELLO in DISCOVERY, seeks a working pair when an UP port loses a
lane, goes on DEGRADED, and goes DOWN, with record 0x000D, when it cannot or when the signal is lost (R382, R383, R385, R426).

ACCEPT brings up a held port, RETRAIN trains a degraded one again, and EN takes a port DOWN when it is cleared, as a failed boot holds it; each
leaves a port in any other state (R382, R386, R397, R407).

The timers of a link: ACK after 500 ns without a frame, HELLO every ms, CREDIT for 256 credits or within each µs, JOIN_REQ every 10 ms while the
engine has no node; and an unusable route comes back after 1 ms (R380, R381, R385, R387, R390). -/
def Obligations.PortStates : Prop :=
  (∀ (s : State) (p : Fin 8) (lanes : BitVec 4), s.alive = true →
      let x := s.fport p
      let u := ({ s with fab := { s.fab with lastUp := some s.time } } : State).updFport p fun y =>
        { y with lostLanes := x.lostLanes ||| lanes, st := .realign, since := s.time }
      (s.boot.memLocked = true → x.st = .down → x.en = true → x.noPll = false →
        exec (.signalDetect p) s = .next ((s.train p).updFport p fun x => { x with nbr := {} }) ∧ ((s.train p).fport p).st = .training) ∧
      ((x.st ≠ .down ∨ x.en = false ∨ x.noPll = true) → exec (.signalDetect p) s = .next s) ∧
      (x.st = .training → exec (.trainingComplete p) s = .next ((s.updFport p fun x => { x with st := .discovery }).sendHello p)) ∧
      (x.st ≠ .training → exec (.trainingComplete p) s = .next s) ∧
      (x.st = .up → lanes ≠ 0 → exec (.laneLockLost p lanes) s =
        .next (u.errorRecord { code := 0x000C, unit := 5, index := p.val, action := 8, detail := (x.lostLanes ||| lanes).toNat }).settle) ∧
      (x.st = .degraded → lanes ≠ 0 → (if x.pair then highPairLost lanes else lowPairLost lanes) = true →
        exec (.laneLockLost p lanes) s = .next ((s.updFport p fun x => { x with lostLanes := x.lostLanes ||| lanes }).portFails p).settle) ∧
      (x.st = .realign → (lowPairLost x.lostLanes = false ∨ highPairLost x.lostLanes = false) → s.time ≤ x.since + 12000 →
        exec (.realignComplete p) s = .next ((s.updFport p fun x => { x with pair := lowPairLost x.lostLanes }).portUp p .degraded).settle) ∧
      (x.st = .realign → x.since + 12000 ≤ s.time → exec (.realignTimeout p) s = .next (s.portFails p).settle) ∧
      (x.st = .realign → lowPairLost x.lostLanes = true → highPairLost x.lostLanes = true →
        exec (.realignTimeout p) s = .next (s.portFails p).settle ∧ exec (.realignComplete p) s = .next s) ∧
      (x.st ≠ .down → exec (.lossOfSignal p) s = .next (s.portFails p).settle) ∧ (x.st = .down → exec (.lossOfSignal p) s = .next s)) ∧
  (∀ (s : State) (r : Requester) (p : Fin 8), Written s (0x80140 + 4 * p.val) r →
      let x := s.fport p
      (x.st = .held → exec (.accept r p) s = .next (s.portUp p .up).settle) ∧ (x.st ≠ .held → exec (.accept r p) s = .next s.settle) ∧
      (x.st = .degraded → ∃ t : State, exec (.retrain r p) s = .next t.settle ∧ t.fab.lastUp = some s.time ∧
        t.fport p = { x with st := .training, since := s.time, helloSent := false, lostLanes := 0, pair := false } ∧
        ∀ q, q ≠ p → t.fport q = s.fport q) ∧
      (x.st ≠ .degraded → exec (.retrain r p) s = .next s.settle) ∧
      (exec (.portEn r p true) s = .next (s.updFport p fun x => { x with en := s.boot.stage != 6 }).settle) ∧
      (exec (.portEn r p false) s = .next ((s.portDown p).updFport p fun x => { x with en := false }).settle) ∧
      (x.st = .down → s.portDown p = s)) ∧
  (∀ (s : State) (p : Fin 8) (dst idx : Nat), s.alive = true →
      let x := s.fport p
      (x.talks = true → x.lastTx + 500 ≤ s.time → exec (.ackTimer p) s = .next (s.sendAck p false)) ∧
      ((x.talks = false ∨ s.time < x.lastTx + 500) → exec (.ackTimer p) s = .next s) ∧
      ((x.talks = true ∨ x.st = .discovery) → x.lastHello + 1000000 ≤ s.time → exec (.helloTimer p) s = .next (s.sendHello p)) ∧
      (s.time < x.lastHello + 1000000 → exec (.helloTimer p) s = .next s) ∧
      (x.talks = true → 0 < x.owed → (256 ≤ x.owed ∨ x.lastCredit + 1000 ≤ s.time) → exec (.creditTimer p) s = .next (s.sendCredit p)) ∧
      (x.owed = 0 → exec (.creditTimer p) s = .next s) ∧
      (s.isReady = true → s.fab.assigned = false → s.fab.lastJoinReq + 10000000 ≤ s.time → 
        exec .joinReqTimer s = .next (s.sendJoinReqs (s.fab.rejoin || s.fab.st == .isolated))) ∧
      (s.fab.assigned = true → exec .joinReqTimer s = .next s) ∧
      (exec (.routeUnusableExpiry dst idx) s = .next { s with fab := { s.fab with
        unusable := s.fab.unusable.filter fun u => !(u.1 == dst && u.2.1 == idx && decide (u.2.2 + 1000000 ≤ s.time)) } }))

/-- A routed frame that is not for this engine goes on by its own route once the engine has joined, and is otherwise dropped and counted; one ahead of
its turn is answered with a NAK, a duplicate is discarded, and one with another EtherType or VER is counted; none is delivered (R376, R378,
R381, R387, R390).

A command packet that is next in its queue's order goes to the parser, one up to 63 ahead waits in the queue's buffer, and any other is counted and
discarded; before JOIN only a direct one, or one of the manager, is taken; a STATUS or REG_RESP has no effect (R338, R378, R390). -/
def Obligations.CommandFrames : Prop :=
  (∀ (s : State) (p : Fin 8) (f : Frame),
      ∀ row ∈ [(Instr.cmd p f, ftCmd), (.status p f, ftStatus), (.rdReq p f, ftRdReq), (.rdResp p f, ftRdResp), (.wrReq p f, ftWrReq), (.wrAck p f, ftWrAck),
               (.unreachable p f, ftUnreachable), (.joinReq p f, ftJoinReq), (.regRd p f, ftRegRd), (.regResp p f, ftRegResp)],
        let u := s.received p f
        (Arrives s p f row.2 → s.isMine f = false →
          (f.hopIdx < f.hops → s.joined = true → exec row.1 s = .next ((s.linked p f).forward p f).settle) ∧
          (f.hopIdx < f.hops → s.joined = false → exec row.1 s = .next (u.countEngine 20 1).settle) ∧
          (f.hops ≤ f.hopIdx → exec row.1 s = .next (u.countEngine 19 1).settle)) ∧
        (s.alive = true → f.typ = row.2 → f.etype = s.etherType → f.ver = 1 → (s.fport p).takes row.2 = true →
          (0 < seqAhead f.lseq (s.fport p).rxSeq → seqAhead f.lseq (s.fport p).rxSeq < 2 ^ 15 →
            exec row.1 s = .next ((s.acknowledge p f.lack).sendAck p true).settle) ∧
          (2 ^ 15 ≤ seqAhead f.lseq (s.fport p).rxSeq → exec row.1 s = .next (s.acknowledge p f.lack).settle)) ∧
        (s.alive = true → f.typ = row.2 → f.etype ≠ s.etherType → exec row.1 s = .next (s.countEngine 17 1).settle) ∧
        (s.alive = true → f.typ = row.2 → f.etype = s.etherType → f.ver ≠ 1 → exec row.1 s = .next (s.countEngine 18 1).settle)) ∧
  (∀ (s : State) (p : Fin 8) (f : Frame), s.isMine f = true →
      let u := s.received p f
      let bs := f.payload
      let o : Origin := { port := p.val, node := f.src, back := returnPath f, direct := f.direct }
      (Arrives s p f ftCmd → s.isReady = true → s.cmdAllowed f = true →
        (bs.length < 64 → exec (.cmd p f) s = .next u.settle) ∧
        (∀ x, 64 ≤ bs.length → (s.fabqs.find? fun x => x.ctx == pktCtx bs && x.queue == pktQueue bs) = some x → x.deleting = false →
          let d := (pktSeq bs + 2 ^ 32 - x.next) % 2 ^ 32
          (d < 64 → (x.buffer.any fun e => e.1 == pktSeq bs) = false →
            exec (.cmd p f) s = .next ((u.updFabq (pktCtx bs) (pktQueue bs) fun x =>
              { x with buffer := x.buffer ++ [(pktSeq bs, bs, o)] }).drainFabq (pktCtx bs) (pktQueue bs) 64).settle) ∧
          ((64 ≤ d ∨ (x.buffer.any fun e => e.1 == pktSeq bs) = true) → exec (.cmd p f) s = .next (u.countCtx (pktCtx bs) 10 1).settle)) ∧
        (∀ x, 64 ≤ bs.length → (s.fabqs.find? fun x => x.ctx == pktCtx bs && x.queue == pktQueue bs) = some x → x.deleting = true →
          exec (.cmd p f) s = .next (u.acceptFabric bs o false).settle) ∧
        (64 ≤ bs.length → (s.fabqs.find? fun x => x.ctx == pktCtx bs && x.queue == pktQueue bs) = none →
          exec (.cmd p f) s = .next (u.acceptFabric bs o false).settle)) ∧
      (Arrives s p f ftCmd → (s.isReady = false ∨ s.cmdAllowed f = false) → exec (.cmd p f) s = .next (u.countEngine 20 1).settle) ∧
      (Arrives s p f ftStatus → exec (.status p f) s = .next u.settle) ∧ (Arrives s p f ftRegResp → exec (.regResp p f) s = .next u.settle))

/-- A remote read or write of local memory is served where the engine has joined, the address is memory and the frame's context has the grant, and is
answered with RSTAT 1 or 3 otherwise, a refused one noted; a data answer completes the request that it names, and an answer that names none is
ignored (R309, R325, R379). -/
def Obligations.RemoteAccessesAreServed : Prop :=
  ∀ (s : State) (p : Fin 8) (f : Frame), s.isMine f = true →
    let u := s.received p f
    let v := u.fetchRemoteGrant f
    let no := fun (u : State) (typ st : Nat) => u.sendAnswer (u.answer p f { typ := typ, rstat := st })
    (Arrives s p f ftRdReq → s.joined = false → exec (.rdReq p f) s = .next (no u ftRdResp 1).settle) ∧
    (Arrives s p f ftRdReq → s.joined = true → s.isLocal f.addr = false → exec (.rdReq p f) s = .next (no u ftRdResp 3).settle) ∧
    (Arrives s p f ftRdReq → v.joined = true → v.remoteStatus f f.len false = 1 →
      exec (.rdReq p f) s = .next (no (v.denied f.ctx (localOf f.addr)) ftRdResp 1).settle) ∧
    (Arrives s p f ftRdReq → v.remoteStatus f f.len false = 0 → v.onLostPort (localOf f.addr) = true →
      exec (.rdReq p f) s = .next (no v ftRdResp 2).settle) ∧
    (Arrives s p f ftRdReq → v.remoteStatus f f.len false = 0 → v.onLostPort (localOf f.addr) = false →
      let r := v.loadCounted f.addr f.len (v.remoteAccess f .none)
      (∀ bs, r.2 = some bs → exec (.rdReq p f) s = .next (r.1.sendAnswer (r.1.answer p f { typ := ftRdResp, len := f.len, payload := bs })).settle) ∧
      (r.2 = none → exec (.rdReq p f) s = .next (no r.1 ftRdResp 2).settle)) ∧
    (Arrives s p f ftWrReq → s.joined = false → exec (.wrReq p f) s = .next (no u ftWrAck 1).settle) ∧
    (Arrives s p f ftWrReq → v.joined = true → v.remoteStatus f f.payload.length true = 1 →
      exec (.wrReq p f) s = .next (no (v.denied f.ctx (localOf f.addr)) ftWrAck 1).settle) ∧
    (Arrives s p f ftWrReq → v.remoteStatus f f.payload.length true = 0 →
      let a := v.answer p f { typ := ftWrAck }
      exec (.wrReq p f) s = .next (v.storeLine f.addr f.payload (v.remoteAccess f (.remote a.1 a.2))).1.settle) ∧
    (∀ r, Arrives s p f ftRdResp → s.requestOf f false = some r → f.rstat = 0 → f.payload.length = r.len →
      let w : State := { u with fab := { u.fab with remote := u.fab.remote.erase r } }
      (r.mem = none → exec (.rdResp p f) s =
        .next (((w.keepAnswer r.cmd (r.addr / 256 * 256) (.data f.payload)).parse r.cmd).remoteEnded).settle) ∧
      (∀ m, r.mem = some m → exec (.rdResp p f) s = .next (w.landSectors m (remoteSectors m (some f.payload))).settle)) ∧
    (∀ r, Arrives s p f ftRdResp → s.requestOf f false = some r → f.rstat = 1 → exec (.rdResp p f) s = .next (u.failRemote r stProtection).settle) ∧
    (Arrives s p f ftRdResp → s.requestOf f false = none → exec (.rdResp p f) s = .next u.settle) ∧
    (∀ r, Arrives s p f ftWrAck → s.requestOf f true = some r → f.rstat = 0 →
      exec (.wrAck p f) s =
        .next ((({ u with fab := { u.fab with remote := u.fab.remote.erase r } } : State).notifyWrite (.job r.cmd r.ctx)).remoteEnded).settle) ∧
    (∀ r, Arrives s p f ftWrAck → s.requestOf f true = some r → f.rstat = 3 → exec (.wrAck p f) s = .next (u.failRemote r stAborted).settle) ∧
    (Arrives s p f ftWrAck → s.requestOf f true = none → exec (.wrAck p f) s = .next u.settle) ∧
    (∀ tag r, s.alive = true → (s.fab.remote.find? fun r => r.tag == tag && decide (r.sentAt + s.rtmoUs * 1000 ≤ s.time)) = some r →
      exec (.remoteRequestTimeout tag) s = .next (s.failRemote r stAborted).settle)

/-- Register accesses by the fabric: the peer of FB_REGPEER alone reads and writes the window, and any other source is answered with RSTAT 1; a LOSS
frame of the partner takes its port DOWN; UNREACHABLE marks its route; a serving neighbour sends a direct JOIN_REQ on to the manager (R388, R390,
R393, R396).

Frames of one link: CREDIT gives the partner's credits, ACK acknowledges and, with NAK, replays; HELLO records the partner, brings up a port in
DISCOVERY and holds one whose partner's serial has changed; a bad frame is counted, or answered with a NAK (R376, R378, R380 to R382, R385, R386). -/
def Obligations.ManagementFrames : Prop :=
  (∀ (s : State) (p : Fin 8) (f : Frame),
      let u := s.received p f
      (Arrives s p f ftRegRd → s.isMine f = true → s.regAllowed f = true →
        exec (.regRd p f) s = .next (((u.readReg .fabric f.addr).1).regReply p f true (u.readReg .fabric f.addr).2).settle) ∧
      (Arrives s p f ftRegRd → s.isMine f = true → s.regAllowed f = false → exec (.regRd p f) s = .next (u.regReply p f false 0).settle) ∧
      (Arrives s p f ftRegWr → s.isMine f = true → s.regAllowed f = true → f.payload.length = 4 →
        exec (.regWr p f) s = .next ((u.fabricWrite f).regReply p f true 0).settle) ∧
      (Arrives s p f ftRegWr → s.isMine f = true → s.regAllowed f = false → exec (.regWr p f) s = .next (u.regReply p f false 0).settle) ∧
      (Arrives s p f ftUnreachable → s.isMine f = true → 32 ≤ f.payload.length → exec (.unreachable p f) s = .next (u.markRoute f.payload).settle) ∧
      (Arrives s p f ftJoinReq → s.isMine f = true → f.direct = true → s.fab.st = .serving →
        exec (.joinReq p f) s = .next ((s.linked p f).sendOn p f { f with
          dst := s.fab.mgr, payload := putField (putField f.payload 20 2 s.ownNode) 22 1 p.val }).settle) ∧
      (Arrives s p f ftJoinReq → s.isMine f = true → s.fab.st ≠ .serving → exec (.joinReq p f) s = .next u.settle) ∧
      (Arrives s p f ftLoss → s.isMine f = true → (s.fport p).nbr.valid = true → (s.fport p).nbr.assigned = true → (s.fport p).nbr.node = f.src →
        exec (.loss p f) s = .next (u.portFails p).settle) ∧
      (Arrives s p f ftLoss → s.isMine f = true → (s.fport p).nbr.valid = false → exec (.loss p f) s = .next u.settle)) ∧
  (∀ (s : State) (p : Fin 8) (f : Frame),
      let u := s.acknowledge p f.lack
      let n := neighbourOf f.payload
      let x := u.fport p
      (LinkArrives s p f ftCredit → exec (.credit p f) s = .next ((u.updFport p fun x =>
        { x with creditGot := x.creditGot.mapIdx fun i n => creditTo n (field f.payload (2 * i) 2) }).pumpPort p).settle) ∧
      (LinkArrives s p f ftAck → (f.nak = false ∨ (s.fport p).talks = false) → exec (.ack p f) s = .next (u.pumpPort p).settle) ∧
      (LinkArrives s p f ftAck → f.nak = true → (s.fport p).talks = true → exec (.ack p f) s = .next ((u.replay p).pumpPort p).settle) ∧
      (LinkArrives s p f ftHello → x.nbr.valid = true → x.nbr.serial ≠ n.serial →
        ∃ t : State, exec (.hello p f) s = .next t.settle ∧ t = (u.updFport p fun x => { x with nbr := n }).holdPort p ∧
          (x.waiting = [] → t.fport p = { x with nbr := n, st := .held, nbrChanged := true })) ∧
      (LinkArrives s p f ftHello → (x.nbr.valid = false ∨ x.nbr.serial = n.serial) → x.st = .discovery → x.helloSent = true →
        exec (.hello p f) s = .next (((u.updFport p fun x => { x with nbr := n }).portUp p .up).cameUp p).settle) ∧
      (LinkArrives s p f ftHello → (x.nbr.valid = false ∨ x.nbr.serial = n.serial) → x.st ≠ .discovery →
        exec (.hello p f) s = .next (u.updFport p fun x => { x with nbr := n }).settle) ∧
      (s.alive = true → (s.fport p).talks = true →
        exec (.badFrame p .fcs f) s = .next ((s.countEngine 17 1).sendAck p true).settle ∧
        (f.etype ≠ s.etherType → exec (.badFrame p .etherType f) s = .next (s.countEngine 17 1).settle) ∧
        (0x0F < f.typ → exec (.badFrame p .typ f) s = .next (s.countEngine 18 1).settle) ∧
        (oneLink f.typ = false → (s.fport p).takes f.typ = true → 0 < seqAhead f.lseq (s.fport p).rxSeq → seqAhead f.lseq (s.fport p).rxSeq < 2 ^ 15 →
          exec (.badFrame p .lseq f) s = .next (s.sendAck p true).settle)))

/-! ## Observation and registers -/

/-- QUERY_COUNTERS writes its group's header and entries, captured at one time, to D2; a write of PC_CTL.GO captures every counter for its path and no
other; the entries of a context are its sixteen counters; and the cycles of a unit since the last capture are each counted once, so that its
counters of cycles rise by the cycles of its domain and none falls (R35, R442, R445, R446, R459). Which counter a cycle falls in is the model's
free choice (log entry 38).

TRACE_CTL sets the ring, the types, the threshold and the owner, with TAIL and HEAD at zero, or disables tracing; WAIT_GRAPH writes the graph of
the open waits; HANG_CHECK reports a wait older than HANG_MS once (R451, R455, R456).

DEBUG: a nonce is valid for the next OPEN alone; an OPEN that verifies opens the gate for its scope and time and any other is refused with reason
0x57; the gate closes by CLOSE or at its end; and READ is refused while it is closed or out of scope (R457, R458). -/
def Obligations.ObservationCommands : Prop :=
  (∀ (s : State) (c : CmdId) (j : Job) (r q : Requester),
      let u := (s.begin c).accrue
      let bs := queryBytes (pktOparam j.pkt) (u.now .ctl) (selEntries u.counters c.ctx (pktOparam j.pkt))
      let v := u.updJob c fun j => { j with value0 := bs.length }
      (ReadyOp s c j opQuery → exec (.queryCounters c) s = .next ((v.writeVa c (v.cmdSpace c) ((refVa (pktD2 j.pkt)).getD 0) bs).complete c).settle) ∧
      (Written s 0xC0000 r → ∃ t : State, exec (.pcCapture r) s = .next t.settle ∧
        (t.reqState r).capture = { time := s.now .ctl, counters := s.accrue.counters, taken := true } ∧ t.counters = s.accrue.counters ∧
        t.jobs = s.jobs ∧ t.regs = s.regs ∧ (q ≠ r → t.reqState q = s.reqState q)) ∧
      (∀ i, 0 < i → i < 2 ^ 12 → selEntries s.counters c.ctx (2 * 2 ^ 12 + i) = (List.range 16).map fun k => s.ctr 2 i k) ∧
      (∀ k, k < 84 → s.unitRuns k = true → let d := counterDomain k
        ((List.range 11).map (s.accrue.ctr 0 k)).sum + s.clocks.counted.get d.num =
          ((List.range 11).map (s.ctr 0 k)).sum + max (s.cyclesOf d) (s.clocks.counted.get d.num) ∧
        s.accrue.ctr 0 k 11 = s.ctr 0 k 11 ∧ ∀ i, s.ctr 0 k i ≤ s.accrue.ctr 0 k i)) ∧
  (∀ (s : State) (c : CmdId) (j : Job),
      let b := j.block
      let u := s.begin c
      (ReadyOp s c j opTraceCtl → firstBroken (traceRules b) = none → field b 9 1 = 0 →
        EndsAs (.traceCtl c) s (({ u with trace := u.trace.control b c.ctx [] } : State).complete c) s.kept) ∧
      (∀ pages, ReadyOp s c j opTraceCtl → firstBroken (traceRules b) = none → field b 9 1 = 1 →
        let h := u.holdPages c.ctx ((List.range (2 ^ field b 8 1 / 64)).map fun i => field b 0 8 + 4096 * i) []
        h.2 = (none, pages) →
        exec (.traceCtl c) s = .next (({ h.1 with trace := h.1.trace.control b c.ctx pages } : State).complete c).settle) ∧
      (ReadyOp s c j opWaitGraph →
        let g := u.buildGraph 0
        let v := g.1.updJob c fun j => { j with value0 := g.2.1.cycles.length }
        exec (.waitGraph c) s = .next ((v.writeVa c (v.cmdSpace c) ((refVa (pktD2 j.pkt)).getD 0) g.2.2).complete c).settle) ∧
      (s.alive = true → s.isReady = true → s.trace.lastCheck + 1000000 ≤ s.time →
        let v : State := { s with trace := { s.trace with lastCheck := s.time } }
        (s.trace.waits = [] → exec .hangCheck s = .next v) ∧
        (∀ w rest, s.trace.waits = w :: rest → (s.trace.hangMs = 0 ∨ s.time < w.start + 1000000 * s.trace.hangMs ∨ s.trace.reported = some w) →
          exec .hangCheck s = .next v) ∧
        (∀ w rest, s.trace.waits = w :: rest → s.trace.hangMs ≠ 0 → w.start + 1000000 * s.trace.hangMs ≤ s.time → s.trace.reported ≠ some w →
          exec .hangCheck s = .next (v.reportHang w))) ∧
      (s.time < s.trace.lastCheck + 1000000 → exec .hangCheck s = .next s)) ∧
  (∀ (s : State) (c : CmdId) (j : Job) (sub : Nat), ReadyOp s c j opDebug → field j.block 0 1 = sub → zeroRange j.block 28 4 = true → s.allowed j = true →
      let b := j.block
      let u := s.begin c
      let n := Config.nonce u.fresh
      let v : State := { u.took with dbg := { u.dbg with nonce := some n } }
      let w : State := { u with dbg := { u.dbg with nonce := none } }
      (sub = 0 → exec (.dbgNonce c) s = .next ((v.writeVa c (v.cmdSpace c) (field b 16 8) (leBytes 32 n.toNat)).complete c).settle) ∧
      (sub = 1 → field b 2 2 < 2 ^ 12 → 1 ≤ field b 24 4 → field b 24 4 ≤ 86400 →
        exec (.dbgOpen c) s = .next (if u.openOk b then
            (({ w with dbg := { w.dbg with
              openNow := true, scope := field b 2 2, openings := sat16 (u.dbg.openings + 1), closesAt := u.time + 1000000000 * field b 24 4 } } : State).complete c)
          else w.complete c stProtection (reason 0x57)).settle) ∧
      (sub = 2 → EndsAs (.dbgClose c) s (({ u with dbg := { u.dbg with openNow := false } } : State).complete c)
        { s.kept with dbg := { s.dbg with openNow := false } }) ∧
      (sub = 3 → (u.dbg.openNow = false ∨ u.inScope (field b 1 1) (field b 4 4) = false) →
        EndsAs (.dbgRead c) s (u.complete c stProtection (reason 0x57)) s.kept) ∧
      (sub = 3 → u.dbg.openNow = true → u.inScope (field b 1 1) (field b 4 4) = true → 1 ≤ field b 1 1 → field b 1 1 ≤ 8 →
        field b 4 4 < spaceSize (field b 1 1) → field b 12 4 ≤ 65536 →
        let known := ((u.spaceBytes (field b 1 1) (field b 4 4) u.dbg.scope).drop (field b 8 4)).take (field b 12 4)
        let t := u.tookN (65536 + 512)
        exec (.dbgRead c) s = .next ((t.writeVa c (t.cmdSpace c) (field b 16 8) (known ++ openBytes u.fresh (field b 12 4 - known.length))).complete c).settle) ∧
      ((sub = 3 ∧ u.dbg.openNow = true ∧ u.inScope (field b 1 1) (field b 4 4) = true → spaceSize (field b 1 1) ≤ field b 4 4 → 1 ≤ field b 1 1 →
        field b 1 1 ≤ 8 → EndsAs (.dbgRead c) s (u.malformed j 0x47 0x8004 (field b 4 4)) s.kept))) ∧
  (∀ s : State, s.alive = true →
      (s.dbg.openNow = true → s.dbg.closesAt ≤ s.time → exec .gateExpiry s = .next { s with dbg := { s.dbg with openNow := false } }) ∧
      ((s.dbg.openNow = false ∨ s.time < s.dbg.closesAt) → exec .gateExpiry s = .next s))

/-- A register pair: a read of its low word latches its high word of the same instant for the requester; a write of its high word waits in the
requester's hold until the low word is written; and an access that is not an aligned word has no effect but its error response (R8, R11).

A write reaches its register only from a writer of its table, while its unit is out of reset and, after a fence, for the few that pass it; it
then stores the register's writable bits within their bounds, and clears the bits written 1 of a W1C register (R9, R282, R291, R462, R464, R465). -/
def Obligations.RegisterAccesses : Prop :=
  (∀ (s : State) (r : Requester) (off size : Nat) (v : BitVec 32) (w : Bool),
      (s.boot.held = false → s.boot.ctlLocked = true → isPairLow off = true →
        let x := s.pairValue r off
        ∃ t : State, exec (.lowWordRead r off) s = .next (t.busReply r (BitVec.ofNat 32 x)) ∧
          t = s.updReq r (fun y => { y with latches := sput 0 y.latches off (BitVec.ofNat 32 (x / 2 ^ 32)) })) ∧
      (Written s off r → 4 ≤ off → isRwPair (off - 4) = true →
        exec (.highWordWrite r off v) s = .next (s.updReq r fun x => { x with holds := x.holds.filter (fun e => e.1 ≠ off - 4) ++ [(off - 4, v)] }).settle) ∧
      (Written s off r → isRwPair off = true →
        let low := if off = 0x40000 ∨ off = 0xE0000 then v &&& ~~~0x3F else v
        ((∀ e ∈ (s.reqState r).holds, e.1 ≠ off) → exec (.lowWordWrite r off v) s = .next (s.setReg off low).settle) ∧
        (∀ hi, (s.reqState r).holds.find? (fun e => e.1 == off) = some (off, hi) →
          exec (.lowWordWrite r off v) s = .next (((s.setReg off low).setReg (off + 4) hi).updReq r fun x => { x with
            holds := x.holds.filter fun e => e.1 ≠ off }).settle)) ∧
      (s.boot.held = false → s.boot.ctlLocked = true → goodAccess off size = false → isFabric r = false →
        exec (.badRegisterAccess r off size w) s = .next (s.send (.busError r))) ∧
      (goodAccess off size = true → exec (.badRegisterAccess r off size w) s = .next s)) ∧
  (∀ (s : State) (r : Requester) (off : Nat) (v : BitVec 32),
      (s.writeReaches off r = false → exec (.registerWrite r off v) s = .next s) ∧
      (writerOk off r = false ∨ s.unitUp off = false ∨ (s.err.fenced = true ∧ isPkg r = false ∧ isFabric r = false) ∨ s.boot.ctlLocked = false →
        s.writeReaches off r = false) ∧
      (Written s off r → goodAccess off 4 = false → exec (.registerWrite r off v) s = .next s.settle) ∧
      (Written s 0x30000 r → s.qlocked = true → exec (.registerWrite r 0x30000 v) s = .next s.settle) ∧
      (Written s 0x30000 r → s.qlocked = false →
        exec (.registerWrite r 0x30000 v) s = .next (s.setReg 0x30000 (BitVec.ofNat 32 (min 32 (v &&& storedMask 0x30000).toNat))).settle) ∧
      (Written s 0x20018 r → exec (.registerWrite r 0x20018 v) s = .next (s.setReg 0x20018 (s.reg 0x20018 &&& ~~~v)).settle) ∧
      (Written s 0xC000C r → exec (.registerWrite r 0xC000C v) s = .next (s.updReq r fun x => { x with pcSel := v }).settle) ∧
      (Written s 0xE0050 r → exec (.registerWrite r 0xE0050 v) s = .next (if bitOf v.toNat 0 then s.raiseFence 4 else s).settle))
end

