-- ==== Sys2Proof/Laws/Sparse.lean ====
section
/-! SUPPORT. Sparse collections and memory: what a write changes and what it leaves, and the canonical form that every write keeps. -/

namespace Sys2Proof.Machine

variable {α : Type}

@[simp] theorem sget_nil (d : α) (k : Nat) : sget d [] k = d := rfl

theorem sget_cons (d : α) (a : Nat) (v : α) (m : Sparse α) (k : Nat) :
    sget d ((a, v) :: m) k = if a = k then v else sget d m k := rfl

/-- Reading a key below every listed key gives the default. -/
theorem sget_below (d : α) (m : Sparse α) (k : Nat) (h : ∀ e ∈ m, k < e.1) : sget d m k = d := by
  induction m with
  | nil => rfl
  | cons e m ih =>
    obtain ⟨a, v⟩ := e
    have ha : k < a := h (a, v) (by simp)
    rw [sget_cons, if_neg (by omega), ih fun e he => h e (by simp [he])]

/-- Inserting a key gives it the value and leaves every other key. -/
theorem sget_sinsert (d : α) (m : Sparse α) (k : Nat) (v : α) (k' : Nat) :
    sget d (sinsert m k v) k' = if k = k' then v else sget d m k' := by
  induction m with
  | nil => simp [sinsert, sget_cons]
  | cons e m ih =>
    obtain ⟨a, w⟩ := e
    simp only [sinsert]
    split
    · simp [sget_cons]
    · split
      · subst_vars; simp only [sget_cons]; split <;> rfl
      · simp only [sget_cons, ih]; split <;> split <;> simp_all

/-- The keys after an insertion. -/
theorem mem_sinsert_key (m : Sparse α) (k : Nat) (v : α) (e : Nat × α) (h : e ∈ sinsert m k v) : e.1 = k ∨ e ∈ m := by
  induction m with
  | nil => simp [sinsert] at h; simp [h]
  | cons x m ih =>
    obtain ⟨a, w⟩ := x
    simp only [sinsert] at h
    split at h
    · rcases List.mem_cons.1 h with h | h
      · simp [h]
      · exact Or.inr h
    · split at h
      · rcases List.mem_cons.1 h with h | h
        · simp [h]
        · simp [h]
      · rcases List.mem_cons.1 h with h | h
        · simp [h]
        · rcases ih h with h | h <;> simp [h]

theorem mem_serase (m : Sparse α) (k : Nat) (e : Nat × α) (h : e ∈ serase m k) : e ∈ m := by
  induction m with
  | nil => simp [serase] at h
  | cons x m ih =>
    obtain ⟨a, w⟩ := x
    simp only [serase] at h
    split at h
    · exact List.mem_cons_of_mem _ h
    · rcases List.mem_cons.1 h with h | h
      · simp [h]
      · exact List.mem_cons_of_mem _ (ih h)

variable [DecidableEq α]

theorem swf_cons (d : α) (k : Nat) (v : α) (m : Sparse α) :
    swf d ((k, v) :: m) = true ↔ v ≠ d ∧ (∀ e ∈ m, k < e.1) ∧ swf d m = true := by
  simp [swf, and_assoc]

theorem swf_sinsert (d : α) (m : Sparse α) (k : Nat) (v : α) (hv : v ≠ d) (h : swf d m = true) : swf d (sinsert m k v) = true := by
  induction m with
  | nil => simp [sinsert, swf, hv]
  | cons x m ih =>
    obtain ⟨a, w⟩ := x
    obtain ⟨hw, hlt, hm⟩ := (swf_cons d a w m).1 h
    simp only [sinsert]
    split
    next hk =>
      refine (swf_cons ..).2 ⟨hv, ?_, h⟩
      intro e he
      rcases List.mem_cons.1 he with rfl | he
      · exact hk
      · exact hk.trans (hlt e he)
    next hk =>
      split
      next hka => subst hka; exact (swf_cons ..).2 ⟨hv, hlt, hm⟩
      next hka =>
        refine (swf_cons ..).2 ⟨hw, ?_, ih hm⟩
        intro e he
        rcases mem_sinsert_key m k v e he with h | h
        · omega
        · exact hlt e h

theorem swf_serase (d : α) (m : Sparse α) (k : Nat) (h : swf d m = true) : swf d (serase m k) = true := by
  induction m with
  | nil => rfl
  | cons x m ih =>
    obtain ⟨a, w⟩ := x
    obtain ⟨hw, hlt, hm⟩ := (swf_cons d a w m).1 h
    simp only [serase]
    split
    · exact hm
    · exact (swf_cons ..).2 ⟨hw, fun e he => hlt e (mem_serase m k e he), ih hm⟩

/-- A write keeps the canonical form. -/
theorem swf_sput (d : α) (m : Sparse α) (k : Nat) (v : α) (h : swf d m = true) : swf d (sput d m k v) = true := by
  unfold sput
  split
  · exact swf_serase d m k h
  · exact swf_sinsert d m k v (by assumption) h

theorem sget_serase (d : α) (m : Sparse α) (k k' : Nat) (h : swf d m = true) :
    sget d (serase m k) k' = if k = k' then d else sget d m k' := by
  induction m with
  | nil => simp [serase]
  | cons x m ih =>
    obtain ⟨a, w⟩ := x
    obtain ⟨hw, hlt, hm⟩ := (swf_cons d a w m).1 h
    simp only [serase]
    split
    next hak =>
      subst hak
      by_cases hk : a = k'
      · subst hk; simp [sget_below d m a hlt]
      · simp [sget_cons, hk]
    next hak =>
      simp only [sget_cons, ih hm]
      split <;> split <;> simp_all

/-- A write gives its key the value and leaves every other key. -/
theorem sget_sput (d : α) (m : Sparse α) (k : Nat) (v : α) (k' : Nat) (h : swf d m = true) :
    sget d (sput d m k v) k' = if k = k' then v else sget d m k' := by
  unfold sput
  split
  next hv => subst hv; exact sget_serase v m k k' h
  next => exact sget_sinsert d m k v k'

/-! ## Memory -/

@[simp] theorem memory_wf_nil : Memory.wf [] = true := rfl

theorem memory_wf_put (m : List Host.Cell) (a : Nat) (b : Byte) (h : Memory.wf m = true) : Memory.wf (memPut m a b) = true :=
  swf_sput emptyByte m a b h

/-- Every write of bytes keeps the canonical form of memory. -/
theorem memory_wf_putBytes (bs : List Byte) (m : List Host.Cell) (a : Nat) (h : Memory.wf m = true) :
    Memory.wf (memPutBytes m a bs) = true := by
  induction bs generalizing m a with
  | nil => exact h
  | cons b bs ih => exact ih _ _ (memory_wf_put m a b h)

/-- A byte written reads back, and every other byte is as before. -/
theorem memByte_put (m : List Host.Cell) (a : Nat) (b : Byte) (a' : Nat) (h : Memory.wf m = true) :
    memByte (memPut m a b) a' = if a = a' then b else memByte m a' := sget_sput emptyByte m a b a' h

/-- Bytes written leave every byte outside their range. -/
theorem memByte_putBytes_outside (bs : List Byte) (m : List Host.Cell) (a a' : Nat) (h : Memory.wf m = true)
    (ho : a' < a ∨ a + bs.length ≤ a') : memByte (memPutBytes m a bs) a' = memByte m a' := by
  induction bs generalizing m a with
  | nil => rfl
  | cons b bs ih =>
    simp only [List.length_cons] at ho
    rw [memPutBytes, ih _ _ (memory_wf_put m a b h) (by omega), memByte_put m a b a' h, if_neg (by omega)]

/-- Bytes written read back. -/
theorem memByte_putBytes_inside (bs : List Byte) (m : List Host.Cell) (a i : Nat) (h : Memory.wf m = true) (hi : i < bs.length) :
    memByte (memPutBytes m a bs) (a + i) = bs[i] := by
  induction bs generalizing m a i with
  | nil => simp at hi
  | cons b bs ih =>
    rw [memPutBytes]
    cases i with
    | zero =>
      show memByte (memPutBytes (memPut m a b) (a + 1) bs) a = b
      rw [memByte_putBytes_outside bs _ (a + 1) a (memory_wf_put m a b h) (by omega), memByte_put m a b a h]
      simp
    | succ i =>
      have := ih (memPut m a b) (a + 1) i (memory_wf_put m a b h) (by simpa using hi)
      rw [show a + (i + 1) = a + 1 + i by omega, this]
      simp

end Sys2Proof.Machine
end

