-- ==== Sys2Proof/Laws/Memory.lean ====
section
/-! SUPPORT. Writes of sectors to memory: the one operation that changes memory keeps its canonical form and leaves every other byte. -/

namespace Sys2Proof.Machine

theorem mergeBytes_length (mask : Nat) (old new : List Byte) : (mergeBytes mask old new).length = old.length := by
  simp [mergeBytes]

theorem leBytes_length (n v : Nat) : (leBytes n v).length = n := by
  induction n generalizing v with
  | zero => rfl
  | succ n ih => simp [leBytes, ih]

/-- Everything a sector write can do: memory gets the merged bytes or keeps its own; poison and the counter of free values follow; nothing
else changes. -/
theorem putSector_cases (s : State) (w : SectorWrite) :
    ∃ p n, (s.putSector w).1 = { s with poison := p, fresh := n } ∨
      (s.putSector w).1 = { s with
        mem := memPutBytes s.mem w.addr (mergeBytes w.mask (sectorBytes (rawSector s.mem w.addr)) w.bytes), poison := p, fresh := n } := by
  unfold State.putSector
  dsimp only
  split
  · exact ⟨_, _, Or.inr rfl⟩
  · split
    · exact ⟨_, _, Or.inr rfl⟩
    · split
      · split
        · exact ⟨s.poison, s.fresh, Or.inl rfl⟩
        · split <;> exact ⟨_, _, Or.inr rfl⟩
      · exact ⟨s.poison, s.fresh, Or.inr rfl⟩

/-- A sector write keeps the canonical form of memory. -/
theorem putSector_wf (s : State) (w : SectorWrite) (h : Memory.wf s.mem = true) : Memory.wf (s.putSector w).1.mem = true := by
  obtain ⟨p, n, e | e⟩ := putSector_cases s w
  · rw [e]; exact h
  · rw [e]; exact memory_wf_putBytes _ _ _ h

/-- A sector write leaves every byte outside its sector. -/
theorem putSector_outside (s : State) (w : SectorWrite) (a : Nat) (h : Memory.wf s.mem = true) (ho : a < w.addr ∨ w.addr + 64 ≤ a) :
    memByte (s.putSector w).1.mem a = memByte s.mem a := by
  obtain ⟨p, n, e | e⟩ := putSector_cases s w
  · rw [e]
  · rw [e]
    exact memByte_putBytes_outside _ _ _ _ h (by simpa [mergeBytes_length, sectorBytes, leBytes_length] using ho)

/-- Sector writes keep the canonical form of memory. -/
theorem putSectors_wf (ws : List SectorWrite) (s : State) (h : Memory.wf s.mem = true) : Memory.wf (s.putSectors ws).1.mem = true := by
  induction ws generalizing s with
  | nil => exact h
  | cons w ws ih => exact ih _ (putSector_wf s w h)

/-- Sector writes leave every byte outside their sectors. -/
theorem putSectors_outside (ws : List SectorWrite) (s : State) (a : Nat) (h : Memory.wf s.mem = true)
    (ho : ∀ w ∈ ws, a < w.addr ∨ w.addr + 64 ≤ a) : memByte (s.putSectors ws).1.mem a = memByte s.mem a := by
  induction ws generalizing s with
  | nil => rfl
  | cons w ws ih =>
    have := ih (s.putSector w).1 (putSector_wf s w h) fun x hx => ho x (List.mem_cons_of_mem _ hx)
    exact this.trans (putSector_outside s w a h (ho w (by simp)))

end Sys2Proof.Machine
end

