-- ==== Sys2Proof/Laws/Kept.lean ====
section
/-! SUPPORT. Translations, accesses to memory, frames, records and status records leave the part of the state that `State.kept` names: one
lemma per operation. -/

namespace Sys2Proof.Machine

@[simp] theorem kept_count (s : State) (g o i n : Nat) : (s.count g o i n).kept = s.kept := rfl
@[simp] theorem kept_countCtx (s : State) (o i n : Nat) : (s.countCtx o i n).kept = s.kept := rfl
@[simp] theorem kept_countEngine (s : State) (i n : Nat) : (s.countEngine i n).kept = s.kept := rfl
@[simp] theorem kept_unitWork (s : State) (u n : Nat) : (s.unitWork u n).kept = s.kept := rfl
@[simp] theorem kept_moved (s : State) (t : Target) (n : Nat) : (s.moved t n).kept = s.kept := by cases t <;> rfl
@[simp] theorem kept_took (s : State) : s.took.kept = s.kept := rfl
@[simp] theorem kept_send (s : State) (m : PkgMsg) : (s.send m).kept = s.kept := rfl
@[simp] theorem kept_updJob (s : State) (c : CmdId) (f : Job → Job) : (s.updJob c f).kept = s.kept := rfl
theorem kept_updRing (s : State) (i : Nat) (f : Ring → Ring) (h : ∀ q, (f q).ctx = q.ctx ∧ (f q).queue = q.queue) : (s.updRing i f).kept = s.kept := by
  have hr : (s.updRing i f).rings.map (fun e => (e.1, e.2.ctx, e.2.queue)) = s.rings.map fun e => (e.1, e.2.ctx, e.2.queue) := by
    unfold State.updRing
    rw [List.map_map]
    apply List.map_congr_left
    intro e _
    dsimp only [Function.comp]
    split
    · rename_i he; simp [he, h]
    · rfl
  unfold State.kept
  rw [hr]
  rfl
@[simp] theorem kept_updTset (s : State) (c : Nat) (f : TableSet → TableSet) : (s.updTset c f).kept = s.kept := rfl
@[simp] theorem kept_setFport (s : State) (p : Fin 8) (x : Port) : (s.setFport p x).kept = s.kept := rfl
@[simp] theorem kept_updFport (s : State) (p : Fin 8) (f : Port → Port) : (s.updFport p f).kept = s.kept := rfl
@[simp] theorem kept_queueFrame (s : State) (p : Fin 8) (f : Frame) : (s.queueFrame p f).kept = s.kept := rfl
@[simp] theorem kept_dropJob (s : State) (c : CmdId) : (s.dropJob c).kept = s.kept := rfl
@[simp] theorem kept_setWay (s : State) (set w : Nat) (x : Way) : (s.setWay set w x).kept = s.kept := rfl
@[simp] theorem kept_touch (s : State) (set w : Nat) : (s.touch set w).kept = s.kept := rfl
@[simp] theorem kept_tlb2Fill (s : State) (e : TlbEntry) : (s.tlb2Fill e).kept = s.kept := rfl
@[simp] theorem kept_traceDrop (s : State) (t : Nat) : (s.traceDrop t).kept = s.kept := rfl
@[simp] theorem kept_mem (s : State) (m : List Host.Cell) (p : List Nat) (n : Nat) : ({ s with mem := m, poison := p, fresh := n } : State).kept = s.kept := rfl
@[simp] theorem kept_poison (s : State) (p : List Nat) (n : Nat) : ({ s with poison := p, fresh := n } : State).kept = s.kept := rfl
@[simp] theorem kept_wc (s : State) (w : List WcEntry) : ({ s with wc := w } : State).kept = s.kept := rfl
@[simp] theorem kept_err (s : State) (w : Errors) : ({ s with err := w } : State).kept = s.kept := rfl
@[simp] theorem kept_trace (s : State) (w : Trace) : ({ s with trace := w } : State).kept = s.kept := rfl
@[simp] theorem kept_rc (s : State) (w : RowCache) : ({ s with rc := w } : State).kept = s.kept := rfl
@[simp] theorem kept_fab (s : State) (w : Fabric) : ({ s with fab := w } : State).kept = s.kept := rfl
@[simp] theorem kept_jobs (s : State) (w : List Job) : ({ s with jobs := w } : State).kept = s.kept := rfl
@[simp] theorem kept_feeder (s : State) (w : Feeder) : ({ s with feeder := w } : State).kept = s.kept := rfl
@[simp] theorem kept_countSet (s : State) (t i n : Nat) : (s.countSet t i n).kept = s.kept := rfl
@[simp] theorem kept_tsets (s : State) (w : List (Nat × TableSet)) : ({ s with tsets := w } : State).kept = s.kept := rfl
@[simp] theorem kept_faults (s : State) (w : List FaultSlot) : ({ s with faults := w } : State).kept = s.kept := rfl
@[simp] theorem kept_faultsWaiting (s : State) (w : List FaultSlot) : ({ s with faultsWaiting := w } : State).kept = s.kept := rfl

/-! ## Memory and the row cache -/

/-- A fold of steps that each keep. -/
theorem kept_foldl {α : Type} (l : List α) (f : State → α → State) (h : ∀ s a, (f s a).kept = s.kept) (s : State) : (l.foldl f s).kept = s.kept := by
  induction l generalizing s with
  | nil => rfl
  | cons a l ih => rw [List.foldl_cons, ih, h]

@[simp] theorem kept_chargeTo (s : State) (p d n : Nat) : (s.chargeTo p d n).kept = s.kept := by
  unfold State.chargeTo; dsimp only; split
  · rfl
  · split
    · rfl
    · split <;> rfl

@[simp] theorem kept_notifyWrite (s : State) (w : Waiter) : (s.notifyWrite w).kept = s.kept := by
  unfold State.notifyWrite; split
  · rfl
  · simp
  · split <;> simp

@[simp] theorem kept_notifyAll (s : State) (ws : List Waiter) : (s.notifyAll ws).kept = s.kept :=
  kept_foldl _ _ kept_notifyWrite s

@[simp] theorem kept_putSector (s : State) (w : SectorWrite) : (s.putSector w).1.kept = s.kept := by
  obtain ⟨p, n, h | h⟩ := putSector_cases s w <;> rw [h] <;> rfl

@[simp] theorem kept_putSectors (ws : List SectorWrite) (s : State) : (s.putSectors ws).1.kept = s.kept := by
  induction ws generalizing s with
  | nil => rfl
  | cons w l ih => simp [State.putSectors, ih]

@[simp] theorem kept_startDrain (s : State) (line : Nat) : (s.startDrain line).1.kept = s.kept := by
  unfold State.startDrain; split
  · rfl
  · dsimp only; split <;> simp

@[simp] theorem kept_wcMerge (s : State) (w : LineWrite) : (s.wcMerge w).kept = s.kept := by
  unfold State.wcMerge; dsimp only
  generalize hc : s.chargeTo _ _ _ = t
  have h : t.kept = s.kept := by rw [← hc, kept_chargeTo]
  split <;> exact h

@[simp] theorem kept_wcPressure (q fuel : Nat) (s : State) : (s.wcPressure q fuel).1.kept = s.kept := by
  induction fuel generalizing s with
  | zero => rfl
  | succ n ih =>
    unfold State.wcPressure; split
    · split
      · dsimp only; rw [ih]; simp
      · rfl
    · rfl

@[simp] theorem kept_wcEnter (s : State) (w : LineWrite) : (s.wcEnter w).1.kept = s.kept := by
  unfold State.wcEnter; dsimp only; split <;> simp

@[simp] theorem kept_wcPut (s : State) (w : LineWrite) : (s.wcPut w).1.kept = s.kept := by
  unfold State.wcPut; split <;> simp

@[simp] theorem kept_recordWrite (s : State) (a : Nat) (bs : List Byte) : (s.recordWrite a bs).1.kept = s.kept := by
  unfold State.recordWrite; dsimp only; split
  · rfl
  · split <;> simp

@[simp] theorem kept_recorded (s : State) (e : ErrInfo) (t slot next : Nat) (bs : List Byte) : (s.recorded e t slot next bs).kept = s.kept := by
  unfold State.recorded; exact kept_err s _

@[simp] theorem kept_recordOne (s : State) (e : ErrInfo) : (s.recordOne e).1.kept = s.kept := by
  unfold State.recordOne; dsimp only; split
  · rw [kept_recordWrite, kept_err]
  · split
    · rw [kept_countEngine, kept_err]
    · rw [kept_recorded, kept_recordWrite]

@[simp] theorem kept_errorChain (fuel : Nat) (s : State) (e : ErrInfo) : (s.errorChain e fuel).kept = s.kept := by
  induction fuel generalizing s e with
  | zero => unfold State.errorChain; simp
  | succ n ih =>
    unfold State.errorChain; dsimp only
    rw [kept_foldl _ _ (fun s a => ih s (s.lossInfo a)), kept_recordOne]

@[simp] theorem kept_errorRecord (s : State) (e : ErrInfo) : (s.errorRecord e).kept = s.kept := by
  unfold State.errorRecord; exact kept_errorChain _ s e

@[simp] theorem kept_lossRecords (s : State) (bad : List Nat) : (s.lossRecords bad).kept = s.kept :=
  kept_foldl _ _ (fun s _ => kept_errorRecord s _) s

@[simp] theorem kept_drain (s : State) (line : Nat) : (s.drain line).kept = s.kept := by
  unfold State.drain; dsimp only; simp

@[simp] theorem kept_wcWrite (s : State) (w : LineWrite) : (s.wcWrite w).kept = s.kept := by
  unfold State.wcWrite; dsimp only; simp

@[simp] theorem kept_unpark (es : List WcEntry) (s : State) : (s.unpark es).kept = s.kept := by
  induction es generalizing s with
  | nil => rfl
  | cons e l ih => unfold State.unpark; dsimp only; split <;> simp [ih]

@[simp] theorem kept_unparkAll (s : State) : s.unparkAll.kept = s.kept := kept_unpark _ s

@[simp] theorem kept_wcBytes (s : State) (pa : Nat) (bs : List Byte) (part : Nat) (ws : List Waiter) (h : Option Nat) :
    (s.wcBytes pa bs part ws h).kept = s.kept := by
  unfold State.wcBytes; simp

@[simp] theorem kept_wcAck (s : State) (line : Nat) : (s.wcAck line).kept = s.kept := by
  unfold State.wcAck; split
  · rfl
  · rename_i e _
    dsimp only; rw [kept_unparkAll]
    generalize hu : ({ s with wc := s.wc.erase e } : State).notifyAll e.waiters = u
    have h : u.kept = s.kept := by rw [← hu, kept_notifyAll, kept_wc]
    clear hu
    rw [apply_ite State.kept, kept_send, ite_self, h]

@[simp] theorem kept_settleLine (s : State) (line : Nat) : (s.settleLine line).kept = s.kept := by
  have h (n : Nat) (s : State) : (foldN n s fun s _ => s.wcAck line).kept = s.kept := by
    induction n with
    | zero => rfl
    | succ n ih => unfold foldN; rw [kept_wcAck, ih]
  unfold State.settleLine; dsimp only; rw [h]; split <;> simp

@[simp] theorem kept_replace (s : State) (set a : Nat) : (s.replace set a).1.kept = s.kept := by
  unfold State.replace; split
  · dsimp only; split <;> simp
  · rfl

@[simp] theorem kept_victim (s : State) (set a : Nat) : (s.victim set a).1.kept = s.kept := by
  unfold State.victim; dsimp only; split
  · rfl
  · split
    · rfl
    · exact kept_replace _ _ _

@[simp] theorem kept_freeMirror (s : State) (set w : Nat) : (s.freeMirror set w).kept = s.kept := by
  unfold State.freeMirror; split <;> simp

@[simp] theorem kept_cleanWay (s : State) (set w part : Nat) : (s.cleanWay set w part).kept = s.kept := by
  unfold State.cleanWay; dsimp only; split <;> simp

@[simp] theorem kept_evict (s : State) (set w part : Nat) : (s.evict set w part).kept = s.kept := by
  unfold State.evict; dsimp only; rw [kept_setWay]; split <;> simp

@[simp] theorem kept_cleanPrimaryOf (s : State) (set m part : Nat) : (s.cleanPrimaryOf set m part).kept = s.kept := by
  unfold State.cleanPrimaryOf; simp

@[simp] theorem kept_mirrorPlace (s : State) (set part : Nat) : (s.mirrorPlace set part).1.kept = s.kept := by
  unfold State.mirrorPlace; dsimp only
  split
  · simp
  · split
    · simp
    · split
      · simp
      · split <;> simp

@[simp] theorem kept_mirrorWay (s : State) (set w part : Nat) : (s.mirrorWay set w part).kept = s.kept := by
  unfold State.mirrorWay; dsimp only
  split
  · simp
  · split <;> simp

@[simp] theorem kept_allocRead (s : State) (pa mask : Nat) (acc : Access) : (s.allocRead pa mask acc).kept = s.kept := by
  unfold State.allocRead; dsimp only
  split
  · simp
  · split
    · simp
    · split
      · simp
      · split <;> simp

@[simp] theorem kept_readMem (s : State) (pa n part : Nat) : (s.readMem pa n part).kept = s.kept := by unfold State.readMem; simp

@[simp] theorem kept_fillMissing (s : State) (set w line mask : Nat) : (s.fillMissing set w line mask).kept = s.kept := by
  unfold State.fillMissing; split <;> simp

@[simp] theorem kept_noteRead (s : State) (pa mask : Nat) (acc : Access) : (s.noteRead pa mask acc).kept = s.kept := by
  unfold State.noteRead; dsimp only
  generalize hu : (if s.noWays (setOf (lineNo (localOf pa))) (s.classMask acc.cls) then s.countEngine acc.cls 1 else s) = u
  have h : u.kept = s.kept := by rw [← hu]; split <;> simp
  split
  · rw [kept_unitWork, kept_touch]; split <;> simp [h]
  · split <;> simp [h]

@[simp] theorem kept_readError (s : State) (e : ErrInfo) (pa : Nat) : (s.readError e pa).kept = s.kept := by
  unfold State.readError; split <;> simp

@[simp] theorem kept_load (s : State) (pa n : Nat) (acc : Access) : (s.load pa n acc).1.kept = s.kept := by
  unfold State.load; dsimp only
  split
  · exact kept_foldl _ _ (fun s l => kept_noteRead s _ _ _) s
  · rw [kept_foldl _ _ (fun s l => kept_readError s _ _)]; exact kept_foldl _ _ (fun s l => kept_noteRead s _ _ _) s

@[simp] theorem kept_updatePresent (s : State) (a : Nat) (bs : List Byte) (part : Nat) : (s.updatePresent a bs part).kept = s.kept := by
  unfold State.updatePresent; dsimp only
  split
  · rfl
  · split <;> simp

@[simp] theorem kept_writeThrough (s : State) (pa : Nat) (bs : List Byte) (acc : Access) : (s.writeThrough pa bs acc).kept = s.kept := by
  unfold State.writeThrough; simp

@[simp] theorem kept_tellWriter (s : State) (line : Nat) (w : Waiter) : (s.tellWriter line w).kept = s.kept := by
  unfold State.tellWriter; split <;> simp

@[simp] theorem kept_registerWay (s : State) (set w line : Nat) : (s.registerWay set w line).kept = s.kept := by
  unfold State.registerWay; dsimp only; split
  · rw [kept_rc, kept_send, kept_setWay]
  · rfl

@[simp] theorem kept_writeWay (s : State) (set w pa : Nat) (bs : List Byte) (acc : Access) : (s.writeWay set w pa bs acc).1.kept = s.kept := by
  unfold State.writeWay; dsimp only
  generalize hu : (if fillsFor (s.way set w) (pa % 256) bs.length = 0 then s
    else s.readMem pa (64 * popCount (fillsFor (s.way set w) (pa % 256) bs.length) 4) acc.part) = u
  have h : u.kept = s.kept := by rw [← hu]; split <;> simp
  split
  · simp [h]
  · rw [kept_tellWriter, kept_registerWay]; split <;> simp [h]

@[simp] theorem kept_block (s : State) (b : Blocked) : (s.block b).kept = s.kept := rfl

@[simp] theorem kept_writeBack (s : State) (pa : Nat) (bs : List Byte) (acc : Access) : (s.writeBack pa bs acc).1.kept = s.kept := by
  unfold State.writeBack; dsimp only
  split
  · simp
  · split
    · simp
    · split <;> simp

@[simp] theorem kept_storeLine (s : State) (pa : Nat) (bs : List Byte) (acc : Access) : (s.storeLine pa bs acc).1.kept = s.kept := by
  unfold State.storeLine; split
  · simp
  · split <;> simp

@[simp] theorem kept_store (s : State) (pa : Nat) (bs : List Byte) (acc : Access) : (s.store pa bs acc).1.kept = s.kept := by
  unfold State.store
  generalize pieces pa bs = l
  generalize true = ok
  induction l generalizing s ok with
  | nil => rfl
  | cons p l ih => rw [List.foldl_cons]; exact (ih _ _).trans (kept_storeLine s _ _ _)

@[simp] theorem kept_undecoded (s : State) (pa : Nat) : (s.undecoded pa).kept = s.kept := by unfold State.undecoded; simp

@[simp] theorem kept_storeFirmware (s : State) (pa : Nat) (bs : List Byte) : (s.storeFirmware pa bs).kept = s.kept := by
  unfold State.storeFirmware; split <;> simp

@[simp] theorem kept_fresh (s : State) (n : Nat) : ({ s with fresh := n } : State).kept = s.kept := rfl

@[simp] theorem kept_loadFirmware (s : State) (pa n : Nat) (acc : Access) : (s.loadFirmware pa n acc).1.kept = s.kept := by
  unfold State.loadFirmware; split <;> simp

@[simp] theorem kept_grantCache (s : State) (g : Sparse (List (Nat × Nat))) : ({ s with grantCache := g } : State).kept = s.kept := rfl

@[simp] theorem kept_dropGrants (s : State) : s.dropGrants.kept = s.kept := rfl

@[simp] theorem kept_fetchGrant (s : State) (ctx a : Nat) : (s.fetchGrant ctx a).kept = s.kept := by
  unfold State.fetchGrant; split
  · rfl
  · split
    · simp
    · split
      · rfl
      · dsimp only; rw [kept_grantCache, kept_took, kept_noteRead]

@[simp] theorem kept_repairGrant (s : State) (a : Nat) : (s.repairGrant a).kept = s.kept := by
  unfold State.repairGrant; dsimp only; split
  · rw [kept_dropGrants, kept_storeFirmware, kept_readError]
  · rfl

@[simp] theorem kept_denied (s : State) (c a : Nat) : (s.denied c a).kept = s.kept :=
  (kept_countCtx (s.repairGrant a) c 11 1).trans (kept_repairGrant s a)

/-! ## The wait table and the trace ring -/

@[simp] theorem kept_traceNext (s : State) (n : Nat) : (s.traceNext n).kept = s.kept := rfl

@[simp] theorem kept_tracePut (s : State) (w : Wait) (t : Bool) (d : Nat) : (s.tracePut w t d).kept = s.kept := by
  unfold State.tracePut; dsimp only
  split
  · rw [kept_traceDrop]
  · split
    · rw [kept_traceDrop, kept_denied, kept_fetchGrant]
    · rw [kept_traceNext, kept_store, kept_fetchGrant]

@[simp] theorem kept_traceLoss (s : State) : s.traceLoss.kept = s.kept := by
  unfold State.traceLoss; split
  · rfl
  · rw [kept_trace, kept_tracePut]

@[simp] theorem kept_traceWrite (s : State) (w : Wait) (t : Bool) (d : Nat) : (s.traceWrite w t d).kept = s.kept := by
  unfold State.traceWrite; dsimp only; split <;> simp

@[simp] theorem kept_openWait (s : State) (a b c d e : Nat) : (s.openWait a b c d e).kept = s.kept := by
  unfold State.openWait; split <;> rfl

@[simp] theorem kept_closeWait (s : State) (typ w : Nat) (t : Bool) (h d : Option Nat) : (s.closeWait typ w t h d).kept = s.kept := by
  unfold State.closeWait; split
  · rfl
  · dsimp only; split <;> simp

@[simp] theorem kept_dropWaits (s : State) (w : Nat) (t : Bool) : (s.dropWaits w t).kept = s.kept :=
  kept_foldl _ _ (fun s _ => kept_closeWait s _ _ _ _ _) s

/-! ## Translation and faults -/

@[simp] theorem kept_noteWalk (s : State) (g : Segment) (va : Nat) : (s.noteWalk g va).kept = s.kept := by
  unfold State.noteWalk; dsimp only
  rw [kept_foldl _ _ (fun s l => kept_readError s _ _)]; exact kept_foldl _ _ (fun s l => kept_noteRead s _ _ _) s

@[simp] theorem kept_xlate (s : State) (ctx va : Nat) (w : Bool) : (s.xlate ctx va w).1.kept = s.kept := by
  unfold State.xlate; split
  · rfl
  · split
    · rfl
    · split
      · rfl
      · dsimp only; split <;> simp

theorem kept_freePick (s : State) (l : List Nat) (n : Nat) : (s.freePick l n).1.kept = s.kept := by
  unfold State.freePick; dsimp only; split <;> rfl

@[simp] theorem kept_raiseFault (s : State) (r : FaultReq) : (s.raiseFault r).kept = s.kept := by
  have hp := kept_freePick s (s.faults.map (·.slot)) 1024
  unfold State.raiseFault; dsimp only
  split
  · split
    · split <;> simp
    · rfl
  · split
    · rfl
    · split
      · rename_i h; rw [h] at hp; split
        · exact hp
        · rw [kept_openWait]; exact hp
      · rename_i h; rw [h] at hp; exact hp

@[simp] theorem kept_faultFor (s : State) (x : Space) (w : Who) (va : Nat) (b : Bool) (t seg p pa : Nat) :
    (s.faultFor x w va b t seg p pa).kept = s.kept := by unfold State.faultFor; simp

@[simp] theorem kept_leaveFaults (s : State) (w : XWaiter) : (s.leaveFaults w).kept = s.kept := rfl

/-! ## Frames -/

@[simp] theorem kept_sent (s : State) (p : Fin 8) (x : Port) : (s.sent p x).kept = s.kept := by
  unfold State.sent; split <;> simp

@[simp] theorem kept_creditWaits (s : State) (p : Fin 8) (old new : List Frame) : (s.creditWaits p old new).kept = s.kept := by
  have h (l : List Nat) (q : Nat → Bool) (s : State) :
      (l.foldl (fun s w => if q w then s else s.closeWait 5 w false none none) s).kept = s.kept :=
    kept_foldl _ _ (fun s w => by split <;> simp) s
  unfold State.creditWaits; dsimp only
  split
  · rw [kept_foldl]
    · exact h _ _ s
    · intro s e; split <;> simp
  · exact h _ _ s

@[simp] theorem kept_freeFrame (s : State) (p : Fin 8) (f : Frame) : (s.freeFrame p f).kept = s.kept := rfl

@[simp] theorem kept_leaveBuffer (s : State) (p : Nat) (f : Frame) : (s.leaveBuffer p f).kept = s.kept := by
  unfold State.leaveBuffer; split
  · rw [kept_freeFrame, kept_updFport]
  · rfl

@[simp] theorem kept_pumpPort (s : State) (p : Fin 8) : (s.pumpPort p).kept = s.kept := by
  unfold State.pumpPort; dsimp only
  rw [kept_foldl _ _ (fun s f => kept_leaveBuffer s _ f), kept_creditWaits, kept_sent, kept_setFport]

@[simp] theorem kept_pumpWaiting (s : State) : s.pumpWaiting.kept = s.kept := by
  unfold State.pumpWaiting; split
  · rfl
  · exact kept_foldl _ _ kept_pumpPort s

theorem kept_sendRouted (s t : State) (f : Frame) (h : s.sendRouted f = some t) : t.kept = s.kept := by
  unfold State.sendRouted at h
  split at h
  · cases h
  · dsimp only at h
    split at h
    · injection h with h; rw [← h]; simp
    · cases h

@[simp] theorem kept_sendBack (s : State) (p : Nat) (b : List Nat) (f : Frame) : (s.sendBack p b f).kept = s.kept := by
  unfold State.sendBack; split <;> simp

theorem kept_remoteSend (s t : State) (c : CmdId) (ctx pa n : Nat) (d : Option (List Byte)) (x : Option Nat) (h : s.remoteSend c ctx pa n d x = some t) :
    t.kept = s.kept := by
  have hp := kept_freePick s (s.fab.remote.map (·.tag)) 4096
  unfold State.remoteSend at h
  dsimp only at h
  split at h
  · cases h
  · split at h
    · cases h
    · rename_i u tag hu
      rw [hu] at hp
      rw [kept_sendRouted _ _ _ h, kept_fab]; split
      · exact hp
      · exact hp

/-! ## Status records -/

@[simp] theorem kept_recordAt (s : State) (c : CmdId) (va : Nat) (bs : List Byte) : (s.recordAt c va bs).1.kept = s.kept := by
  have hx := kept_xlate s (s.cmdSpace c).ctx va true
  unfold State.recordAt; dsimp only
  split
  · exact hx
  · exact hx
  · rw [kept_faultFor, hx]
  · split
    · split <;> simp
    · split
      · rename_i h; rw [kept_remoteSend _ _ _ _ _ _ _ _ h, hx]
      · split <;> exact hx

@[simp] theorem kept_recordOwn (s : State) (j : Job) (r : Bool) : (s.recordOwn j r).1.kept = s.kept := by
  unfold State.recordOwn; split
  · split
    · rfl
    · dsimp only; split
      · exact kept_recordAt s j.id _ _
      · exact (kept_updRing _ _ (fun q => { q with completed := q.completed + 1 }) fun _ => ⟨rfl, rfl⟩).trans (kept_recordAt s j.id _ _)
  · split
    · rfl
    · dsimp only; split
      · rename_i o _ _ _
        cases h : s.sendRouted { typ := ftStatus, tc := 1, dst := o.node, len := 32, ctx := j.id.ctx, payload := j.record true r } with
        | none => rfl
        | some t => exact kept_sendRouted _ _ _ h
      · simp

@[simp] theorem kept_writeStatus (s : State) (j : Job) : (s.writeStatus j).1.kept = s.kept := by
  have h := kept_recordAt s j.id (pktReply j.pkt) (j.record true false)
  unfold State.writeStatus; dsimp only
  split
  · rfl
  · split
    · simp
    · split
      · rename_i e; rw [e] at h; rw [kept_recordOwn]; exact h
      · exact h

@[simp] theorem kept_countDone (s : State) (j : Job) : (s.countDone j).kept = s.kept := by unfold State.countDone; simp

@[simp] theorem kept_noteSnap (s : State) (j : Job) : (s.noteSnap j).kept = s.kept := by
  unfold State.noteSnap; split
  · split <;> simp
  · rfl

@[simp] theorem kept_release (s : State) (c : CmdId) (t : Bool) : (s.release c t).kept = s.kept := by
  unfold State.release; dsimp only; simp

@[simp] theorem kept_settleJob (s : State) (c : CmdId) : (s.settleJob c).kept = s.kept := by
  unfold State.settleJob; split
  · rfl
  · rename_i j _
    have h := kept_writeStatus s j
    split
    · split
      · rename_i e; rw [e] at h; exact h
      · rename_i e; rw [e] at h; rw [kept_release, kept_noteSnap, kept_countDone]; exact h
    · rfl

@[simp] theorem kept_holdSets (s : State) (j : Job) (now : List Nat) : (s.holdSets j now).kept = s.kept := by
  unfold State.holdSets; dsimp only
  rw [kept_updJob, kept_foldl _ _ (fun s h => kept_countSet s h 3 1), kept_foldl _ _ (fun s e => kept_countSet s _ 4 _)]

@[simp] theorem kept_startHold (s : State) (j : Job) (h : Nat) : (s.startHold j h).kept = s.kept := by
  unfold State.startHold; dsimp only; simp

@[simp] theorem kept_endHold (s : State) (j : Job) (t : Bool) : (s.endHold j t).kept = s.kept := by
  unfold State.endHold; split
  · rfl
  · dsimp only; simp

@[simp] theorem kept_rehold (s : State) (c : CmdId) : (s.rehold c).kept = s.kept := by
  unfold State.rehold; split
  · rfl
  · split <;> simp

@[simp] theorem kept_reholdAll (s : State) : s.reholdAll.kept = s.kept := kept_foldl _ _ kept_rehold s

@[simp] theorem kept_dealTiles (s : State) : s.dealTiles.kept = s.kept := by
  unfold State.dealTiles; dsimp only; split
  · rfl
  · split
    · rfl
    · split <;> rfl

theorem kept_settle (s : State) : s.settle.kept = s.kept := by
  unfold State.settle
  rw [kept_dealTiles, kept_pumpWaiting, kept_foldl _ _ kept_settleJob, kept_reholdAll]

end Sys2Proof.Machine
end

