-- ==== Sys2Proof/Laws/Rows.lean ====
section
/-! SUPPORT. The rows of commands, registers and instructions: what each shared frame of a meaning does when its unit is ready. -/

namespace Sys2Proof.Machine

/-! ## Events at which nothing else is due -/

theorem settleJob_of_not_settled (s : State) (c : CmdId) (h : (s.jobs.all fun j => !j.settled) = true) : s.settleJob c = s := by
  unfold State.settleJob
  split
  · rfl
  · rename_i j hj
    have hm : j ∈ s.jobs := List.mem_of_find?_eq_some hj
    have hn := List.all_eq_true.mp h j hm
    rw [if_neg]
    intro hc
    rw [hc.1] at hn
    exact absurd hn (by decide)

/-- A fold of steps that change nothing. -/
theorem foldl_id {α β : Type} (l : List β) (f : α → β → α) (s : α) (h : ∀ b, f s b = s) : l.foldl f s = s := by
  induction l with
  | nil => rfl
  | cons b l ih => rw [List.foldl_cons, h, ih]

/-- A command that reads nothing next, and is not held, stays so. -/
theorem rehold_of_idle (s : State) (c : CmdId)
    (h : (s.jobs.all fun j => j.heldSince.isNone && (s.nextSets j).isNone && (s.cmdTile j).isNone) = true) : s.rehold c = s := by
  unfold State.rehold
  split
  · rfl
  · rename_i j hj
    have hn := List.all_eq_true.mp h j (List.mem_of_find?_eq_some hj)
    simp only [Bool.and_eq_true, Option.isNone_iff_eq_none] at hn
    simp [hn.1.1, State.holders, hn.1.2]

/-- Without a command that runs a layer, and without LR rows that wait, the arrays have no user. -/
theorem tileUsers_nil (s : State) (h : (s.jobs.all fun j => j.heldSince.isNone && (s.nextSets j).isNone && (s.cmdTile j).isNone) = true)
    (hl : s.feeder.lr = none) (hq : s.feeder.lrQueue = []) : s.tileUsers = [] := by
  have hc : s.jobs.filterMap (fun j => (s.cmdTile j).map fun t => (j.order + 1, TileUser.cmd j.id, t)) = [] := by
    rw [List.filterMap_eq_nil_iff]
    intro j hj
    have hn := List.all_eq_true.mp h j hj
    simp only [Bool.and_eq_true, Option.isNone_iff_eq_none] at hn
    simp [hn.2]
  unfold State.tileUsers State.lrNext
  rw [hc, hl, hq]
  simp

/-- With no user the feeder deals nothing. -/
theorem dealTiles_of_none (s : State) (hd : s.feeder.deals = []) (hu : s.tileUsers = []) : s.dealTiles = s := by
  have hk : s.keptDeals = [] := by unfold State.keptDeals; rw [hd]; rfl
  have hs : ({ s with feeder := { s.feeder with deals := [] } } : State) = s := by rw [← hd]
  unfold State.dealTiles
  simp only [hk, hu, nextUser, List.find?_nil, List.head?_nil, Option.or_none, ne_eq, ite_self]
  exact hs

/-- When nothing is due, the end of an event changes nothing. -/
theorem settle_of_nothingDue (s : State) (h : NothingDue s) : s.settle = s := by
  obtain ⟨hs, hp, hj, hd, hl, hq⟩ := h
  have hr : s.reholdAll = s := foldl_id _ _ s fun c => rehold_of_idle s c hj
  unfold State.settle State.pumpWaiting
  rw [hr, foldl_id _ _ s fun c => settleJob_of_not_settled s c hs, if_pos hp, dealTiles_of_none s hd (tileUsers_nil s hj hl hq)]

/-- An update that leaves jobs, ports, plans and the feeder leaves nothing due. -/
theorem NothingDue.of_eq {s t : State} (h : NothingDue s) (hj : t.jobs = s.jobs) (hf : t.fab = s.fab) (hx : t.feeder = s.feeder)
    (hn : t.nextSets = s.nextSets) (hc : t.cmdTile = s.cmdTile) : NothingDue t := by
  obtain ⟨h1, h2, h3, h4⟩ := h
  have : t.fport = s.fport := by funext p; unfold State.fport; rw [hf]
  exact ⟨by rw [hj]; exact h1, by rw [this]; exact h2, by rw [hj, hn, hc]; exact h3, by rw [hx]; exact h4⟩

/-! ## Events -/

theorem act_alive (s : State) (f : State → State) (h : s.alive = true) : act s f = .next (f s) := by simp [act, h]

theorem actWhen_of (s : State) (c : Bool) (f : State → State) (h : s.alive = true) (hc : c = true) : actWhen s c f = .next (f s) := by
  simp [actWhen, h, hc]

theorem actS_alive (s : State) (f : State → State) (h : s.alive = true) : actS s f = .next (f s).settle := by simp [actS, h]

theorem actSWhen_of (s : State) (c : Bool) (f : State → State) (h : s.alive = true) (hc : c = true) : actSWhen s c f = .next (f s).settle := by
  simp [actSWhen, h, hc]

theorem actReg_written (s : State) (off : Nat) (r : Requester) (f : State → State) (h : Written s off r) :
    actReg s off r f = .next (f s).settle := by
  simp [actReg, h.1, h.2]

/-! ## Commands -/

theorem parse_parsed (s : State) (c : CmdId) (j : Job) (hj : s.job? c = some j) (hp : j.parsed = true) : s.parse c = s := by
  unfold State.parse; simp [hj, hp]

theorem runCmd_ready (s : State) (c : CmdId) (j : Job) (is : Job → Bool) (run : Job → State → State) (h : Ready s c j) (hi : is j = true) :
    s.runCmd c is run = run j (s.begin c) := by
  obtain ⟨-, hj, hp, ha, hm, hf, -⟩ := h
  unfold State.runCmd
  simp [hf, parse_parsed s c j hj hp, hj, hp, hi, ha, hm]

/-- The row of an opcode whose command is ready. -/
theorem cmdRow_ready (s : State) (c : CmdId) (j : Job) (op : Nat) (run : Job → State → State) (h : ReadyOp s c j op) :
    cmdRow s c op run = .next (run j (s.begin c)).settle := by
  unfold cmdRow
  rw [actS_alive _ _ h.1.1, runCmd_ready s c j _ run h.1]
  simp [Job.isOp, h.2]

/-- The row of a CONFIG sub-op whose command is ready. -/
theorem subRow_ready (s : State) (c : CmdId) (j : Job) (sub : Nat) (run : Job → State → State) (h : ReadySub s c j sub) :
    subRow s c sub run = .next (run j (s.begin c)).settle := by
  unfold subRow
  rw [actS_alive _ _ h.1.1, runCmd_ready s c j _ run h.1]
  simp [Job.isOp, h.2.1, h.2.2]

theorem checked_ok (s : State) (j : Job) (rules : List FieldRule) (run : State → State) (h : firstBroken rules = none) :
    s.checked j rules run = run s := by
  unfold State.checked; rw [h]

theorem checked_broken (s : State) (j : Job) (rules : List FieldRule) (run : State → State) (r : FieldRule) (h : firstBroken rules = some r) :
    s.checked j rules run = s.malformed j 0x47 r.index r.value := by
  unfold State.checked; rw [h]

theorem job_id (s : State) (c : CmdId) (j : Job) (h : s.job? c = some j) : j.id = c := by
  have := List.find?_some h
  simpa using this

@[simp] theorem kept_begin (s : State) (c : CmdId) : (s.begin c).kept = s.kept := by unfold State.begin; simp

@[simp] theorem kept_cause (s : State) (c : CmdId) (st : Nat) (d : ErrDetail) : (s.cause c st d).kept = s.kept := rfl

@[simp] theorem kept_endReads (s : State) (c : CmdId) : (s.endReads c).kept = s.kept := by
  unfold State.endReads
  split
  · rfl
  · split <;> rfl

/-- A command that has no work items leaves the slices and streams when it ends. -/
theorem clearItems_none (s : State) (c : CmdId) (h : (s.items.all fun w => w.cmd != c) = true) : s.clearItems c = s := by
  have hf : (s.items.filter fun w => w.cmd == c) = [] := by
    rw [List.filter_eq_nil_iff]
    intro w hw
    have := List.all_eq_true.mp h w hw
    simp only [bne_iff_ne, ne_eq] at this
    simpa using this
  have hi : (s.items.filter fun w => w.cmd != c) = s.items := List.filter_eq_self.mpr fun w hw => List.all_eq_true.mp h w hw
  unfold State.clearItems
  simp only [hf, List.map_nil, List.foldl_nil, List.filterMap_nil, hi]
  have : (s.slices.map fun e => (e.1, { e.2 with dispatch := e.2.dispatch.filter fun i => !([] : List Nat).contains i })) = s.slices := by
    conv_rhs => rw [← List.map_id s.slices]
    apply List.map_congr_left
    intro e _
    simp
  simp only [this]

theorem kept_finish (s : State) (c : CmdId) (h : (s.items.all fun w => w.cmd != c) = true) : (s.finish c).kept = s.kept := by
  unfold State.finish; rw [clearItems_none s c h]; simp

theorem kept_complete (s : State) (c : CmdId) (st : Nat) (d : ErrDetail) (h : (s.items.all fun w => w.cmd != c) = true) :
    (s.complete c st d).kept = s.kept := by
  unfold State.complete
  split
  · exact kept_finish s c h
  · exact kept_finish _ c h

theorem begin_items (s : State) (c : CmdId) : (s.begin c).items = s.items := congrArg Kept.items (kept_begin s c)

/-! ## Instructions of a stream -/

theorem issuePlain_at (s : State) (st : StreamId) (i : SInstr) (j : Job) (env : SEnv) (h : StreamAt s st i j env) :
    s.issuePlain st.key i = s.applyOut st.key i (plainEff env i (s.stream st.key).arch) := by
  unfold State.issuePlain; simp only [h.2.1, h.2.2, if_true]

/-- A plain instruction that retires within the budget changes its stream alone. -/
theorem applyOut_quiet (s : State) (k : Nat) (i : SInstr) (a : Arch) (hb : (s.stream k).budget + 1 < 65536) (hr : resetsBudget i = false)
    (hi : ∀ t, i ≠ .bagend t) :
    s.applyOut k i (.retire a [] false) =
      s.setStream k { s.stream k with arch := a, budget := (s.stream k).budget + 1, runningRun := false } := by
  unfold State.applyOut
  dsimp only
  rw [hr]
  simp only [Bool.false_eq_true, if_false, if_neg (Nat.not_le.mpr hb), List.filter_nil, List.length_nil, if_true, List.append_nil]
  split
  · exact absurd rfl (hi _)
  · rfl

end Sys2Proof.Machine
end

