-- ==== Sys2Proof/Laws/State.lean ====
section
/-! SUPPORT. What each named update of the state changes and what it leaves: one lemma per field per update. -/

namespace Sys2Proof.Machine

/-! ## setStream -/

@[simp] theorem setStream_pending (s : State) (k : Nat) (x : Stream) : (s.setStream k x).pending = s.pending := rfl
@[simp] theorem setStream_time (s : State) (k : Nat) (x : Stream) : (s.setStream k x).time = s.time := rfl
@[simp] theorem setStream_fresh (s : State) (k : Nat) (x : Stream) : (s.setStream k x).fresh = s.fresh := rfl
@[simp] theorem setStream_boot (s : State) (k : Nat) (x : Stream) : (s.setStream k x).boot = s.boot := rfl
@[simp] theorem setStream_fuses (s : State) (k : Nat) (x : Stream) : (s.setStream k x).fuses = s.fuses := rfl
@[simp] theorem setStream_regs (s : State) (k : Nat) (x : Stream) : (s.setStream k x).regs = s.regs := rfl
@[simp] theorem setStream_req (s : State) (k : Nat) (x : Stream) : (s.setStream k x).req = s.req := rfl
@[simp] theorem setStream_pkg (s : State) (k : Nat) (x : Stream) : (s.setStream k x).pkg = s.pkg := rfl
@[simp] theorem setStream_mem (s : State) (k : Nat) (x : Stream) : (s.setStream k x).mem = s.mem := rfl
@[simp] theorem setStream_poison (s : State) (k : Nat) (x : Stream) : (s.setStream k x).poison = s.poison := rfl
theorem setStream_streams (s : State) (k : Nat) (x : Stream) : (s.setStream k x).streams = sput {} s.streams k x := rfl
@[simp] theorem setStream_slices (s : State) (k : Nat) (x : Stream) : (s.setStream k x).slices = s.slices := rfl
@[simp] theorem setStream_items (s : State) (k : Nat) (x : Stream) : (s.setStream k x).items = s.items := rfl
@[simp] theorem setStream_rc (s : State) (k : Nat) (x : Stream) : (s.setStream k x).rc = s.rc := rfl
@[simp] theorem setStream_wc (s : State) (k : Nat) (x : Stream) : (s.setStream k x).wc = s.wc := rfl
@[simp] theorem setStream_memReqs (s : State) (k : Nat) (x : Stream) : (s.setStream k x).memReqs = s.memReqs := rfl
@[simp] theorem setStream_hbm (s : State) (k : Nat) (x : Stream) : (s.setStream k x).hbm = s.hbm := rfl
@[simp] theorem setStream_cap (s : State) (k : Nat) (x : Stream) : (s.setStream k x).cap = s.cap := rfl
@[simp] theorem setStream_walks (s : State) (k : Nat) (x : Stream) : (s.setStream k x).walks = s.walks := rfl
@[simp] theorem setStream_tlb2 (s : State) (k : Nat) (x : Stream) : (s.setStream k x).tlb2 = s.tlb2 := rfl
@[simp] theorem setStream_faults (s : State) (k : Nat) (x : Stream) : (s.setStream k x).faults = s.faults := rfl
@[simp] theorem setStream_faultsWaiting (s : State) (k : Nat) (x : Stream) : (s.setStream k x).faultsWaiting = s.faultsWaiting := rfl
@[simp] theorem setStream_contexts (s : State) (k : Nat) (x : Stream) : (s.setStream k x).contexts = s.contexts := rfl
@[simp] theorem setStream_rings (s : State) (k : Nat) (x : Stream) : (s.setStream k x).rings = s.rings := rfl
@[simp] theorem setStream_fabqs (s : State) (k : Nat) (x : Stream) : (s.setStream k x).fabqs = s.fabqs := rfl
@[simp] theorem setStream_jobs (s : State) (k : Nat) (x : Stream) : (s.setStream k x).jobs = s.jobs := rfl
@[simp] theorem setStream_plans (s : State) (k : Nat) (x : Stream) : (s.setStream k x).plans = s.plans := rfl
@[simp] theorem setStream_tables (s : State) (k : Nat) (x : Stream) : (s.setStream k x).tables = s.tables := rfl
@[simp] theorem setStream_tsets (s : State) (k : Nat) (x : Stream) : (s.setStream k x).tsets = s.tsets := rfl
@[simp] theorem setStream_wsets (s : State) (k : Nat) (x : Stream) : (s.setStream k x).wsets = s.wsets := rfl
@[simp] theorem setStream_poisoned (s : State) (k : Nat) (x : Stream) : (s.setStream k x).poisoned = s.poisoned := rfl
@[simp] theorem setStream_arrays (s : State) (k : Nat) (x : Stream) : (s.setStream k x).arrays = s.arrays := rfl
@[simp] theorem setStream_fab (s : State) (k : Nat) (x : Stream) : (s.setStream k x).fab = s.fab := rfl
@[simp] theorem setStream_pw (s : State) (k : Nat) (x : Stream) : (s.setStream k x).pw = s.pw := rfl
@[simp] theorem setStream_err (s : State) (k : Nat) (x : Stream) : (s.setStream k x).err = s.err := rfl
@[simp] theorem setStream_trace (s : State) (k : Nat) (x : Stream) : (s.setStream k x).trace = s.trace := rfl
@[simp] theorem setStream_dbg (s : State) (k : Nat) (x : Stream) : (s.setStream k x).dbg = s.dbg := rfl
@[simp] theorem setStream_counters (s : State) (k : Nat) (x : Stream) : (s.setStream k x).counters = s.counters := rfl
@[simp] theorem setStream_copies (s : State) (k : Nat) (x : Stream) : (s.setStream k x).copies = s.copies := rfl
@[simp] theorem setStream_clocks (s : State) (k : Nat) (x : Stream) : (s.setStream k x).clocks = s.clocks := rfl
@[simp] theorem setStream_nextItem (s : State) (k : Nat) (x : Stream) : (s.setStream k x).nextItem = s.nextItem := rfl
@[simp] theorem setStream_rr (s : State) (k : Nat) (x : Stream) : (s.setStream k x).rr = s.rr := rfl
@[simp] theorem setStream_rateAt (s : State) (k : Nat) (x : Stream) : (s.setStream k x).rateAt = s.rateAt := rfl
@[simp] theorem setStream_nextId (s : State) (k : Nat) (x : Stream) : (s.setStream k x).nextId = s.nextId := rfl
@[simp] theorem setStream_tokens (s : State) (k : Nat) (x : Stream) : (s.setStream k x).tokens = s.tokens := rfl
@[simp] theorem setStream_refillAt (s : State) (k : Nat) (x : Stream) : (s.setStream k x).refillAt = s.refillAt := rfl
@[simp] theorem setStream_regu (s : State) (k : Nat) (x : Stream) : (s.setStream k x).regu = s.regu := rfl
@[simp] theorem setStream_cfg (s : State) (k : Nat) (x : Stream) : (s.setStream k x).cfg = s.cfg := rfl
@[simp] theorem setStream_cfgSentAt (s : State) (k : Nat) (x : Stream) : (s.setStream k x).cfgSentAt = s.cfgSentAt := rfl
@[simp] theorem setStream_decayAt (s : State) (k : Nat) (x : Stream) : (s.setStream k x).decayAt = s.decayAt := rfl
@[simp] theorem setStream_expSeen (s : State) (k : Nat) (x : Stream) : (s.setStream k x).expSeen = s.expSeen := rfl
@[simp] theorem setStream_grantCache (s : State) (k : Nat) (x : Stream) : (s.setStream k x).grantCache = s.grantCache := rfl
@[simp] theorem setStream_countCache (s : State) (k : Nat) (x : Stream) : (s.setStream k x).countCache = s.countCache := rfl
@[simp] theorem setStream_qlocked (s : State) (k : Nat) (x : Stream) : (s.setStream k x).qlocked = s.qlocked := rfl
@[simp] theorem setStream_grants (s : State) (k : Nat) (x : Stream) : (s.setStream k x).grants = s.grants := rfl
@[simp] theorem setStream_reuse (s : State) (k : Nat) (x : Stream) : (s.setStream k x).reuse = s.reuse := rfl
@[simp] theorem setStream_sqTail (s : State) (k : Nat) (x : Stream) : (s.setStream k x).sqTail = s.sqTail := rfl
@[simp] theorem setStream_sqPhase (s : State) (k : Nat) (x : Stream) : (s.setStream k x).sqPhase = s.sqPhase := rfl
@[simp] theorem setStream_notifyPending (s : State) (k : Nat) (x : Stream) : (s.setStream k x).notifyPending = s.notifyPending := rfl
@[simp] theorem setStream_notifiedTail (s : State) (k : Nat) (x : Stream) : (s.setStream k x).notifiedTail = s.notifiedTail := rfl
@[simp] theorem setStream_qerrValid (s : State) (k : Nat) (x : Stream) : (s.setStream k x).qerrValid = s.qerrValid := rfl
@[simp] theorem setStream_qerrIndex (s : State) (k : Nat) (x : Stream) : (s.setStream k x).qerrIndex = s.qerrIndex := rfl
@[simp] theorem setStream_nextOrder (s : State) (k : Nat) (x : Stream) : (s.setStream k x).nextOrder = s.nextOrder := rfl
@[simp] theorem setStream_images (s : State) (k : Nat) (x : Stream) : (s.setStream k x).images = s.images := rfl
@[simp] theorem setStream_poolShare (s : State) (k : Nat) (x : Stream) : (s.setStream k x).poolShare = s.poolShare := rfl
@[simp] theorem setStream_sketchBuf (s : State) (k : Nat) (x : Stream) : (s.setStream k x).sketchBuf = s.sketchBuf := rfl
@[simp] theorem setStream_feeder (s : State) (k : Nat) (x : Stream) : (s.setStream k x).feeder = s.feeder := rfl

/-! ## setSlice -/

@[simp] theorem setSlice_pending (s : State) (k : Nat) (x : Slice) : (s.setSlice k x).pending = s.pending := rfl
@[simp] theorem setSlice_time (s : State) (k : Nat) (x : Slice) : (s.setSlice k x).time = s.time := rfl
@[simp] theorem setSlice_fresh (s : State) (k : Nat) (x : Slice) : (s.setSlice k x).fresh = s.fresh := rfl
@[simp] theorem setSlice_boot (s : State) (k : Nat) (x : Slice) : (s.setSlice k x).boot = s.boot := rfl
@[simp] theorem setSlice_fuses (s : State) (k : Nat) (x : Slice) : (s.setSlice k x).fuses = s.fuses := rfl
@[simp] theorem setSlice_regs (s : State) (k : Nat) (x : Slice) : (s.setSlice k x).regs = s.regs := rfl
@[simp] theorem setSlice_req (s : State) (k : Nat) (x : Slice) : (s.setSlice k x).req = s.req := rfl
@[simp] theorem setSlice_pkg (s : State) (k : Nat) (x : Slice) : (s.setSlice k x).pkg = s.pkg := rfl
@[simp] theorem setSlice_mem (s : State) (k : Nat) (x : Slice) : (s.setSlice k x).mem = s.mem := rfl
@[simp] theorem setSlice_poison (s : State) (k : Nat) (x : Slice) : (s.setSlice k x).poison = s.poison := rfl
@[simp] theorem setSlice_streams (s : State) (k : Nat) (x : Slice) : (s.setSlice k x).streams = s.streams := rfl
theorem setSlice_slices (s : State) (k : Nat) (x : Slice) : (s.setSlice k x).slices = sput {} s.slices k x := rfl
@[simp] theorem setSlice_items (s : State) (k : Nat) (x : Slice) : (s.setSlice k x).items = s.items := rfl
@[simp] theorem setSlice_rc (s : State) (k : Nat) (x : Slice) : (s.setSlice k x).rc = s.rc := rfl
@[simp] theorem setSlice_wc (s : State) (k : Nat) (x : Slice) : (s.setSlice k x).wc = s.wc := rfl
@[simp] theorem setSlice_memReqs (s : State) (k : Nat) (x : Slice) : (s.setSlice k x).memReqs = s.memReqs := rfl
@[simp] theorem setSlice_hbm (s : State) (k : Nat) (x : Slice) : (s.setSlice k x).hbm = s.hbm := rfl
@[simp] theorem setSlice_cap (s : State) (k : Nat) (x : Slice) : (s.setSlice k x).cap = s.cap := rfl
@[simp] theorem setSlice_walks (s : State) (k : Nat) (x : Slice) : (s.setSlice k x).walks = s.walks := rfl
@[simp] theorem setSlice_tlb2 (s : State) (k : Nat) (x : Slice) : (s.setSlice k x).tlb2 = s.tlb2 := rfl
@[simp] theorem setSlice_faults (s : State) (k : Nat) (x : Slice) : (s.setSlice k x).faults = s.faults := rfl
@[simp] theorem setSlice_faultsWaiting (s : State) (k : Nat) (x : Slice) : (s.setSlice k x).faultsWaiting = s.faultsWaiting := rfl
@[simp] theorem setSlice_contexts (s : State) (k : Nat) (x : Slice) : (s.setSlice k x).contexts = s.contexts := rfl
@[simp] theorem setSlice_rings (s : State) (k : Nat) (x : Slice) : (s.setSlice k x).rings = s.rings := rfl
@[simp] theorem setSlice_fabqs (s : State) (k : Nat) (x : Slice) : (s.setSlice k x).fabqs = s.fabqs := rfl
@[simp] theorem setSlice_jobs (s : State) (k : Nat) (x : Slice) : (s.setSlice k x).jobs = s.jobs := rfl
@[simp] theorem setSlice_plans (s : State) (k : Nat) (x : Slice) : (s.setSlice k x).plans = s.plans := rfl
@[simp] theorem setSlice_tables (s : State) (k : Nat) (x : Slice) : (s.setSlice k x).tables = s.tables := rfl
@[simp] theorem setSlice_tsets (s : State) (k : Nat) (x : Slice) : (s.setSlice k x).tsets = s.tsets := rfl
@[simp] theorem setSlice_wsets (s : State) (k : Nat) (x : Slice) : (s.setSlice k x).wsets = s.wsets := rfl
@[simp] theorem setSlice_poisoned (s : State) (k : Nat) (x : Slice) : (s.setSlice k x).poisoned = s.poisoned := rfl
@[simp] theorem setSlice_arrays (s : State) (k : Nat) (x : Slice) : (s.setSlice k x).arrays = s.arrays := rfl
@[simp] theorem setSlice_fab (s : State) (k : Nat) (x : Slice) : (s.setSlice k x).fab = s.fab := rfl
@[simp] theorem setSlice_pw (s : State) (k : Nat) (x : Slice) : (s.setSlice k x).pw = s.pw := rfl
@[simp] theorem setSlice_err (s : State) (k : Nat) (x : Slice) : (s.setSlice k x).err = s.err := rfl
@[simp] theorem setSlice_trace (s : State) (k : Nat) (x : Slice) : (s.setSlice k x).trace = s.trace := rfl
@[simp] theorem setSlice_dbg (s : State) (k : Nat) (x : Slice) : (s.setSlice k x).dbg = s.dbg := rfl
@[simp] theorem setSlice_counters (s : State) (k : Nat) (x : Slice) : (s.setSlice k x).counters = s.counters := rfl
@[simp] theorem setSlice_copies (s : State) (k : Nat) (x : Slice) : (s.setSlice k x).copies = s.copies := rfl
@[simp] theorem setSlice_clocks (s : State) (k : Nat) (x : Slice) : (s.setSlice k x).clocks = s.clocks := rfl
@[simp] theorem setSlice_nextItem (s : State) (k : Nat) (x : Slice) : (s.setSlice k x).nextItem = s.nextItem := rfl
@[simp] theorem setSlice_rr (s : State) (k : Nat) (x : Slice) : (s.setSlice k x).rr = s.rr := rfl
@[simp] theorem setSlice_rateAt (s : State) (k : Nat) (x : Slice) : (s.setSlice k x).rateAt = s.rateAt := rfl
@[simp] theorem setSlice_nextId (s : State) (k : Nat) (x : Slice) : (s.setSlice k x).nextId = s.nextId := rfl
@[simp] theorem setSlice_tokens (s : State) (k : Nat) (x : Slice) : (s.setSlice k x).tokens = s.tokens := rfl
@[simp] theorem setSlice_refillAt (s : State) (k : Nat) (x : Slice) : (s.setSlice k x).refillAt = s.refillAt := rfl
@[simp] theorem setSlice_regu (s : State) (k : Nat) (x : Slice) : (s.setSlice k x).regu = s.regu := rfl
@[simp] theorem setSlice_cfg (s : State) (k : Nat) (x : Slice) : (s.setSlice k x).cfg = s.cfg := rfl
@[simp] theorem setSlice_cfgSentAt (s : State) (k : Nat) (x : Slice) : (s.setSlice k x).cfgSentAt = s.cfgSentAt := rfl
@[simp] theorem setSlice_decayAt (s : State) (k : Nat) (x : Slice) : (s.setSlice k x).decayAt = s.decayAt := rfl
@[simp] theorem setSlice_expSeen (s : State) (k : Nat) (x : Slice) : (s.setSlice k x).expSeen = s.expSeen := rfl
@[simp] theorem setSlice_grantCache (s : State) (k : Nat) (x : Slice) : (s.setSlice k x).grantCache = s.grantCache := rfl
@[simp] theorem setSlice_countCache (s : State) (k : Nat) (x : Slice) : (s.setSlice k x).countCache = s.countCache := rfl
@[simp] theorem setSlice_qlocked (s : State) (k : Nat) (x : Slice) : (s.setSlice k x).qlocked = s.qlocked := rfl
@[simp] theorem setSlice_grants (s : State) (k : Nat) (x : Slice) : (s.setSlice k x).grants = s.grants := rfl
@[simp] theorem setSlice_reuse (s : State) (k : Nat) (x : Slice) : (s.setSlice k x).reuse = s.reuse := rfl
@[simp] theorem setSlice_sqTail (s : State) (k : Nat) (x : Slice) : (s.setSlice k x).sqTail = s.sqTail := rfl
@[simp] theorem setSlice_sqPhase (s : State) (k : Nat) (x : Slice) : (s.setSlice k x).sqPhase = s.sqPhase := rfl
@[simp] theorem setSlice_notifyPending (s : State) (k : Nat) (x : Slice) : (s.setSlice k x).notifyPending = s.notifyPending := rfl
@[simp] theorem setSlice_notifiedTail (s : State) (k : Nat) (x : Slice) : (s.setSlice k x).notifiedTail = s.notifiedTail := rfl
@[simp] theorem setSlice_qerrValid (s : State) (k : Nat) (x : Slice) : (s.setSlice k x).qerrValid = s.qerrValid := rfl
@[simp] theorem setSlice_qerrIndex (s : State) (k : Nat) (x : Slice) : (s.setSlice k x).qerrIndex = s.qerrIndex := rfl
@[simp] theorem setSlice_nextOrder (s : State) (k : Nat) (x : Slice) : (s.setSlice k x).nextOrder = s.nextOrder := rfl
@[simp] theorem setSlice_images (s : State) (k : Nat) (x : Slice) : (s.setSlice k x).images = s.images := rfl
@[simp] theorem setSlice_poolShare (s : State) (k : Nat) (x : Slice) : (s.setSlice k x).poolShare = s.poolShare := rfl
@[simp] theorem setSlice_sketchBuf (s : State) (k : Nat) (x : Slice) : (s.setSlice k x).sketchBuf = s.sketchBuf := rfl
@[simp] theorem setSlice_feeder (s : State) (k : Nat) (x : Slice) : (s.setSlice k x).feeder = s.feeder := rfl

/-! ## updItem -/

@[simp] theorem updItem_pending (s : State) (i : Nat) (f : WorkItem → WorkItem) : (s.updItem i f).pending = s.pending := rfl
@[simp] theorem updItem_time (s : State) (i : Nat) (f : WorkItem → WorkItem) : (s.updItem i f).time = s.time := rfl
@[simp] theorem updItem_fresh (s : State) (i : Nat) (f : WorkItem → WorkItem) : (s.updItem i f).fresh = s.fresh := rfl
@[simp] theorem updItem_boot (s : State) (i : Nat) (f : WorkItem → WorkItem) : (s.updItem i f).boot = s.boot := rfl
@[simp] theorem updItem_fuses (s : State) (i : Nat) (f : WorkItem → WorkItem) : (s.updItem i f).fuses = s.fuses := rfl
@[simp] theorem updItem_regs (s : State) (i : Nat) (f : WorkItem → WorkItem) : (s.updItem i f).regs = s.regs := rfl
@[simp] theorem updItem_req (s : State) (i : Nat) (f : WorkItem → WorkItem) : (s.updItem i f).req = s.req := rfl
@[simp] theorem updItem_pkg (s : State) (i : Nat) (f : WorkItem → WorkItem) : (s.updItem i f).pkg = s.pkg := rfl
@[simp] theorem updItem_mem (s : State) (i : Nat) (f : WorkItem → WorkItem) : (s.updItem i f).mem = s.mem := rfl
@[simp] theorem updItem_poison (s : State) (i : Nat) (f : WorkItem → WorkItem) : (s.updItem i f).poison = s.poison := rfl
@[simp] theorem updItem_streams (s : State) (i : Nat) (f : WorkItem → WorkItem) : (s.updItem i f).streams = s.streams := rfl
@[simp] theorem updItem_slices (s : State) (i : Nat) (f : WorkItem → WorkItem) : (s.updItem i f).slices = s.slices := rfl
theorem updItem_items (s : State) (i : Nat) (f : WorkItem → WorkItem) : (s.updItem i f).items = s.items.map fun w => if w.id = i then f w else w := rfl
@[simp] theorem updItem_rc (s : State) (i : Nat) (f : WorkItem → WorkItem) : (s.updItem i f).rc = s.rc := rfl
@[simp] theorem updItem_wc (s : State) (i : Nat) (f : WorkItem → WorkItem) : (s.updItem i f).wc = s.wc := rfl
@[simp] theorem updItem_memReqs (s : State) (i : Nat) (f : WorkItem → WorkItem) : (s.updItem i f).memReqs = s.memReqs := rfl
@[simp] theorem updItem_hbm (s : State) (i : Nat) (f : WorkItem → WorkItem) : (s.updItem i f).hbm = s.hbm := rfl
@[simp] theorem updItem_cap (s : State) (i : Nat) (f : WorkItem → WorkItem) : (s.updItem i f).cap = s.cap := rfl
@[simp] theorem updItem_walks (s : State) (i : Nat) (f : WorkItem → WorkItem) : (s.updItem i f).walks = s.walks := rfl
@[simp] theorem updItem_tlb2 (s : State) (i : Nat) (f : WorkItem → WorkItem) : (s.updItem i f).tlb2 = s.tlb2 := rfl
@[simp] theorem updItem_faults (s : State) (i : Nat) (f : WorkItem → WorkItem) : (s.updItem i f).faults = s.faults := rfl
@[simp] theorem updItem_faultsWaiting (s : State) (i : Nat) (f : WorkItem → WorkItem) : (s.updItem i f).faultsWaiting = s.faultsWaiting := rfl
@[simp] theorem updItem_contexts (s : State) (i : Nat) (f : WorkItem → WorkItem) : (s.updItem i f).contexts = s.contexts := rfl
@[simp] theorem updItem_rings (s : State) (i : Nat) (f : WorkItem → WorkItem) : (s.updItem i f).rings = s.rings := rfl
@[simp] theorem updItem_fabqs (s : State) (i : Nat) (f : WorkItem → WorkItem) : (s.updItem i f).fabqs = s.fabqs := rfl
@[simp] theorem updItem_jobs (s : State) (i : Nat) (f : WorkItem → WorkItem) : (s.updItem i f).jobs = s.jobs := rfl
@[simp] theorem updItem_plans (s : State) (i : Nat) (f : WorkItem → WorkItem) : (s.updItem i f).plans = s.plans := rfl
@[simp] theorem updItem_tables (s : State) (i : Nat) (f : WorkItem → WorkItem) : (s.updItem i f).tables = s.tables := rfl
@[simp] theorem updItem_tsets (s : State) (i : Nat) (f : WorkItem → WorkItem) : (s.updItem i f).tsets = s.tsets := rfl
@[simp] theorem updItem_wsets (s : State) (i : Nat) (f : WorkItem → WorkItem) : (s.updItem i f).wsets = s.wsets := rfl
@[simp] theorem updItem_poisoned (s : State) (i : Nat) (f : WorkItem → WorkItem) : (s.updItem i f).poisoned = s.poisoned := rfl
@[simp] theorem updItem_arrays (s : State) (i : Nat) (f : WorkItem → WorkItem) : (s.updItem i f).arrays = s.arrays := rfl
@[simp] theorem updItem_fab (s : State) (i : Nat) (f : WorkItem → WorkItem) : (s.updItem i f).fab = s.fab := rfl
@[simp] theorem updItem_pw (s : State) (i : Nat) (f : WorkItem → WorkItem) : (s.updItem i f).pw = s.pw := rfl
@[simp] theorem updItem_err (s : State) (i : Nat) (f : WorkItem → WorkItem) : (s.updItem i f).err = s.err := rfl
@[simp] theorem updItem_trace (s : State) (i : Nat) (f : WorkItem → WorkItem) : (s.updItem i f).trace = s.trace := rfl
@[simp] theorem updItem_dbg (s : State) (i : Nat) (f : WorkItem → WorkItem) : (s.updItem i f).dbg = s.dbg := rfl
@[simp] theorem updItem_counters (s : State) (i : Nat) (f : WorkItem → WorkItem) : (s.updItem i f).counters = s.counters := rfl
@[simp] theorem updItem_copies (s : State) (i : Nat) (f : WorkItem → WorkItem) : (s.updItem i f).copies = s.copies := rfl
@[simp] theorem updItem_clocks (s : State) (i : Nat) (f : WorkItem → WorkItem) : (s.updItem i f).clocks = s.clocks := rfl
@[simp] theorem updItem_nextItem (s : State) (i : Nat) (f : WorkItem → WorkItem) : (s.updItem i f).nextItem = s.nextItem := rfl
@[simp] theorem updItem_rr (s : State) (i : Nat) (f : WorkItem → WorkItem) : (s.updItem i f).rr = s.rr := rfl
@[simp] theorem updItem_rateAt (s : State) (i : Nat) (f : WorkItem → WorkItem) : (s.updItem i f).rateAt = s.rateAt := rfl
@[simp] theorem updItem_nextId (s : State) (i : Nat) (f : WorkItem → WorkItem) : (s.updItem i f).nextId = s.nextId := rfl
@[simp] theorem updItem_tokens (s : State) (i : Nat) (f : WorkItem → WorkItem) : (s.updItem i f).tokens = s.tokens := rfl
@[simp] theorem updItem_refillAt (s : State) (i : Nat) (f : WorkItem → WorkItem) : (s.updItem i f).refillAt = s.refillAt := rfl
@[simp] theorem updItem_regu (s : State) (i : Nat) (f : WorkItem → WorkItem) : (s.updItem i f).regu = s.regu := rfl
@[simp] theorem updItem_cfg (s : State) (i : Nat) (f : WorkItem → WorkItem) : (s.updItem i f).cfg = s.cfg := rfl
@[simp] theorem updItem_cfgSentAt (s : State) (i : Nat) (f : WorkItem → WorkItem) : (s.updItem i f).cfgSentAt = s.cfgSentAt := rfl
@[simp] theorem updItem_decayAt (s : State) (i : Nat) (f : WorkItem → WorkItem) : (s.updItem i f).decayAt = s.decayAt := rfl
@[simp] theorem updItem_expSeen (s : State) (i : Nat) (f : WorkItem → WorkItem) : (s.updItem i f).expSeen = s.expSeen := rfl
@[simp] theorem updItem_grantCache (s : State) (i : Nat) (f : WorkItem → WorkItem) : (s.updItem i f).grantCache = s.grantCache := rfl
@[simp] theorem updItem_countCache (s : State) (i : Nat) (f : WorkItem → WorkItem) : (s.updItem i f).countCache = s.countCache := rfl
@[simp] theorem updItem_qlocked (s : State) (i : Nat) (f : WorkItem → WorkItem) : (s.updItem i f).qlocked = s.qlocked := rfl
@[simp] theorem updItem_grants (s : State) (i : Nat) (f : WorkItem → WorkItem) : (s.updItem i f).grants = s.grants := rfl
@[simp] theorem updItem_reuse (s : State) (i : Nat) (f : WorkItem → WorkItem) : (s.updItem i f).reuse = s.reuse := rfl
@[simp] theorem updItem_sqTail (s : State) (i : Nat) (f : WorkItem → WorkItem) : (s.updItem i f).sqTail = s.sqTail := rfl
@[simp] theorem updItem_sqPhase (s : State) (i : Nat) (f : WorkItem → WorkItem) : (s.updItem i f).sqPhase = s.sqPhase := rfl
@[simp] theorem updItem_notifyPending (s : State) (i : Nat) (f : WorkItem → WorkItem) : (s.updItem i f).notifyPending = s.notifyPending := rfl
@[simp] theorem updItem_notifiedTail (s : State) (i : Nat) (f : WorkItem → WorkItem) : (s.updItem i f).notifiedTail = s.notifiedTail := rfl
@[simp] theorem updItem_qerrValid (s : State) (i : Nat) (f : WorkItem → WorkItem) : (s.updItem i f).qerrValid = s.qerrValid := rfl
@[simp] theorem updItem_qerrIndex (s : State) (i : Nat) (f : WorkItem → WorkItem) : (s.updItem i f).qerrIndex = s.qerrIndex := rfl
@[simp] theorem updItem_nextOrder (s : State) (i : Nat) (f : WorkItem → WorkItem) : (s.updItem i f).nextOrder = s.nextOrder := rfl
@[simp] theorem updItem_images (s : State) (i : Nat) (f : WorkItem → WorkItem) : (s.updItem i f).images = s.images := rfl
@[simp] theorem updItem_poolShare (s : State) (i : Nat) (f : WorkItem → WorkItem) : (s.updItem i f).poolShare = s.poolShare := rfl
@[simp] theorem updItem_sketchBuf (s : State) (i : Nat) (f : WorkItem → WorkItem) : (s.updItem i f).sketchBuf = s.sketchBuf := rfl
@[simp] theorem updItem_feeder (s : State) (i : Nat) (f : WorkItem → WorkItem) : (s.updItem i f).feeder = s.feeder := rfl

/-! ## updJob -/

@[simp] theorem updJob_pending (s : State) (c : CmdId) (f : Job → Job) : (s.updJob c f).pending = s.pending := rfl
@[simp] theorem updJob_time (s : State) (c : CmdId) (f : Job → Job) : (s.updJob c f).time = s.time := rfl
@[simp] theorem updJob_fresh (s : State) (c : CmdId) (f : Job → Job) : (s.updJob c f).fresh = s.fresh := rfl
@[simp] theorem updJob_boot (s : State) (c : CmdId) (f : Job → Job) : (s.updJob c f).boot = s.boot := rfl
@[simp] theorem updJob_fuses (s : State) (c : CmdId) (f : Job → Job) : (s.updJob c f).fuses = s.fuses := rfl
@[simp] theorem updJob_regs (s : State) (c : CmdId) (f : Job → Job) : (s.updJob c f).regs = s.regs := rfl
@[simp] theorem updJob_req (s : State) (c : CmdId) (f : Job → Job) : (s.updJob c f).req = s.req := rfl
@[simp] theorem updJob_pkg (s : State) (c : CmdId) (f : Job → Job) : (s.updJob c f).pkg = s.pkg := rfl
@[simp] theorem updJob_mem (s : State) (c : CmdId) (f : Job → Job) : (s.updJob c f).mem = s.mem := rfl
@[simp] theorem updJob_poison (s : State) (c : CmdId) (f : Job → Job) : (s.updJob c f).poison = s.poison := rfl
@[simp] theorem updJob_streams (s : State) (c : CmdId) (f : Job → Job) : (s.updJob c f).streams = s.streams := rfl
@[simp] theorem updJob_slices (s : State) (c : CmdId) (f : Job → Job) : (s.updJob c f).slices = s.slices := rfl
@[simp] theorem updJob_items (s : State) (c : CmdId) (f : Job → Job) : (s.updJob c f).items = s.items := rfl
@[simp] theorem updJob_rc (s : State) (c : CmdId) (f : Job → Job) : (s.updJob c f).rc = s.rc := rfl
@[simp] theorem updJob_wc (s : State) (c : CmdId) (f : Job → Job) : (s.updJob c f).wc = s.wc := rfl
@[simp] theorem updJob_memReqs (s : State) (c : CmdId) (f : Job → Job) : (s.updJob c f).memReqs = s.memReqs := rfl
@[simp] theorem updJob_hbm (s : State) (c : CmdId) (f : Job → Job) : (s.updJob c f).hbm = s.hbm := rfl
@[simp] theorem updJob_cap (s : State) (c : CmdId) (f : Job → Job) : (s.updJob c f).cap = s.cap := rfl
@[simp] theorem updJob_walks (s : State) (c : CmdId) (f : Job → Job) : (s.updJob c f).walks = s.walks := rfl
@[simp] theorem updJob_tlb2 (s : State) (c : CmdId) (f : Job → Job) : (s.updJob c f).tlb2 = s.tlb2 := rfl
@[simp] theorem updJob_faults (s : State) (c : CmdId) (f : Job → Job) : (s.updJob c f).faults = s.faults := rfl
@[simp] theorem updJob_faultsWaiting (s : State) (c : CmdId) (f : Job → Job) : (s.updJob c f).faultsWaiting = s.faultsWaiting := rfl
@[simp] theorem updJob_contexts (s : State) (c : CmdId) (f : Job → Job) : (s.updJob c f).contexts = s.contexts := rfl
@[simp] theorem updJob_rings (s : State) (c : CmdId) (f : Job → Job) : (s.updJob c f).rings = s.rings := rfl
@[simp] theorem updJob_fabqs (s : State) (c : CmdId) (f : Job → Job) : (s.updJob c f).fabqs = s.fabqs := rfl
theorem updJob_jobs (s : State) (c : CmdId) (f : Job → Job) : (s.updJob c f).jobs = s.jobs.map fun j => if j.id = c then f j else j := rfl
@[simp] theorem updJob_plans (s : State) (c : CmdId) (f : Job → Job) : (s.updJob c f).plans = s.plans := rfl
@[simp] theorem updJob_tables (s : State) (c : CmdId) (f : Job → Job) : (s.updJob c f).tables = s.tables := rfl
@[simp] theorem updJob_tsets (s : State) (c : CmdId) (f : Job → Job) : (s.updJob c f).tsets = s.tsets := rfl
@[simp] theorem updJob_wsets (s : State) (c : CmdId) (f : Job → Job) : (s.updJob c f).wsets = s.wsets := rfl
@[simp] theorem updJob_poisoned (s : State) (c : CmdId) (f : Job → Job) : (s.updJob c f).poisoned = s.poisoned := rfl
@[simp] theorem updJob_arrays (s : State) (c : CmdId) (f : Job → Job) : (s.updJob c f).arrays = s.arrays := rfl
@[simp] theorem updJob_fab (s : State) (c : CmdId) (f : Job → Job) : (s.updJob c f).fab = s.fab := rfl
@[simp] theorem updJob_pw (s : State) (c : CmdId) (f : Job → Job) : (s.updJob c f).pw = s.pw := rfl
@[simp] theorem updJob_err (s : State) (c : CmdId) (f : Job → Job) : (s.updJob c f).err = s.err := rfl
@[simp] theorem updJob_trace (s : State) (c : CmdId) (f : Job → Job) : (s.updJob c f).trace = s.trace := rfl
@[simp] theorem updJob_dbg (s : State) (c : CmdId) (f : Job → Job) : (s.updJob c f).dbg = s.dbg := rfl
@[simp] theorem updJob_counters (s : State) (c : CmdId) (f : Job → Job) : (s.updJob c f).counters = s.counters := rfl
@[simp] theorem updJob_copies (s : State) (c : CmdId) (f : Job → Job) : (s.updJob c f).copies = s.copies := rfl
@[simp] theorem updJob_clocks (s : State) (c : CmdId) (f : Job → Job) : (s.updJob c f).clocks = s.clocks := rfl
@[simp] theorem updJob_nextItem (s : State) (c : CmdId) (f : Job → Job) : (s.updJob c f).nextItem = s.nextItem := rfl
@[simp] theorem updJob_rr (s : State) (c : CmdId) (f : Job → Job) : (s.updJob c f).rr = s.rr := rfl
@[simp] theorem updJob_rateAt (s : State) (c : CmdId) (f : Job → Job) : (s.updJob c f).rateAt = s.rateAt := rfl
@[simp] theorem updJob_nextId (s : State) (c : CmdId) (f : Job → Job) : (s.updJob c f).nextId = s.nextId := rfl
@[simp] theorem updJob_tokens (s : State) (c : CmdId) (f : Job → Job) : (s.updJob c f).tokens = s.tokens := rfl
@[simp] theorem updJob_refillAt (s : State) (c : CmdId) (f : Job → Job) : (s.updJob c f).refillAt = s.refillAt := rfl
@[simp] theorem updJob_regu (s : State) (c : CmdId) (f : Job → Job) : (s.updJob c f).regu = s.regu := rfl
@[simp] theorem updJob_cfg (s : State) (c : CmdId) (f : Job → Job) : (s.updJob c f).cfg = s.cfg := rfl
@[simp] theorem updJob_cfgSentAt (s : State) (c : CmdId) (f : Job → Job) : (s.updJob c f).cfgSentAt = s.cfgSentAt := rfl
@[simp] theorem updJob_decayAt (s : State) (c : CmdId) (f : Job → Job) : (s.updJob c f).decayAt = s.decayAt := rfl
@[simp] theorem updJob_expSeen (s : State) (c : CmdId) (f : Job → Job) : (s.updJob c f).expSeen = s.expSeen := rfl
@[simp] theorem updJob_grantCache (s : State) (c : CmdId) (f : Job → Job) : (s.updJob c f).grantCache = s.grantCache := rfl
@[simp] theorem updJob_countCache (s : State) (c : CmdId) (f : Job → Job) : (s.updJob c f).countCache = s.countCache := rfl
@[simp] theorem updJob_qlocked (s : State) (c : CmdId) (f : Job → Job) : (s.updJob c f).qlocked = s.qlocked := rfl
@[simp] theorem updJob_grants (s : State) (c : CmdId) (f : Job → Job) : (s.updJob c f).grants = s.grants := rfl
@[simp] theorem updJob_reuse (s : State) (c : CmdId) (f : Job → Job) : (s.updJob c f).reuse = s.reuse := rfl
@[simp] theorem updJob_sqTail (s : State) (c : CmdId) (f : Job → Job) : (s.updJob c f).sqTail = s.sqTail := rfl
@[simp] theorem updJob_sqPhase (s : State) (c : CmdId) (f : Job → Job) : (s.updJob c f).sqPhase = s.sqPhase := rfl
@[simp] theorem updJob_notifyPending (s : State) (c : CmdId) (f : Job → Job) : (s.updJob c f).notifyPending = s.notifyPending := rfl
@[simp] theorem updJob_notifiedTail (s : State) (c : CmdId) (f : Job → Job) : (s.updJob c f).notifiedTail = s.notifiedTail := rfl
@[simp] theorem updJob_qerrValid (s : State) (c : CmdId) (f : Job → Job) : (s.updJob c f).qerrValid = s.qerrValid := rfl
@[simp] theorem updJob_qerrIndex (s : State) (c : CmdId) (f : Job → Job) : (s.updJob c f).qerrIndex = s.qerrIndex := rfl
@[simp] theorem updJob_nextOrder (s : State) (c : CmdId) (f : Job → Job) : (s.updJob c f).nextOrder = s.nextOrder := rfl
@[simp] theorem updJob_images (s : State) (c : CmdId) (f : Job → Job) : (s.updJob c f).images = s.images := rfl
@[simp] theorem updJob_poolShare (s : State) (c : CmdId) (f : Job → Job) : (s.updJob c f).poolShare = s.poolShare := rfl
@[simp] theorem updJob_sketchBuf (s : State) (c : CmdId) (f : Job → Job) : (s.updJob c f).sketchBuf = s.sketchBuf := rfl
@[simp] theorem updJob_feeder (s : State) (c : CmdId) (f : Job → Job) : (s.updJob c f).feeder = s.feeder := rfl

/-! ## dropJob -/

@[simp] theorem dropJob_pending (s : State) (c : CmdId) : (s.dropJob c).pending = s.pending := rfl
@[simp] theorem dropJob_time (s : State) (c : CmdId) : (s.dropJob c).time = s.time := rfl
@[simp] theorem dropJob_fresh (s : State) (c : CmdId) : (s.dropJob c).fresh = s.fresh := rfl
@[simp] theorem dropJob_boot (s : State) (c : CmdId) : (s.dropJob c).boot = s.boot := rfl
@[simp] theorem dropJob_fuses (s : State) (c : CmdId) : (s.dropJob c).fuses = s.fuses := rfl
@[simp] theorem dropJob_regs (s : State) (c : CmdId) : (s.dropJob c).regs = s.regs := rfl
@[simp] theorem dropJob_req (s : State) (c : CmdId) : (s.dropJob c).req = s.req := rfl
@[simp] theorem dropJob_pkg (s : State) (c : CmdId) : (s.dropJob c).pkg = s.pkg := rfl
@[simp] theorem dropJob_mem (s : State) (c : CmdId) : (s.dropJob c).mem = s.mem := rfl
@[simp] theorem dropJob_poison (s : State) (c : CmdId) : (s.dropJob c).poison = s.poison := rfl
@[simp] theorem dropJob_streams (s : State) (c : CmdId) : (s.dropJob c).streams = s.streams := rfl
@[simp] theorem dropJob_slices (s : State) (c : CmdId) : (s.dropJob c).slices = s.slices := rfl
@[simp] theorem dropJob_items (s : State) (c : CmdId) : (s.dropJob c).items = s.items := rfl
@[simp] theorem dropJob_rc (s : State) (c : CmdId) : (s.dropJob c).rc = s.rc := rfl
@[simp] theorem dropJob_wc (s : State) (c : CmdId) : (s.dropJob c).wc = s.wc := rfl
@[simp] theorem dropJob_memReqs (s : State) (c : CmdId) : (s.dropJob c).memReqs = s.memReqs := rfl
@[simp] theorem dropJob_hbm (s : State) (c : CmdId) : (s.dropJob c).hbm = s.hbm := rfl
@[simp] theorem dropJob_cap (s : State) (c : CmdId) : (s.dropJob c).cap = s.cap := rfl
@[simp] theorem dropJob_walks (s : State) (c : CmdId) : (s.dropJob c).walks = s.walks := rfl
@[simp] theorem dropJob_tlb2 (s : State) (c : CmdId) : (s.dropJob c).tlb2 = s.tlb2 := rfl
@[simp] theorem dropJob_faults (s : State) (c : CmdId) : (s.dropJob c).faults = s.faults := rfl
@[simp] theorem dropJob_faultsWaiting (s : State) (c : CmdId) : (s.dropJob c).faultsWaiting = s.faultsWaiting := rfl
@[simp] theorem dropJob_contexts (s : State) (c : CmdId) : (s.dropJob c).contexts = s.contexts := rfl
@[simp] theorem dropJob_rings (s : State) (c : CmdId) : (s.dropJob c).rings = s.rings := rfl
@[simp] theorem dropJob_fabqs (s : State) (c : CmdId) : (s.dropJob c).fabqs = s.fabqs := rfl
theorem dropJob_jobs (s : State) (c : CmdId) : (s.dropJob c).jobs = s.jobs.filter fun j => decide (j.id ≠ c) := rfl
@[simp] theorem dropJob_plans (s : State) (c : CmdId) : (s.dropJob c).plans = s.plans := rfl
@[simp] theorem dropJob_tables (s : State) (c : CmdId) : (s.dropJob c).tables = s.tables := rfl
@[simp] theorem dropJob_tsets (s : State) (c : CmdId) : (s.dropJob c).tsets = s.tsets := rfl
@[simp] theorem dropJob_wsets (s : State) (c : CmdId) : (s.dropJob c).wsets = s.wsets := rfl
@[simp] theorem dropJob_poisoned (s : State) (c : CmdId) : (s.dropJob c).poisoned = s.poisoned := rfl
@[simp] theorem dropJob_arrays (s : State) (c : CmdId) : (s.dropJob c).arrays = s.arrays := rfl
@[simp] theorem dropJob_fab (s : State) (c : CmdId) : (s.dropJob c).fab = s.fab := rfl
@[simp] theorem dropJob_pw (s : State) (c : CmdId) : (s.dropJob c).pw = s.pw := rfl
@[simp] theorem dropJob_err (s : State) (c : CmdId) : (s.dropJob c).err = s.err := rfl
@[simp] theorem dropJob_trace (s : State) (c : CmdId) : (s.dropJob c).trace = s.trace := rfl
@[simp] theorem dropJob_dbg (s : State) (c : CmdId) : (s.dropJob c).dbg = s.dbg := rfl
@[simp] theorem dropJob_counters (s : State) (c : CmdId) : (s.dropJob c).counters = s.counters := rfl
@[simp] theorem dropJob_copies (s : State) (c : CmdId) : (s.dropJob c).copies = s.copies := rfl
@[simp] theorem dropJob_clocks (s : State) (c : CmdId) : (s.dropJob c).clocks = s.clocks := rfl
@[simp] theorem dropJob_nextItem (s : State) (c : CmdId) : (s.dropJob c).nextItem = s.nextItem := rfl
@[simp] theorem dropJob_rr (s : State) (c : CmdId) : (s.dropJob c).rr = s.rr := rfl
@[simp] theorem dropJob_rateAt (s : State) (c : CmdId) : (s.dropJob c).rateAt = s.rateAt := rfl
@[simp] theorem dropJob_nextId (s : State) (c : CmdId) : (s.dropJob c).nextId = s.nextId := rfl
@[simp] theorem dropJob_tokens (s : State) (c : CmdId) : (s.dropJob c).tokens = s.tokens := rfl
@[simp] theorem dropJob_refillAt (s : State) (c : CmdId) : (s.dropJob c).refillAt = s.refillAt := rfl
@[simp] theorem dropJob_regu (s : State) (c : CmdId) : (s.dropJob c).regu = s.regu := rfl
@[simp] theorem dropJob_cfg (s : State) (c : CmdId) : (s.dropJob c).cfg = s.cfg := rfl
@[simp] theorem dropJob_cfgSentAt (s : State) (c : CmdId) : (s.dropJob c).cfgSentAt = s.cfgSentAt := rfl
@[simp] theorem dropJob_decayAt (s : State) (c : CmdId) : (s.dropJob c).decayAt = s.decayAt := rfl
@[simp] theorem dropJob_expSeen (s : State) (c : CmdId) : (s.dropJob c).expSeen = s.expSeen := rfl
@[simp] theorem dropJob_grantCache (s : State) (c : CmdId) : (s.dropJob c).grantCache = s.grantCache := rfl
@[simp] theorem dropJob_countCache (s : State) (c : CmdId) : (s.dropJob c).countCache = s.countCache := rfl
@[simp] theorem dropJob_qlocked (s : State) (c : CmdId) : (s.dropJob c).qlocked = s.qlocked := rfl
@[simp] theorem dropJob_grants (s : State) (c : CmdId) : (s.dropJob c).grants = s.grants := rfl
@[simp] theorem dropJob_reuse (s : State) (c : CmdId) : (s.dropJob c).reuse = s.reuse := rfl
@[simp] theorem dropJob_sqTail (s : State) (c : CmdId) : (s.dropJob c).sqTail = s.sqTail := rfl
@[simp] theorem dropJob_sqPhase (s : State) (c : CmdId) : (s.dropJob c).sqPhase = s.sqPhase := rfl
@[simp] theorem dropJob_notifyPending (s : State) (c : CmdId) : (s.dropJob c).notifyPending = s.notifyPending := rfl
@[simp] theorem dropJob_notifiedTail (s : State) (c : CmdId) : (s.dropJob c).notifiedTail = s.notifiedTail := rfl
@[simp] theorem dropJob_qerrValid (s : State) (c : CmdId) : (s.dropJob c).qerrValid = s.qerrValid := rfl
@[simp] theorem dropJob_qerrIndex (s : State) (c : CmdId) : (s.dropJob c).qerrIndex = s.qerrIndex := rfl
@[simp] theorem dropJob_nextOrder (s : State) (c : CmdId) : (s.dropJob c).nextOrder = s.nextOrder := rfl
@[simp] theorem dropJob_images (s : State) (c : CmdId) : (s.dropJob c).images = s.images := rfl
@[simp] theorem dropJob_poolShare (s : State) (c : CmdId) : (s.dropJob c).poolShare = s.poolShare := rfl
@[simp] theorem dropJob_sketchBuf (s : State) (c : CmdId) : (s.dropJob c).sketchBuf = s.sketchBuf := rfl
@[simp] theorem dropJob_feeder (s : State) (c : CmdId) : (s.dropJob c).feeder = s.feeder := rfl

/-! ## setContext -/

@[simp] theorem setContext_pending (s : State) (c : Nat) (x : Context) : (s.setContext c x).pending = s.pending := rfl
@[simp] theorem setContext_time (s : State) (c : Nat) (x : Context) : (s.setContext c x).time = s.time := rfl
@[simp] theorem setContext_fresh (s : State) (c : Nat) (x : Context) : (s.setContext c x).fresh = s.fresh := rfl
@[simp] theorem setContext_boot (s : State) (c : Nat) (x : Context) : (s.setContext c x).boot = s.boot := rfl
@[simp] theorem setContext_fuses (s : State) (c : Nat) (x : Context) : (s.setContext c x).fuses = s.fuses := rfl
@[simp] theorem setContext_regs (s : State) (c : Nat) (x : Context) : (s.setContext c x).regs = s.regs := rfl
@[simp] theorem setContext_req (s : State) (c : Nat) (x : Context) : (s.setContext c x).req = s.req := rfl
@[simp] theorem setContext_pkg (s : State) (c : Nat) (x : Context) : (s.setContext c x).pkg = s.pkg := rfl
@[simp] theorem setContext_mem (s : State) (c : Nat) (x : Context) : (s.setContext c x).mem = s.mem := rfl
@[simp] theorem setContext_poison (s : State) (c : Nat) (x : Context) : (s.setContext c x).poison = s.poison := rfl
@[simp] theorem setContext_streams (s : State) (c : Nat) (x : Context) : (s.setContext c x).streams = s.streams := rfl
@[simp] theorem setContext_slices (s : State) (c : Nat) (x : Context) : (s.setContext c x).slices = s.slices := rfl
@[simp] theorem setContext_items (s : State) (c : Nat) (x : Context) : (s.setContext c x).items = s.items := rfl
@[simp] theorem setContext_rc (s : State) (c : Nat) (x : Context) : (s.setContext c x).rc = s.rc := rfl
@[simp] theorem setContext_wc (s : State) (c : Nat) (x : Context) : (s.setContext c x).wc = s.wc := rfl
@[simp] theorem setContext_memReqs (s : State) (c : Nat) (x : Context) : (s.setContext c x).memReqs = s.memReqs := rfl
@[simp] theorem setContext_hbm (s : State) (c : Nat) (x : Context) : (s.setContext c x).hbm = s.hbm := rfl
@[simp] theorem setContext_cap (s : State) (c : Nat) (x : Context) : (s.setContext c x).cap = s.cap := rfl
@[simp] theorem setContext_walks (s : State) (c : Nat) (x : Context) : (s.setContext c x).walks = s.walks := rfl
@[simp] theorem setContext_tlb2 (s : State) (c : Nat) (x : Context) : (s.setContext c x).tlb2 = s.tlb2 := rfl
@[simp] theorem setContext_faults (s : State) (c : Nat) (x : Context) : (s.setContext c x).faults = s.faults := rfl
@[simp] theorem setContext_faultsWaiting (s : State) (c : Nat) (x : Context) : (s.setContext c x).faultsWaiting = s.faultsWaiting := rfl
theorem setContext_contexts (s : State) (c : Nat) (x : Context) : (s.setContext c x).contexts = sinsert s.contexts c x := rfl
@[simp] theorem setContext_rings (s : State) (c : Nat) (x : Context) : (s.setContext c x).rings = s.rings := rfl
@[simp] theorem setContext_fabqs (s : State) (c : Nat) (x : Context) : (s.setContext c x).fabqs = s.fabqs := rfl
@[simp] theorem setContext_jobs (s : State) (c : Nat) (x : Context) : (s.setContext c x).jobs = s.jobs := rfl
@[simp] theorem setContext_plans (s : State) (c : Nat) (x : Context) : (s.setContext c x).plans = s.plans := rfl
@[simp] theorem setContext_tables (s : State) (c : Nat) (x : Context) : (s.setContext c x).tables = s.tables := rfl
@[simp] theorem setContext_tsets (s : State) (c : Nat) (x : Context) : (s.setContext c x).tsets = s.tsets := rfl
@[simp] theorem setContext_wsets (s : State) (c : Nat) (x : Context) : (s.setContext c x).wsets = s.wsets := rfl
@[simp] theorem setContext_poisoned (s : State) (c : Nat) (x : Context) : (s.setContext c x).poisoned = s.poisoned := rfl
@[simp] theorem setContext_arrays (s : State) (c : Nat) (x : Context) : (s.setContext c x).arrays = s.arrays := rfl
@[simp] theorem setContext_fab (s : State) (c : Nat) (x : Context) : (s.setContext c x).fab = s.fab := rfl
@[simp] theorem setContext_pw (s : State) (c : Nat) (x : Context) : (s.setContext c x).pw = s.pw := rfl
@[simp] theorem setContext_err (s : State) (c : Nat) (x : Context) : (s.setContext c x).err = s.err := rfl
@[simp] theorem setContext_trace (s : State) (c : Nat) (x : Context) : (s.setContext c x).trace = s.trace := rfl
@[simp] theorem setContext_dbg (s : State) (c : Nat) (x : Context) : (s.setContext c x).dbg = s.dbg := rfl
@[simp] theorem setContext_counters (s : State) (c : Nat) (x : Context) : (s.setContext c x).counters = s.counters := rfl
@[simp] theorem setContext_copies (s : State) (c : Nat) (x : Context) : (s.setContext c x).copies = s.copies := rfl
@[simp] theorem setContext_clocks (s : State) (c : Nat) (x : Context) : (s.setContext c x).clocks = s.clocks := rfl
@[simp] theorem setContext_nextItem (s : State) (c : Nat) (x : Context) : (s.setContext c x).nextItem = s.nextItem := rfl
@[simp] theorem setContext_rr (s : State) (c : Nat) (x : Context) : (s.setContext c x).rr = s.rr := rfl
@[simp] theorem setContext_rateAt (s : State) (c : Nat) (x : Context) : (s.setContext c x).rateAt = s.rateAt := rfl
@[simp] theorem setContext_nextId (s : State) (c : Nat) (x : Context) : (s.setContext c x).nextId = s.nextId := rfl
@[simp] theorem setContext_tokens (s : State) (c : Nat) (x : Context) : (s.setContext c x).tokens = s.tokens := rfl
@[simp] theorem setContext_refillAt (s : State) (c : Nat) (x : Context) : (s.setContext c x).refillAt = s.refillAt := rfl
@[simp] theorem setContext_regu (s : State) (c : Nat) (x : Context) : (s.setContext c x).regu = s.regu := rfl
@[simp] theorem setContext_cfg (s : State) (c : Nat) (x : Context) : (s.setContext c x).cfg = s.cfg := rfl
@[simp] theorem setContext_cfgSentAt (s : State) (c : Nat) (x : Context) : (s.setContext c x).cfgSentAt = s.cfgSentAt := rfl
@[simp] theorem setContext_decayAt (s : State) (c : Nat) (x : Context) : (s.setContext c x).decayAt = s.decayAt := rfl
@[simp] theorem setContext_expSeen (s : State) (c : Nat) (x : Context) : (s.setContext c x).expSeen = s.expSeen := rfl
@[simp] theorem setContext_grantCache (s : State) (c : Nat) (x : Context) : (s.setContext c x).grantCache = s.grantCache := rfl
@[simp] theorem setContext_countCache (s : State) (c : Nat) (x : Context) : (s.setContext c x).countCache = s.countCache := rfl
@[simp] theorem setContext_qlocked (s : State) (c : Nat) (x : Context) : (s.setContext c x).qlocked = s.qlocked := rfl
@[simp] theorem setContext_grants (s : State) (c : Nat) (x : Context) : (s.setContext c x).grants = s.grants := rfl
@[simp] theorem setContext_reuse (s : State) (c : Nat) (x : Context) : (s.setContext c x).reuse = s.reuse := rfl
@[simp] theorem setContext_sqTail (s : State) (c : Nat) (x : Context) : (s.setContext c x).sqTail = s.sqTail := rfl
@[simp] theorem setContext_sqPhase (s : State) (c : Nat) (x : Context) : (s.setContext c x).sqPhase = s.sqPhase := rfl
@[simp] theorem setContext_notifyPending (s : State) (c : Nat) (x : Context) : (s.setContext c x).notifyPending = s.notifyPending := rfl
@[simp] theorem setContext_notifiedTail (s : State) (c : Nat) (x : Context) : (s.setContext c x).notifiedTail = s.notifiedTail := rfl
@[simp] theorem setContext_qerrValid (s : State) (c : Nat) (x : Context) : (s.setContext c x).qerrValid = s.qerrValid := rfl
@[simp] theorem setContext_qerrIndex (s : State) (c : Nat) (x : Context) : (s.setContext c x).qerrIndex = s.qerrIndex := rfl
@[simp] theorem setContext_nextOrder (s : State) (c : Nat) (x : Context) : (s.setContext c x).nextOrder = s.nextOrder := rfl
@[simp] theorem setContext_images (s : State) (c : Nat) (x : Context) : (s.setContext c x).images = s.images := rfl
@[simp] theorem setContext_poolShare (s : State) (c : Nat) (x : Context) : (s.setContext c x).poolShare = s.poolShare := rfl
@[simp] theorem setContext_sketchBuf (s : State) (c : Nat) (x : Context) : (s.setContext c x).sketchBuf = s.sketchBuf := rfl
@[simp] theorem setContext_feeder (s : State) (c : Nat) (x : Context) : (s.setContext c x).feeder = s.feeder := rfl

/-! ## updTable -/

@[simp] theorem updTable_pending (s : State) (t : Nat) (f : Table → Table) : (s.updTable t f).pending = s.pending := rfl
@[simp] theorem updTable_time (s : State) (t : Nat) (f : Table → Table) : (s.updTable t f).time = s.time := rfl
@[simp] theorem updTable_fresh (s : State) (t : Nat) (f : Table → Table) : (s.updTable t f).fresh = s.fresh := rfl
@[simp] theorem updTable_boot (s : State) (t : Nat) (f : Table → Table) : (s.updTable t f).boot = s.boot := rfl
@[simp] theorem updTable_fuses (s : State) (t : Nat) (f : Table → Table) : (s.updTable t f).fuses = s.fuses := rfl
@[simp] theorem updTable_regs (s : State) (t : Nat) (f : Table → Table) : (s.updTable t f).regs = s.regs := rfl
@[simp] theorem updTable_req (s : State) (t : Nat) (f : Table → Table) : (s.updTable t f).req = s.req := rfl
@[simp] theorem updTable_pkg (s : State) (t : Nat) (f : Table → Table) : (s.updTable t f).pkg = s.pkg := rfl
@[simp] theorem updTable_mem (s : State) (t : Nat) (f : Table → Table) : (s.updTable t f).mem = s.mem := rfl
@[simp] theorem updTable_poison (s : State) (t : Nat) (f : Table → Table) : (s.updTable t f).poison = s.poison := rfl
@[simp] theorem updTable_streams (s : State) (t : Nat) (f : Table → Table) : (s.updTable t f).streams = s.streams := rfl
@[simp] theorem updTable_slices (s : State) (t : Nat) (f : Table → Table) : (s.updTable t f).slices = s.slices := rfl
@[simp] theorem updTable_items (s : State) (t : Nat) (f : Table → Table) : (s.updTable t f).items = s.items := rfl
@[simp] theorem updTable_rc (s : State) (t : Nat) (f : Table → Table) : (s.updTable t f).rc = s.rc := rfl
@[simp] theorem updTable_wc (s : State) (t : Nat) (f : Table → Table) : (s.updTable t f).wc = s.wc := rfl
@[simp] theorem updTable_memReqs (s : State) (t : Nat) (f : Table → Table) : (s.updTable t f).memReqs = s.memReqs := rfl
@[simp] theorem updTable_hbm (s : State) (t : Nat) (f : Table → Table) : (s.updTable t f).hbm = s.hbm := rfl
@[simp] theorem updTable_cap (s : State) (t : Nat) (f : Table → Table) : (s.updTable t f).cap = s.cap := rfl
@[simp] theorem updTable_walks (s : State) (t : Nat) (f : Table → Table) : (s.updTable t f).walks = s.walks := rfl
@[simp] theorem updTable_tlb2 (s : State) (t : Nat) (f : Table → Table) : (s.updTable t f).tlb2 = s.tlb2 := rfl
@[simp] theorem updTable_faults (s : State) (t : Nat) (f : Table → Table) : (s.updTable t f).faults = s.faults := rfl
@[simp] theorem updTable_faultsWaiting (s : State) (t : Nat) (f : Table → Table) : (s.updTable t f).faultsWaiting = s.faultsWaiting := rfl
@[simp] theorem updTable_contexts (s : State) (t : Nat) (f : Table → Table) : (s.updTable t f).contexts = s.contexts := rfl
@[simp] theorem updTable_rings (s : State) (t : Nat) (f : Table → Table) : (s.updTable t f).rings = s.rings := rfl
@[simp] theorem updTable_fabqs (s : State) (t : Nat) (f : Table → Table) : (s.updTable t f).fabqs = s.fabqs := rfl
@[simp] theorem updTable_jobs (s : State) (t : Nat) (f : Table → Table) : (s.updTable t f).jobs = s.jobs := rfl
@[simp] theorem updTable_plans (s : State) (t : Nat) (f : Table → Table) : (s.updTable t f).plans = s.plans := rfl
theorem updTable_tables (s : State) (t : Nat) (f : Table → Table) : (s.updTable t f).tables = s.tables.map fun e => if e.1 = t then (e.1, f e.2) else e := rfl
@[simp] theorem updTable_tsets (s : State) (t : Nat) (f : Table → Table) : (s.updTable t f).tsets = s.tsets := rfl
@[simp] theorem updTable_wsets (s : State) (t : Nat) (f : Table → Table) : (s.updTable t f).wsets = s.wsets := rfl
@[simp] theorem updTable_poisoned (s : State) (t : Nat) (f : Table → Table) : (s.updTable t f).poisoned = s.poisoned := rfl
@[simp] theorem updTable_arrays (s : State) (t : Nat) (f : Table → Table) : (s.updTable t f).arrays = s.arrays := rfl
@[simp] theorem updTable_fab (s : State) (t : Nat) (f : Table → Table) : (s.updTable t f).fab = s.fab := rfl
@[simp] theorem updTable_pw (s : State) (t : Nat) (f : Table → Table) : (s.updTable t f).pw = s.pw := rfl
@[simp] theorem updTable_err (s : State) (t : Nat) (f : Table → Table) : (s.updTable t f).err = s.err := rfl
@[simp] theorem updTable_trace (s : State) (t : Nat) (f : Table → Table) : (s.updTable t f).trace = s.trace := rfl
@[simp] theorem updTable_dbg (s : State) (t : Nat) (f : Table → Table) : (s.updTable t f).dbg = s.dbg := rfl
@[simp] theorem updTable_counters (s : State) (t : Nat) (f : Table → Table) : (s.updTable t f).counters = s.counters := rfl
@[simp] theorem updTable_copies (s : State) (t : Nat) (f : Table → Table) : (s.updTable t f).copies = s.copies := rfl
@[simp] theorem updTable_clocks (s : State) (t : Nat) (f : Table → Table) : (s.updTable t f).clocks = s.clocks := rfl
@[simp] theorem updTable_nextItem (s : State) (t : Nat) (f : Table → Table) : (s.updTable t f).nextItem = s.nextItem := rfl
@[simp] theorem updTable_rr (s : State) (t : Nat) (f : Table → Table) : (s.updTable t f).rr = s.rr := rfl
@[simp] theorem updTable_rateAt (s : State) (t : Nat) (f : Table → Table) : (s.updTable t f).rateAt = s.rateAt := rfl
@[simp] theorem updTable_nextId (s : State) (t : Nat) (f : Table → Table) : (s.updTable t f).nextId = s.nextId := rfl
@[simp] theorem updTable_tokens (s : State) (t : Nat) (f : Table → Table) : (s.updTable t f).tokens = s.tokens := rfl
@[simp] theorem updTable_refillAt (s : State) (t : Nat) (f : Table → Table) : (s.updTable t f).refillAt = s.refillAt := rfl
@[simp] theorem updTable_regu (s : State) (t : Nat) (f : Table → Table) : (s.updTable t f).regu = s.regu := rfl
@[simp] theorem updTable_cfg (s : State) (t : Nat) (f : Table → Table) : (s.updTable t f).cfg = s.cfg := rfl
@[simp] theorem updTable_cfgSentAt (s : State) (t : Nat) (f : Table → Table) : (s.updTable t f).cfgSentAt = s.cfgSentAt := rfl
@[simp] theorem updTable_decayAt (s : State) (t : Nat) (f : Table → Table) : (s.updTable t f).decayAt = s.decayAt := rfl
@[simp] theorem updTable_expSeen (s : State) (t : Nat) (f : Table → Table) : (s.updTable t f).expSeen = s.expSeen := rfl
@[simp] theorem updTable_grantCache (s : State) (t : Nat) (f : Table → Table) : (s.updTable t f).grantCache = s.grantCache := rfl
@[simp] theorem updTable_countCache (s : State) (t : Nat) (f : Table → Table) : (s.updTable t f).countCache = s.countCache := rfl
@[simp] theorem updTable_qlocked (s : State) (t : Nat) (f : Table → Table) : (s.updTable t f).qlocked = s.qlocked := rfl
@[simp] theorem updTable_grants (s : State) (t : Nat) (f : Table → Table) : (s.updTable t f).grants = s.grants := rfl
@[simp] theorem updTable_reuse (s : State) (t : Nat) (f : Table → Table) : (s.updTable t f).reuse = s.reuse := rfl
@[simp] theorem updTable_sqTail (s : State) (t : Nat) (f : Table → Table) : (s.updTable t f).sqTail = s.sqTail := rfl
@[simp] theorem updTable_sqPhase (s : State) (t : Nat) (f : Table → Table) : (s.updTable t f).sqPhase = s.sqPhase := rfl
@[simp] theorem updTable_notifyPending (s : State) (t : Nat) (f : Table → Table) : (s.updTable t f).notifyPending = s.notifyPending := rfl
@[simp] theorem updTable_notifiedTail (s : State) (t : Nat) (f : Table → Table) : (s.updTable t f).notifiedTail = s.notifiedTail := rfl
@[simp] theorem updTable_qerrValid (s : State) (t : Nat) (f : Table → Table) : (s.updTable t f).qerrValid = s.qerrValid := rfl
@[simp] theorem updTable_qerrIndex (s : State) (t : Nat) (f : Table → Table) : (s.updTable t f).qerrIndex = s.qerrIndex := rfl
@[simp] theorem updTable_nextOrder (s : State) (t : Nat) (f : Table → Table) : (s.updTable t f).nextOrder = s.nextOrder := rfl
@[simp] theorem updTable_images (s : State) (t : Nat) (f : Table → Table) : (s.updTable t f).images = s.images := rfl
@[simp] theorem updTable_poolShare (s : State) (t : Nat) (f : Table → Table) : (s.updTable t f).poolShare = s.poolShare := rfl
@[simp] theorem updTable_sketchBuf (s : State) (t : Nat) (f : Table → Table) : (s.updTable t f).sketchBuf = s.sketchBuf := rfl
@[simp] theorem updTable_feeder (s : State) (t : Nat) (f : Table → Table) : (s.updTable t f).feeder = s.feeder := rfl

/-! ## updTset -/

@[simp] theorem updTset_pending (s : State) (h : Nat) (f : TableSet → TableSet) : (s.updTset h f).pending = s.pending := rfl
@[simp] theorem updTset_time (s : State) (h : Nat) (f : TableSet → TableSet) : (s.updTset h f).time = s.time := rfl
@[simp] theorem updTset_fresh (s : State) (h : Nat) (f : TableSet → TableSet) : (s.updTset h f).fresh = s.fresh := rfl
@[simp] theorem updTset_boot (s : State) (h : Nat) (f : TableSet → TableSet) : (s.updTset h f).boot = s.boot := rfl
@[simp] theorem updTset_fuses (s : State) (h : Nat) (f : TableSet → TableSet) : (s.updTset h f).fuses = s.fuses := rfl
@[simp] theorem updTset_regs (s : State) (h : Nat) (f : TableSet → TableSet) : (s.updTset h f).regs = s.regs := rfl
@[simp] theorem updTset_req (s : State) (h : Nat) (f : TableSet → TableSet) : (s.updTset h f).req = s.req := rfl
@[simp] theorem updTset_pkg (s : State) (h : Nat) (f : TableSet → TableSet) : (s.updTset h f).pkg = s.pkg := rfl
@[simp] theorem updTset_mem (s : State) (h : Nat) (f : TableSet → TableSet) : (s.updTset h f).mem = s.mem := rfl
@[simp] theorem updTset_poison (s : State) (h : Nat) (f : TableSet → TableSet) : (s.updTset h f).poison = s.poison := rfl
@[simp] theorem updTset_streams (s : State) (h : Nat) (f : TableSet → TableSet) : (s.updTset h f).streams = s.streams := rfl
@[simp] theorem updTset_slices (s : State) (h : Nat) (f : TableSet → TableSet) : (s.updTset h f).slices = s.slices := rfl
@[simp] theorem updTset_items (s : State) (h : Nat) (f : TableSet → TableSet) : (s.updTset h f).items = s.items := rfl
@[simp] theorem updTset_rc (s : State) (h : Nat) (f : TableSet → TableSet) : (s.updTset h f).rc = s.rc := rfl
@[simp] theorem updTset_wc (s : State) (h : Nat) (f : TableSet → TableSet) : (s.updTset h f).wc = s.wc := rfl
@[simp] theorem updTset_memReqs (s : State) (h : Nat) (f : TableSet → TableSet) : (s.updTset h f).memReqs = s.memReqs := rfl
@[simp] theorem updTset_hbm (s : State) (h : Nat) (f : TableSet → TableSet) : (s.updTset h f).hbm = s.hbm := rfl
@[simp] theorem updTset_cap (s : State) (h : Nat) (f : TableSet → TableSet) : (s.updTset h f).cap = s.cap := rfl
@[simp] theorem updTset_walks (s : State) (h : Nat) (f : TableSet → TableSet) : (s.updTset h f).walks = s.walks := rfl
@[simp] theorem updTset_tlb2 (s : State) (h : Nat) (f : TableSet → TableSet) : (s.updTset h f).tlb2 = s.tlb2 := rfl
@[simp] theorem updTset_faults (s : State) (h : Nat) (f : TableSet → TableSet) : (s.updTset h f).faults = s.faults := rfl
@[simp] theorem updTset_faultsWaiting (s : State) (h : Nat) (f : TableSet → TableSet) : (s.updTset h f).faultsWaiting = s.faultsWaiting := rfl
@[simp] theorem updTset_contexts (s : State) (h : Nat) (f : TableSet → TableSet) : (s.updTset h f).contexts = s.contexts := rfl
@[simp] theorem updTset_rings (s : State) (h : Nat) (f : TableSet → TableSet) : (s.updTset h f).rings = s.rings := rfl
@[simp] theorem updTset_fabqs (s : State) (h : Nat) (f : TableSet → TableSet) : (s.updTset h f).fabqs = s.fabqs := rfl
@[simp] theorem updTset_jobs (s : State) (h : Nat) (f : TableSet → TableSet) : (s.updTset h f).jobs = s.jobs := rfl
@[simp] theorem updTset_plans (s : State) (h : Nat) (f : TableSet → TableSet) : (s.updTset h f).plans = s.plans := rfl
@[simp] theorem updTset_tables (s : State) (h : Nat) (f : TableSet → TableSet) : (s.updTset h f).tables = s.tables := rfl
theorem updTset_tsets (s : State) (h : Nat) (f : TableSet → TableSet) : (s.updTset h f).tsets = s.tsets.map fun e => if e.1 = h then (e.1, f e.2) else e := rfl
@[simp] theorem updTset_wsets (s : State) (h : Nat) (f : TableSet → TableSet) : (s.updTset h f).wsets = s.wsets := rfl
@[simp] theorem updTset_poisoned (s : State) (h : Nat) (f : TableSet → TableSet) : (s.updTset h f).poisoned = s.poisoned := rfl
@[simp] theorem updTset_arrays (s : State) (h : Nat) (f : TableSet → TableSet) : (s.updTset h f).arrays = s.arrays := rfl
@[simp] theorem updTset_fab (s : State) (h : Nat) (f : TableSet → TableSet) : (s.updTset h f).fab = s.fab := rfl
@[simp] theorem updTset_pw (s : State) (h : Nat) (f : TableSet → TableSet) : (s.updTset h f).pw = s.pw := rfl
@[simp] theorem updTset_err (s : State) (h : Nat) (f : TableSet → TableSet) : (s.updTset h f).err = s.err := rfl
@[simp] theorem updTset_trace (s : State) (h : Nat) (f : TableSet → TableSet) : (s.updTset h f).trace = s.trace := rfl
@[simp] theorem updTset_dbg (s : State) (h : Nat) (f : TableSet → TableSet) : (s.updTset h f).dbg = s.dbg := rfl
@[simp] theorem updTset_counters (s : State) (h : Nat) (f : TableSet → TableSet) : (s.updTset h f).counters = s.counters := rfl
@[simp] theorem updTset_copies (s : State) (h : Nat) (f : TableSet → TableSet) : (s.updTset h f).copies = s.copies := rfl
@[simp] theorem updTset_clocks (s : State) (h : Nat) (f : TableSet → TableSet) : (s.updTset h f).clocks = s.clocks := rfl
@[simp] theorem updTset_nextItem (s : State) (h : Nat) (f : TableSet → TableSet) : (s.updTset h f).nextItem = s.nextItem := rfl
@[simp] theorem updTset_rr (s : State) (h : Nat) (f : TableSet → TableSet) : (s.updTset h f).rr = s.rr := rfl
@[simp] theorem updTset_rateAt (s : State) (h : Nat) (f : TableSet → TableSet) : (s.updTset h f).rateAt = s.rateAt := rfl
@[simp] theorem updTset_nextId (s : State) (h : Nat) (f : TableSet → TableSet) : (s.updTset h f).nextId = s.nextId := rfl
@[simp] theorem updTset_tokens (s : State) (h : Nat) (f : TableSet → TableSet) : (s.updTset h f).tokens = s.tokens := rfl
@[simp] theorem updTset_refillAt (s : State) (h : Nat) (f : TableSet → TableSet) : (s.updTset h f).refillAt = s.refillAt := rfl
@[simp] theorem updTset_regu (s : State) (h : Nat) (f : TableSet → TableSet) : (s.updTset h f).regu = s.regu := rfl
@[simp] theorem updTset_cfg (s : State) (h : Nat) (f : TableSet → TableSet) : (s.updTset h f).cfg = s.cfg := rfl
@[simp] theorem updTset_cfgSentAt (s : State) (h : Nat) (f : TableSet → TableSet) : (s.updTset h f).cfgSentAt = s.cfgSentAt := rfl
@[simp] theorem updTset_decayAt (s : State) (h : Nat) (f : TableSet → TableSet) : (s.updTset h f).decayAt = s.decayAt := rfl
@[simp] theorem updTset_expSeen (s : State) (h : Nat) (f : TableSet → TableSet) : (s.updTset h f).expSeen = s.expSeen := rfl
@[simp] theorem updTset_grantCache (s : State) (h : Nat) (f : TableSet → TableSet) : (s.updTset h f).grantCache = s.grantCache := rfl
@[simp] theorem updTset_countCache (s : State) (h : Nat) (f : TableSet → TableSet) : (s.updTset h f).countCache = s.countCache := rfl
@[simp] theorem updTset_qlocked (s : State) (h : Nat) (f : TableSet → TableSet) : (s.updTset h f).qlocked = s.qlocked := rfl
@[simp] theorem updTset_grants (s : State) (h : Nat) (f : TableSet → TableSet) : (s.updTset h f).grants = s.grants := rfl
@[simp] theorem updTset_reuse (s : State) (h : Nat) (f : TableSet → TableSet) : (s.updTset h f).reuse = s.reuse := rfl
@[simp] theorem updTset_sqTail (s : State) (h : Nat) (f : TableSet → TableSet) : (s.updTset h f).sqTail = s.sqTail := rfl
@[simp] theorem updTset_sqPhase (s : State) (h : Nat) (f : TableSet → TableSet) : (s.updTset h f).sqPhase = s.sqPhase := rfl
@[simp] theorem updTset_notifyPending (s : State) (h : Nat) (f : TableSet → TableSet) : (s.updTset h f).notifyPending = s.notifyPending := rfl
@[simp] theorem updTset_notifiedTail (s : State) (h : Nat) (f : TableSet → TableSet) : (s.updTset h f).notifiedTail = s.notifiedTail := rfl
@[simp] theorem updTset_qerrValid (s : State) (h : Nat) (f : TableSet → TableSet) : (s.updTset h f).qerrValid = s.qerrValid := rfl
@[simp] theorem updTset_qerrIndex (s : State) (h : Nat) (f : TableSet → TableSet) : (s.updTset h f).qerrIndex = s.qerrIndex := rfl
@[simp] theorem updTset_nextOrder (s : State) (h : Nat) (f : TableSet → TableSet) : (s.updTset h f).nextOrder = s.nextOrder := rfl
@[simp] theorem updTset_images (s : State) (h : Nat) (f : TableSet → TableSet) : (s.updTset h f).images = s.images := rfl
@[simp] theorem updTset_poolShare (s : State) (h : Nat) (f : TableSet → TableSet) : (s.updTset h f).poolShare = s.poolShare := rfl
@[simp] theorem updTset_sketchBuf (s : State) (h : Nat) (f : TableSet → TableSet) : (s.updTset h f).sketchBuf = s.sketchBuf := rfl
@[simp] theorem updTset_feeder (s : State) (h : Nat) (f : TableSet → TableSet) : (s.updTset h f).feeder = s.feeder := rfl

/-! ## updWset -/

@[simp] theorem updWset_pending (s : State) (h : Nat) (f : WeightSet → WeightSet) : (s.updWset h f).pending = s.pending := rfl
@[simp] theorem updWset_time (s : State) (h : Nat) (f : WeightSet → WeightSet) : (s.updWset h f).time = s.time := rfl
@[simp] theorem updWset_fresh (s : State) (h : Nat) (f : WeightSet → WeightSet) : (s.updWset h f).fresh = s.fresh := rfl
@[simp] theorem updWset_boot (s : State) (h : Nat) (f : WeightSet → WeightSet) : (s.updWset h f).boot = s.boot := rfl
@[simp] theorem updWset_fuses (s : State) (h : Nat) (f : WeightSet → WeightSet) : (s.updWset h f).fuses = s.fuses := rfl
@[simp] theorem updWset_regs (s : State) (h : Nat) (f : WeightSet → WeightSet) : (s.updWset h f).regs = s.regs := rfl
@[simp] theorem updWset_req (s : State) (h : Nat) (f : WeightSet → WeightSet) : (s.updWset h f).req = s.req := rfl
@[simp] theorem updWset_pkg (s : State) (h : Nat) (f : WeightSet → WeightSet) : (s.updWset h f).pkg = s.pkg := rfl
@[simp] theorem updWset_mem (s : State) (h : Nat) (f : WeightSet → WeightSet) : (s.updWset h f).mem = s.mem := rfl
@[simp] theorem updWset_poison (s : State) (h : Nat) (f : WeightSet → WeightSet) : (s.updWset h f).poison = s.poison := rfl
@[simp] theorem updWset_streams (s : State) (h : Nat) (f : WeightSet → WeightSet) : (s.updWset h f).streams = s.streams := rfl
@[simp] theorem updWset_slices (s : State) (h : Nat) (f : WeightSet → WeightSet) : (s.updWset h f).slices = s.slices := rfl
@[simp] theorem updWset_items (s : State) (h : Nat) (f : WeightSet → WeightSet) : (s.updWset h f).items = s.items := rfl
@[simp] theorem updWset_rc (s : State) (h : Nat) (f : WeightSet → WeightSet) : (s.updWset h f).rc = s.rc := rfl
@[simp] theorem updWset_wc (s : State) (h : Nat) (f : WeightSet → WeightSet) : (s.updWset h f).wc = s.wc := rfl
@[simp] theorem updWset_memReqs (s : State) (h : Nat) (f : WeightSet → WeightSet) : (s.updWset h f).memReqs = s.memReqs := rfl
@[simp] theorem updWset_hbm (s : State) (h : Nat) (f : WeightSet → WeightSet) : (s.updWset h f).hbm = s.hbm := rfl
@[simp] theorem updWset_cap (s : State) (h : Nat) (f : WeightSet → WeightSet) : (s.updWset h f).cap = s.cap := rfl
@[simp] theorem updWset_walks (s : State) (h : Nat) (f : WeightSet → WeightSet) : (s.updWset h f).walks = s.walks := rfl
@[simp] theorem updWset_tlb2 (s : State) (h : Nat) (f : WeightSet → WeightSet) : (s.updWset h f).tlb2 = s.tlb2 := rfl
@[simp] theorem updWset_faults (s : State) (h : Nat) (f : WeightSet → WeightSet) : (s.updWset h f).faults = s.faults := rfl
@[simp] theorem updWset_faultsWaiting (s : State) (h : Nat) (f : WeightSet → WeightSet) : (s.updWset h f).faultsWaiting = s.faultsWaiting := rfl
@[simp] theorem updWset_contexts (s : State) (h : Nat) (f : WeightSet → WeightSet) : (s.updWset h f).contexts = s.contexts := rfl
@[simp] theorem updWset_rings (s : State) (h : Nat) (f : WeightSet → WeightSet) : (s.updWset h f).rings = s.rings := rfl
@[simp] theorem updWset_fabqs (s : State) (h : Nat) (f : WeightSet → WeightSet) : (s.updWset h f).fabqs = s.fabqs := rfl
@[simp] theorem updWset_jobs (s : State) (h : Nat) (f : WeightSet → WeightSet) : (s.updWset h f).jobs = s.jobs := rfl
@[simp] theorem updWset_plans (s : State) (h : Nat) (f : WeightSet → WeightSet) : (s.updWset h f).plans = s.plans := rfl
@[simp] theorem updWset_tables (s : State) (h : Nat) (f : WeightSet → WeightSet) : (s.updWset h f).tables = s.tables := rfl
@[simp] theorem updWset_tsets (s : State) (h : Nat) (f : WeightSet → WeightSet) : (s.updWset h f).tsets = s.tsets := rfl
theorem updWset_wsets (s : State) (h : Nat) (f : WeightSet → WeightSet) : (s.updWset h f).wsets = s.wsets.map fun e => if e.1 = h then (e.1, f e.2) else e := rfl
@[simp] theorem updWset_poisoned (s : State) (h : Nat) (f : WeightSet → WeightSet) : (s.updWset h f).poisoned = s.poisoned := rfl
@[simp] theorem updWset_arrays (s : State) (h : Nat) (f : WeightSet → WeightSet) : (s.updWset h f).arrays = s.arrays := rfl
@[simp] theorem updWset_fab (s : State) (h : Nat) (f : WeightSet → WeightSet) : (s.updWset h f).fab = s.fab := rfl
@[simp] theorem updWset_pw (s : State) (h : Nat) (f : WeightSet → WeightSet) : (s.updWset h f).pw = s.pw := rfl
@[simp] theorem updWset_err (s : State) (h : Nat) (f : WeightSet → WeightSet) : (s.updWset h f).err = s.err := rfl
@[simp] theorem updWset_trace (s : State) (h : Nat) (f : WeightSet → WeightSet) : (s.updWset h f).trace = s.trace := rfl
@[simp] theorem updWset_dbg (s : State) (h : Nat) (f : WeightSet → WeightSet) : (s.updWset h f).dbg = s.dbg := rfl
@[simp] theorem updWset_counters (s : State) (h : Nat) (f : WeightSet → WeightSet) : (s.updWset h f).counters = s.counters := rfl
@[simp] theorem updWset_copies (s : State) (h : Nat) (f : WeightSet → WeightSet) : (s.updWset h f).copies = s.copies := rfl
@[simp] theorem updWset_clocks (s : State) (h : Nat) (f : WeightSet → WeightSet) : (s.updWset h f).clocks = s.clocks := rfl
@[simp] theorem updWset_nextItem (s : State) (h : Nat) (f : WeightSet → WeightSet) : (s.updWset h f).nextItem = s.nextItem := rfl
@[simp] theorem updWset_rr (s : State) (h : Nat) (f : WeightSet → WeightSet) : (s.updWset h f).rr = s.rr := rfl
@[simp] theorem updWset_rateAt (s : State) (h : Nat) (f : WeightSet → WeightSet) : (s.updWset h f).rateAt = s.rateAt := rfl
@[simp] theorem updWset_nextId (s : State) (h : Nat) (f : WeightSet → WeightSet) : (s.updWset h f).nextId = s.nextId := rfl
@[simp] theorem updWset_tokens (s : State) (h : Nat) (f : WeightSet → WeightSet) : (s.updWset h f).tokens = s.tokens := rfl
@[simp] theorem updWset_refillAt (s : State) (h : Nat) (f : WeightSet → WeightSet) : (s.updWset h f).refillAt = s.refillAt := rfl
@[simp] theorem updWset_regu (s : State) (h : Nat) (f : WeightSet → WeightSet) : (s.updWset h f).regu = s.regu := rfl
@[simp] theorem updWset_cfg (s : State) (h : Nat) (f : WeightSet → WeightSet) : (s.updWset h f).cfg = s.cfg := rfl
@[simp] theorem updWset_cfgSentAt (s : State) (h : Nat) (f : WeightSet → WeightSet) : (s.updWset h f).cfgSentAt = s.cfgSentAt := rfl
@[simp] theorem updWset_decayAt (s : State) (h : Nat) (f : WeightSet → WeightSet) : (s.updWset h f).decayAt = s.decayAt := rfl
@[simp] theorem updWset_expSeen (s : State) (h : Nat) (f : WeightSet → WeightSet) : (s.updWset h f).expSeen = s.expSeen := rfl
@[simp] theorem updWset_grantCache (s : State) (h : Nat) (f : WeightSet → WeightSet) : (s.updWset h f).grantCache = s.grantCache := rfl
@[simp] theorem updWset_countCache (s : State) (h : Nat) (f : WeightSet → WeightSet) : (s.updWset h f).countCache = s.countCache := rfl
@[simp] theorem updWset_qlocked (s : State) (h : Nat) (f : WeightSet → WeightSet) : (s.updWset h f).qlocked = s.qlocked := rfl
@[simp] theorem updWset_grants (s : State) (h : Nat) (f : WeightSet → WeightSet) : (s.updWset h f).grants = s.grants := rfl
@[simp] theorem updWset_reuse (s : State) (h : Nat) (f : WeightSet → WeightSet) : (s.updWset h f).reuse = s.reuse := rfl
@[simp] theorem updWset_sqTail (s : State) (h : Nat) (f : WeightSet → WeightSet) : (s.updWset h f).sqTail = s.sqTail := rfl
@[simp] theorem updWset_sqPhase (s : State) (h : Nat) (f : WeightSet → WeightSet) : (s.updWset h f).sqPhase = s.sqPhase := rfl
@[simp] theorem updWset_notifyPending (s : State) (h : Nat) (f : WeightSet → WeightSet) : (s.updWset h f).notifyPending = s.notifyPending := rfl
@[simp] theorem updWset_notifiedTail (s : State) (h : Nat) (f : WeightSet → WeightSet) : (s.updWset h f).notifiedTail = s.notifiedTail := rfl
@[simp] theorem updWset_qerrValid (s : State) (h : Nat) (f : WeightSet → WeightSet) : (s.updWset h f).qerrValid = s.qerrValid := rfl
@[simp] theorem updWset_qerrIndex (s : State) (h : Nat) (f : WeightSet → WeightSet) : (s.updWset h f).qerrIndex = s.qerrIndex := rfl
@[simp] theorem updWset_nextOrder (s : State) (h : Nat) (f : WeightSet → WeightSet) : (s.updWset h f).nextOrder = s.nextOrder := rfl
@[simp] theorem updWset_images (s : State) (h : Nat) (f : WeightSet → WeightSet) : (s.updWset h f).images = s.images := rfl
@[simp] theorem updWset_poolShare (s : State) (h : Nat) (f : WeightSet → WeightSet) : (s.updWset h f).poolShare = s.poolShare := rfl
@[simp] theorem updWset_sketchBuf (s : State) (h : Nat) (f : WeightSet → WeightSet) : (s.updWset h f).sketchBuf = s.sketchBuf := rfl
@[simp] theorem updWset_feeder (s : State) (h : Nat) (f : WeightSet → WeightSet) : (s.updWset h f).feeder = s.feeder := rfl

/-! ## updRing -/

@[simp] theorem updRing_pending (s : State) (i : Nat) (f : Ring → Ring) : (s.updRing i f).pending = s.pending := rfl
@[simp] theorem updRing_time (s : State) (i : Nat) (f : Ring → Ring) : (s.updRing i f).time = s.time := rfl
@[simp] theorem updRing_fresh (s : State) (i : Nat) (f : Ring → Ring) : (s.updRing i f).fresh = s.fresh := rfl
@[simp] theorem updRing_boot (s : State) (i : Nat) (f : Ring → Ring) : (s.updRing i f).boot = s.boot := rfl
@[simp] theorem updRing_fuses (s : State) (i : Nat) (f : Ring → Ring) : (s.updRing i f).fuses = s.fuses := rfl
@[simp] theorem updRing_regs (s : State) (i : Nat) (f : Ring → Ring) : (s.updRing i f).regs = s.regs := rfl
@[simp] theorem updRing_req (s : State) (i : Nat) (f : Ring → Ring) : (s.updRing i f).req = s.req := rfl
@[simp] theorem updRing_pkg (s : State) (i : Nat) (f : Ring → Ring) : (s.updRing i f).pkg = s.pkg := rfl
@[simp] theorem updRing_mem (s : State) (i : Nat) (f : Ring → Ring) : (s.updRing i f).mem = s.mem := rfl
@[simp] theorem updRing_poison (s : State) (i : Nat) (f : Ring → Ring) : (s.updRing i f).poison = s.poison := rfl
@[simp] theorem updRing_streams (s : State) (i : Nat) (f : Ring → Ring) : (s.updRing i f).streams = s.streams := rfl
@[simp] theorem updRing_slices (s : State) (i : Nat) (f : Ring → Ring) : (s.updRing i f).slices = s.slices := rfl
@[simp] theorem updRing_items (s : State) (i : Nat) (f : Ring → Ring) : (s.updRing i f).items = s.items := rfl
@[simp] theorem updRing_rc (s : State) (i : Nat) (f : Ring → Ring) : (s.updRing i f).rc = s.rc := rfl
@[simp] theorem updRing_wc (s : State) (i : Nat) (f : Ring → Ring) : (s.updRing i f).wc = s.wc := rfl
@[simp] theorem updRing_memReqs (s : State) (i : Nat) (f : Ring → Ring) : (s.updRing i f).memReqs = s.memReqs := rfl
@[simp] theorem updRing_hbm (s : State) (i : Nat) (f : Ring → Ring) : (s.updRing i f).hbm = s.hbm := rfl
@[simp] theorem updRing_cap (s : State) (i : Nat) (f : Ring → Ring) : (s.updRing i f).cap = s.cap := rfl
@[simp] theorem updRing_walks (s : State) (i : Nat) (f : Ring → Ring) : (s.updRing i f).walks = s.walks := rfl
@[simp] theorem updRing_tlb2 (s : State) (i : Nat) (f : Ring → Ring) : (s.updRing i f).tlb2 = s.tlb2 := rfl
@[simp] theorem updRing_faults (s : State) (i : Nat) (f : Ring → Ring) : (s.updRing i f).faults = s.faults := rfl
@[simp] theorem updRing_faultsWaiting (s : State) (i : Nat) (f : Ring → Ring) : (s.updRing i f).faultsWaiting = s.faultsWaiting := rfl
@[simp] theorem updRing_contexts (s : State) (i : Nat) (f : Ring → Ring) : (s.updRing i f).contexts = s.contexts := rfl
theorem updRing_rings (s : State) (i : Nat) (f : Ring → Ring) : (s.updRing i f).rings = s.rings.map fun e => if e.1 = i then (e.1, f e.2) else e := rfl
@[simp] theorem updRing_fabqs (s : State) (i : Nat) (f : Ring → Ring) : (s.updRing i f).fabqs = s.fabqs := rfl
@[simp] theorem updRing_jobs (s : State) (i : Nat) (f : Ring → Ring) : (s.updRing i f).jobs = s.jobs := rfl
@[simp] theorem updRing_plans (s : State) (i : Nat) (f : Ring → Ring) : (s.updRing i f).plans = s.plans := rfl
@[simp] theorem updRing_tables (s : State) (i : Nat) (f : Ring → Ring) : (s.updRing i f).tables = s.tables := rfl
@[simp] theorem updRing_tsets (s : State) (i : Nat) (f : Ring → Ring) : (s.updRing i f).tsets = s.tsets := rfl
@[simp] theorem updRing_wsets (s : State) (i : Nat) (f : Ring → Ring) : (s.updRing i f).wsets = s.wsets := rfl
@[simp] theorem updRing_poisoned (s : State) (i : Nat) (f : Ring → Ring) : (s.updRing i f).poisoned = s.poisoned := rfl
@[simp] theorem updRing_arrays (s : State) (i : Nat) (f : Ring → Ring) : (s.updRing i f).arrays = s.arrays := rfl
@[simp] theorem updRing_fab (s : State) (i : Nat) (f : Ring → Ring) : (s.updRing i f).fab = s.fab := rfl
@[simp] theorem updRing_pw (s : State) (i : Nat) (f : Ring → Ring) : (s.updRing i f).pw = s.pw := rfl
@[simp] theorem updRing_err (s : State) (i : Nat) (f : Ring → Ring) : (s.updRing i f).err = s.err := rfl
@[simp] theorem updRing_trace (s : State) (i : Nat) (f : Ring → Ring) : (s.updRing i f).trace = s.trace := rfl
@[simp] theorem updRing_dbg (s : State) (i : Nat) (f : Ring → Ring) : (s.updRing i f).dbg = s.dbg := rfl
@[simp] theorem updRing_counters (s : State) (i : Nat) (f : Ring → Ring) : (s.updRing i f).counters = s.counters := rfl
@[simp] theorem updRing_copies (s : State) (i : Nat) (f : Ring → Ring) : (s.updRing i f).copies = s.copies := rfl
@[simp] theorem updRing_clocks (s : State) (i : Nat) (f : Ring → Ring) : (s.updRing i f).clocks = s.clocks := rfl
@[simp] theorem updRing_nextItem (s : State) (i : Nat) (f : Ring → Ring) : (s.updRing i f).nextItem = s.nextItem := rfl
@[simp] theorem updRing_rr (s : State) (i : Nat) (f : Ring → Ring) : (s.updRing i f).rr = s.rr := rfl
@[simp] theorem updRing_rateAt (s : State) (i : Nat) (f : Ring → Ring) : (s.updRing i f).rateAt = s.rateAt := rfl
@[simp] theorem updRing_nextId (s : State) (i : Nat) (f : Ring → Ring) : (s.updRing i f).nextId = s.nextId := rfl
@[simp] theorem updRing_tokens (s : State) (i : Nat) (f : Ring → Ring) : (s.updRing i f).tokens = s.tokens := rfl
@[simp] theorem updRing_refillAt (s : State) (i : Nat) (f : Ring → Ring) : (s.updRing i f).refillAt = s.refillAt := rfl
@[simp] theorem updRing_regu (s : State) (i : Nat) (f : Ring → Ring) : (s.updRing i f).regu = s.regu := rfl
@[simp] theorem updRing_cfg (s : State) (i : Nat) (f : Ring → Ring) : (s.updRing i f).cfg = s.cfg := rfl
@[simp] theorem updRing_cfgSentAt (s : State) (i : Nat) (f : Ring → Ring) : (s.updRing i f).cfgSentAt = s.cfgSentAt := rfl
@[simp] theorem updRing_decayAt (s : State) (i : Nat) (f : Ring → Ring) : (s.updRing i f).decayAt = s.decayAt := rfl
@[simp] theorem updRing_expSeen (s : State) (i : Nat) (f : Ring → Ring) : (s.updRing i f).expSeen = s.expSeen := rfl
@[simp] theorem updRing_grantCache (s : State) (i : Nat) (f : Ring → Ring) : (s.updRing i f).grantCache = s.grantCache := rfl
@[simp] theorem updRing_countCache (s : State) (i : Nat) (f : Ring → Ring) : (s.updRing i f).countCache = s.countCache := rfl
@[simp] theorem updRing_qlocked (s : State) (i : Nat) (f : Ring → Ring) : (s.updRing i f).qlocked = s.qlocked := rfl
@[simp] theorem updRing_grants (s : State) (i : Nat) (f : Ring → Ring) : (s.updRing i f).grants = s.grants := rfl
@[simp] theorem updRing_reuse (s : State) (i : Nat) (f : Ring → Ring) : (s.updRing i f).reuse = s.reuse := rfl
@[simp] theorem updRing_sqTail (s : State) (i : Nat) (f : Ring → Ring) : (s.updRing i f).sqTail = s.sqTail := rfl
@[simp] theorem updRing_sqPhase (s : State) (i : Nat) (f : Ring → Ring) : (s.updRing i f).sqPhase = s.sqPhase := rfl
@[simp] theorem updRing_notifyPending (s : State) (i : Nat) (f : Ring → Ring) : (s.updRing i f).notifyPending = s.notifyPending := rfl
@[simp] theorem updRing_notifiedTail (s : State) (i : Nat) (f : Ring → Ring) : (s.updRing i f).notifiedTail = s.notifiedTail := rfl
@[simp] theorem updRing_qerrValid (s : State) (i : Nat) (f : Ring → Ring) : (s.updRing i f).qerrValid = s.qerrValid := rfl
@[simp] theorem updRing_qerrIndex (s : State) (i : Nat) (f : Ring → Ring) : (s.updRing i f).qerrIndex = s.qerrIndex := rfl
@[simp] theorem updRing_nextOrder (s : State) (i : Nat) (f : Ring → Ring) : (s.updRing i f).nextOrder = s.nextOrder := rfl
@[simp] theorem updRing_images (s : State) (i : Nat) (f : Ring → Ring) : (s.updRing i f).images = s.images := rfl
@[simp] theorem updRing_poolShare (s : State) (i : Nat) (f : Ring → Ring) : (s.updRing i f).poolShare = s.poolShare := rfl
@[simp] theorem updRing_sketchBuf (s : State) (i : Nat) (f : Ring → Ring) : (s.updRing i f).sketchBuf = s.sketchBuf := rfl
@[simp] theorem updRing_feeder (s : State) (i : Nat) (f : Ring → Ring) : (s.updRing i f).feeder = s.feeder := rfl

/-! ## send -/

@[simp] theorem send_pending (s : State) (m : PkgMsg) : (s.send m).pending = s.pending := rfl
@[simp] theorem send_time (s : State) (m : PkgMsg) : (s.send m).time = s.time := rfl
@[simp] theorem send_fresh (s : State) (m : PkgMsg) : (s.send m).fresh = s.fresh := rfl
@[simp] theorem send_boot (s : State) (m : PkgMsg) : (s.send m).boot = s.boot := rfl
@[simp] theorem send_fuses (s : State) (m : PkgMsg) : (s.send m).fuses = s.fuses := rfl
@[simp] theorem send_regs (s : State) (m : PkgMsg) : (s.send m).regs = s.regs := rfl
@[simp] theorem send_req (s : State) (m : PkgMsg) : (s.send m).req = s.req := rfl
theorem send_pkg (s : State) (m : PkgMsg) : (s.send m).pkg = s.pkg ++ [m] := rfl
@[simp] theorem send_mem (s : State) (m : PkgMsg) : (s.send m).mem = s.mem := rfl
@[simp] theorem send_poison (s : State) (m : PkgMsg) : (s.send m).poison = s.poison := rfl
@[simp] theorem send_streams (s : State) (m : PkgMsg) : (s.send m).streams = s.streams := rfl
@[simp] theorem send_slices (s : State) (m : PkgMsg) : (s.send m).slices = s.slices := rfl
@[simp] theorem send_items (s : State) (m : PkgMsg) : (s.send m).items = s.items := rfl
@[simp] theorem send_rc (s : State) (m : PkgMsg) : (s.send m).rc = s.rc := rfl
@[simp] theorem send_wc (s : State) (m : PkgMsg) : (s.send m).wc = s.wc := rfl
@[simp] theorem send_memReqs (s : State) (m : PkgMsg) : (s.send m).memReqs = s.memReqs := rfl
@[simp] theorem send_hbm (s : State) (m : PkgMsg) : (s.send m).hbm = s.hbm := rfl
@[simp] theorem send_cap (s : State) (m : PkgMsg) : (s.send m).cap = s.cap := rfl
@[simp] theorem send_walks (s : State) (m : PkgMsg) : (s.send m).walks = s.walks := rfl
@[simp] theorem send_tlb2 (s : State) (m : PkgMsg) : (s.send m).tlb2 = s.tlb2 := rfl
@[simp] theorem send_faults (s : State) (m : PkgMsg) : (s.send m).faults = s.faults := rfl
@[simp] theorem send_faultsWaiting (s : State) (m : PkgMsg) : (s.send m).faultsWaiting = s.faultsWaiting := rfl
@[simp] theorem send_contexts (s : State) (m : PkgMsg) : (s.send m).contexts = s.contexts := rfl
@[simp] theorem send_rings (s : State) (m : PkgMsg) : (s.send m).rings = s.rings := rfl
@[simp] theorem send_fabqs (s : State) (m : PkgMsg) : (s.send m).fabqs = s.fabqs := rfl
@[simp] theorem send_jobs (s : State) (m : PkgMsg) : (s.send m).jobs = s.jobs := rfl
@[simp] theorem send_plans (s : State) (m : PkgMsg) : (s.send m).plans = s.plans := rfl
@[simp] theorem send_tables (s : State) (m : PkgMsg) : (s.send m).tables = s.tables := rfl
@[simp] theorem send_tsets (s : State) (m : PkgMsg) : (s.send m).tsets = s.tsets := rfl
@[simp] theorem send_wsets (s : State) (m : PkgMsg) : (s.send m).wsets = s.wsets := rfl
@[simp] theorem send_poisoned (s : State) (m : PkgMsg) : (s.send m).poisoned = s.poisoned := rfl
@[simp] theorem send_arrays (s : State) (m : PkgMsg) : (s.send m).arrays = s.arrays := rfl
@[simp] theorem send_fab (s : State) (m : PkgMsg) : (s.send m).fab = s.fab := rfl
@[simp] theorem send_pw (s : State) (m : PkgMsg) : (s.send m).pw = s.pw := rfl
@[simp] theorem send_err (s : State) (m : PkgMsg) : (s.send m).err = s.err := rfl
@[simp] theorem send_trace (s : State) (m : PkgMsg) : (s.send m).trace = s.trace := rfl
@[simp] theorem send_dbg (s : State) (m : PkgMsg) : (s.send m).dbg = s.dbg := rfl
@[simp] theorem send_counters (s : State) (m : PkgMsg) : (s.send m).counters = s.counters := rfl
@[simp] theorem send_copies (s : State) (m : PkgMsg) : (s.send m).copies = s.copies := rfl
@[simp] theorem send_clocks (s : State) (m : PkgMsg) : (s.send m).clocks = s.clocks := rfl
@[simp] theorem send_nextItem (s : State) (m : PkgMsg) : (s.send m).nextItem = s.nextItem := rfl
@[simp] theorem send_rr (s : State) (m : PkgMsg) : (s.send m).rr = s.rr := rfl
@[simp] theorem send_rateAt (s : State) (m : PkgMsg) : (s.send m).rateAt = s.rateAt := rfl
@[simp] theorem send_nextId (s : State) (m : PkgMsg) : (s.send m).nextId = s.nextId := rfl
@[simp] theorem send_tokens (s : State) (m : PkgMsg) : (s.send m).tokens = s.tokens := rfl
@[simp] theorem send_refillAt (s : State) (m : PkgMsg) : (s.send m).refillAt = s.refillAt := rfl
@[simp] theorem send_regu (s : State) (m : PkgMsg) : (s.send m).regu = s.regu := rfl
@[simp] theorem send_cfg (s : State) (m : PkgMsg) : (s.send m).cfg = s.cfg := rfl
@[simp] theorem send_cfgSentAt (s : State) (m : PkgMsg) : (s.send m).cfgSentAt = s.cfgSentAt := rfl
@[simp] theorem send_decayAt (s : State) (m : PkgMsg) : (s.send m).decayAt = s.decayAt := rfl
@[simp] theorem send_expSeen (s : State) (m : PkgMsg) : (s.send m).expSeen = s.expSeen := rfl
@[simp] theorem send_grantCache (s : State) (m : PkgMsg) : (s.send m).grantCache = s.grantCache := rfl
@[simp] theorem send_countCache (s : State) (m : PkgMsg) : (s.send m).countCache = s.countCache := rfl
@[simp] theorem send_qlocked (s : State) (m : PkgMsg) : (s.send m).qlocked = s.qlocked := rfl
@[simp] theorem send_grants (s : State) (m : PkgMsg) : (s.send m).grants = s.grants := rfl
@[simp] theorem send_reuse (s : State) (m : PkgMsg) : (s.send m).reuse = s.reuse := rfl
@[simp] theorem send_sqTail (s : State) (m : PkgMsg) : (s.send m).sqTail = s.sqTail := rfl
@[simp] theorem send_sqPhase (s : State) (m : PkgMsg) : (s.send m).sqPhase = s.sqPhase := rfl
@[simp] theorem send_notifyPending (s : State) (m : PkgMsg) : (s.send m).notifyPending = s.notifyPending := rfl
@[simp] theorem send_notifiedTail (s : State) (m : PkgMsg) : (s.send m).notifiedTail = s.notifiedTail := rfl
@[simp] theorem send_qerrValid (s : State) (m : PkgMsg) : (s.send m).qerrValid = s.qerrValid := rfl
@[simp] theorem send_qerrIndex (s : State) (m : PkgMsg) : (s.send m).qerrIndex = s.qerrIndex := rfl
@[simp] theorem send_nextOrder (s : State) (m : PkgMsg) : (s.send m).nextOrder = s.nextOrder := rfl
@[simp] theorem send_images (s : State) (m : PkgMsg) : (s.send m).images = s.images := rfl
@[simp] theorem send_poolShare (s : State) (m : PkgMsg) : (s.send m).poolShare = s.poolShare := rfl
@[simp] theorem send_sketchBuf (s : State) (m : PkgMsg) : (s.send m).sketchBuf = s.sketchBuf := rfl
@[simp] theorem send_feeder (s : State) (m : PkgMsg) : (s.send m).feeder = s.feeder := rfl

/-! ## setFport -/

@[simp] theorem setFport_pending (s : State) (p : Fin 8) (x : Port) : (s.setFport p x).pending = s.pending := rfl
@[simp] theorem setFport_time (s : State) (p : Fin 8) (x : Port) : (s.setFport p x).time = s.time := rfl
@[simp] theorem setFport_fresh (s : State) (p : Fin 8) (x : Port) : (s.setFport p x).fresh = s.fresh := rfl
@[simp] theorem setFport_boot (s : State) (p : Fin 8) (x : Port) : (s.setFport p x).boot = s.boot := rfl
@[simp] theorem setFport_fuses (s : State) (p : Fin 8) (x : Port) : (s.setFport p x).fuses = s.fuses := rfl
@[simp] theorem setFport_regs (s : State) (p : Fin 8) (x : Port) : (s.setFport p x).regs = s.regs := rfl
@[simp] theorem setFport_req (s : State) (p : Fin 8) (x : Port) : (s.setFport p x).req = s.req := rfl
@[simp] theorem setFport_pkg (s : State) (p : Fin 8) (x : Port) : (s.setFport p x).pkg = s.pkg := rfl
@[simp] theorem setFport_mem (s : State) (p : Fin 8) (x : Port) : (s.setFport p x).mem = s.mem := rfl
@[simp] theorem setFport_poison (s : State) (p : Fin 8) (x : Port) : (s.setFport p x).poison = s.poison := rfl
@[simp] theorem setFport_streams (s : State) (p : Fin 8) (x : Port) : (s.setFport p x).streams = s.streams := rfl
@[simp] theorem setFport_slices (s : State) (p : Fin 8) (x : Port) : (s.setFport p x).slices = s.slices := rfl
@[simp] theorem setFport_items (s : State) (p : Fin 8) (x : Port) : (s.setFport p x).items = s.items := rfl
@[simp] theorem setFport_rc (s : State) (p : Fin 8) (x : Port) : (s.setFport p x).rc = s.rc := rfl
@[simp] theorem setFport_wc (s : State) (p : Fin 8) (x : Port) : (s.setFport p x).wc = s.wc := rfl
@[simp] theorem setFport_memReqs (s : State) (p : Fin 8) (x : Port) : (s.setFport p x).memReqs = s.memReqs := rfl
@[simp] theorem setFport_hbm (s : State) (p : Fin 8) (x : Port) : (s.setFport p x).hbm = s.hbm := rfl
@[simp] theorem setFport_cap (s : State) (p : Fin 8) (x : Port) : (s.setFport p x).cap = s.cap := rfl
@[simp] theorem setFport_walks (s : State) (p : Fin 8) (x : Port) : (s.setFport p x).walks = s.walks := rfl
@[simp] theorem setFport_tlb2 (s : State) (p : Fin 8) (x : Port) : (s.setFport p x).tlb2 = s.tlb2 := rfl
@[simp] theorem setFport_faults (s : State) (p : Fin 8) (x : Port) : (s.setFport p x).faults = s.faults := rfl
@[simp] theorem setFport_faultsWaiting (s : State) (p : Fin 8) (x : Port) : (s.setFport p x).faultsWaiting = s.faultsWaiting := rfl
@[simp] theorem setFport_contexts (s : State) (p : Fin 8) (x : Port) : (s.setFport p x).contexts = s.contexts := rfl
@[simp] theorem setFport_rings (s : State) (p : Fin 8) (x : Port) : (s.setFport p x).rings = s.rings := rfl
@[simp] theorem setFport_fabqs (s : State) (p : Fin 8) (x : Port) : (s.setFport p x).fabqs = s.fabqs := rfl
@[simp] theorem setFport_jobs (s : State) (p : Fin 8) (x : Port) : (s.setFport p x).jobs = s.jobs := rfl
@[simp] theorem setFport_plans (s : State) (p : Fin 8) (x : Port) : (s.setFport p x).plans = s.plans := rfl
@[simp] theorem setFport_tables (s : State) (p : Fin 8) (x : Port) : (s.setFport p x).tables = s.tables := rfl
@[simp] theorem setFport_tsets (s : State) (p : Fin 8) (x : Port) : (s.setFport p x).tsets = s.tsets := rfl
@[simp] theorem setFport_wsets (s : State) (p : Fin 8) (x : Port) : (s.setFport p x).wsets = s.wsets := rfl
@[simp] theorem setFport_poisoned (s : State) (p : Fin 8) (x : Port) : (s.setFport p x).poisoned = s.poisoned := rfl
@[simp] theorem setFport_arrays (s : State) (p : Fin 8) (x : Port) : (s.setFport p x).arrays = s.arrays := rfl
theorem setFport_fab (s : State) (p : Fin 8) (x : Port) : (s.setFport p x).fab = { s.fab with ports := s.fab.ports.set p x } := rfl
@[simp] theorem setFport_pw (s : State) (p : Fin 8) (x : Port) : (s.setFport p x).pw = s.pw := rfl
@[simp] theorem setFport_err (s : State) (p : Fin 8) (x : Port) : (s.setFport p x).err = s.err := rfl
@[simp] theorem setFport_trace (s : State) (p : Fin 8) (x : Port) : (s.setFport p x).trace = s.trace := rfl
@[simp] theorem setFport_dbg (s : State) (p : Fin 8) (x : Port) : (s.setFport p x).dbg = s.dbg := rfl
@[simp] theorem setFport_counters (s : State) (p : Fin 8) (x : Port) : (s.setFport p x).counters = s.counters := rfl
@[simp] theorem setFport_copies (s : State) (p : Fin 8) (x : Port) : (s.setFport p x).copies = s.copies := rfl
@[simp] theorem setFport_clocks (s : State) (p : Fin 8) (x : Port) : (s.setFport p x).clocks = s.clocks := rfl
@[simp] theorem setFport_nextItem (s : State) (p : Fin 8) (x : Port) : (s.setFport p x).nextItem = s.nextItem := rfl
@[simp] theorem setFport_rr (s : State) (p : Fin 8) (x : Port) : (s.setFport p x).rr = s.rr := rfl
@[simp] theorem setFport_rateAt (s : State) (p : Fin 8) (x : Port) : (s.setFport p x).rateAt = s.rateAt := rfl
@[simp] theorem setFport_nextId (s : State) (p : Fin 8) (x : Port) : (s.setFport p x).nextId = s.nextId := rfl
@[simp] theorem setFport_tokens (s : State) (p : Fin 8) (x : Port) : (s.setFport p x).tokens = s.tokens := rfl
@[simp] theorem setFport_refillAt (s : State) (p : Fin 8) (x : Port) : (s.setFport p x).refillAt = s.refillAt := rfl
@[simp] theorem setFport_regu (s : State) (p : Fin 8) (x : Port) : (s.setFport p x).regu = s.regu := rfl
@[simp] theorem setFport_cfg (s : State) (p : Fin 8) (x : Port) : (s.setFport p x).cfg = s.cfg := rfl
@[simp] theorem setFport_cfgSentAt (s : State) (p : Fin 8) (x : Port) : (s.setFport p x).cfgSentAt = s.cfgSentAt := rfl
@[simp] theorem setFport_decayAt (s : State) (p : Fin 8) (x : Port) : (s.setFport p x).decayAt = s.decayAt := rfl
@[simp] theorem setFport_expSeen (s : State) (p : Fin 8) (x : Port) : (s.setFport p x).expSeen = s.expSeen := rfl
@[simp] theorem setFport_grantCache (s : State) (p : Fin 8) (x : Port) : (s.setFport p x).grantCache = s.grantCache := rfl
@[simp] theorem setFport_countCache (s : State) (p : Fin 8) (x : Port) : (s.setFport p x).countCache = s.countCache := rfl
@[simp] theorem setFport_qlocked (s : State) (p : Fin 8) (x : Port) : (s.setFport p x).qlocked = s.qlocked := rfl
@[simp] theorem setFport_grants (s : State) (p : Fin 8) (x : Port) : (s.setFport p x).grants = s.grants := rfl
@[simp] theorem setFport_reuse (s : State) (p : Fin 8) (x : Port) : (s.setFport p x).reuse = s.reuse := rfl
@[simp] theorem setFport_sqTail (s : State) (p : Fin 8) (x : Port) : (s.setFport p x).sqTail = s.sqTail := rfl
@[simp] theorem setFport_sqPhase (s : State) (p : Fin 8) (x : Port) : (s.setFport p x).sqPhase = s.sqPhase := rfl
@[simp] theorem setFport_notifyPending (s : State) (p : Fin 8) (x : Port) : (s.setFport p x).notifyPending = s.notifyPending := rfl
@[simp] theorem setFport_notifiedTail (s : State) (p : Fin 8) (x : Port) : (s.setFport p x).notifiedTail = s.notifiedTail := rfl
@[simp] theorem setFport_qerrValid (s : State) (p : Fin 8) (x : Port) : (s.setFport p x).qerrValid = s.qerrValid := rfl
@[simp] theorem setFport_qerrIndex (s : State) (p : Fin 8) (x : Port) : (s.setFport p x).qerrIndex = s.qerrIndex := rfl
@[simp] theorem setFport_nextOrder (s : State) (p : Fin 8) (x : Port) : (s.setFport p x).nextOrder = s.nextOrder := rfl
@[simp] theorem setFport_images (s : State) (p : Fin 8) (x : Port) : (s.setFport p x).images = s.images := rfl
@[simp] theorem setFport_poolShare (s : State) (p : Fin 8) (x : Port) : (s.setFport p x).poolShare = s.poolShare := rfl
@[simp] theorem setFport_sketchBuf (s : State) (p : Fin 8) (x : Port) : (s.setFport p x).sketchBuf = s.sketchBuf := rfl
@[simp] theorem setFport_feeder (s : State) (p : Fin 8) (x : Port) : (s.setFport p x).feeder = s.feeder := rfl

/-! ## took -/

@[simp] theorem took_pending (s : State) : (s.took).pending = s.pending := rfl
@[simp] theorem took_time (s : State) : (s.took).time = s.time := rfl
theorem took_fresh (s : State) : (s.took).fresh = s.fresh + 1 := rfl
@[simp] theorem took_boot (s : State) : (s.took).boot = s.boot := rfl
@[simp] theorem took_fuses (s : State) : (s.took).fuses = s.fuses := rfl
@[simp] theorem took_regs (s : State) : (s.took).regs = s.regs := rfl
@[simp] theorem took_req (s : State) : (s.took).req = s.req := rfl
@[simp] theorem took_pkg (s : State) : (s.took).pkg = s.pkg := rfl
@[simp] theorem took_mem (s : State) : (s.took).mem = s.mem := rfl
@[simp] theorem took_poison (s : State) : (s.took).poison = s.poison := rfl
@[simp] theorem took_streams (s : State) : (s.took).streams = s.streams := rfl
@[simp] theorem took_slices (s : State) : (s.took).slices = s.slices := rfl
@[simp] theorem took_items (s : State) : (s.took).items = s.items := rfl
@[simp] theorem took_rc (s : State) : (s.took).rc = s.rc := rfl
@[simp] theorem took_wc (s : State) : (s.took).wc = s.wc := rfl
@[simp] theorem took_memReqs (s : State) : (s.took).memReqs = s.memReqs := rfl
@[simp] theorem took_hbm (s : State) : (s.took).hbm = s.hbm := rfl
@[simp] theorem took_cap (s : State) : (s.took).cap = s.cap := rfl
@[simp] theorem took_walks (s : State) : (s.took).walks = s.walks := rfl
@[simp] theorem took_tlb2 (s : State) : (s.took).tlb2 = s.tlb2 := rfl
@[simp] theorem took_faults (s : State) : (s.took).faults = s.faults := rfl
@[simp] theorem took_faultsWaiting (s : State) : (s.took).faultsWaiting = s.faultsWaiting := rfl
@[simp] theorem took_contexts (s : State) : (s.took).contexts = s.contexts := rfl
@[simp] theorem took_rings (s : State) : (s.took).rings = s.rings := rfl
@[simp] theorem took_fabqs (s : State) : (s.took).fabqs = s.fabqs := rfl
@[simp] theorem took_jobs (s : State) : (s.took).jobs = s.jobs := rfl
@[simp] theorem took_plans (s : State) : (s.took).plans = s.plans := rfl
@[simp] theorem took_tables (s : State) : (s.took).tables = s.tables := rfl
@[simp] theorem took_tsets (s : State) : (s.took).tsets = s.tsets := rfl
@[simp] theorem took_wsets (s : State) : (s.took).wsets = s.wsets := rfl
@[simp] theorem took_poisoned (s : State) : (s.took).poisoned = s.poisoned := rfl
@[simp] theorem took_arrays (s : State) : (s.took).arrays = s.arrays := rfl
@[simp] theorem took_fab (s : State) : (s.took).fab = s.fab := rfl
@[simp] theorem took_pw (s : State) : (s.took).pw = s.pw := rfl
@[simp] theorem took_err (s : State) : (s.took).err = s.err := rfl
@[simp] theorem took_trace (s : State) : (s.took).trace = s.trace := rfl
@[simp] theorem took_dbg (s : State) : (s.took).dbg = s.dbg := rfl
@[simp] theorem took_counters (s : State) : (s.took).counters = s.counters := rfl
@[simp] theorem took_copies (s : State) : (s.took).copies = s.copies := rfl
@[simp] theorem took_clocks (s : State) : (s.took).clocks = s.clocks := rfl
@[simp] theorem took_nextItem (s : State) : (s.took).nextItem = s.nextItem := rfl
@[simp] theorem took_rr (s : State) : (s.took).rr = s.rr := rfl
@[simp] theorem took_rateAt (s : State) : (s.took).rateAt = s.rateAt := rfl
@[simp] theorem took_nextId (s : State) : (s.took).nextId = s.nextId := rfl
@[simp] theorem took_tokens (s : State) : (s.took).tokens = s.tokens := rfl
@[simp] theorem took_refillAt (s : State) : (s.took).refillAt = s.refillAt := rfl
@[simp] theorem took_regu (s : State) : (s.took).regu = s.regu := rfl
@[simp] theorem took_cfg (s : State) : (s.took).cfg = s.cfg := rfl
@[simp] theorem took_cfgSentAt (s : State) : (s.took).cfgSentAt = s.cfgSentAt := rfl
@[simp] theorem took_decayAt (s : State) : (s.took).decayAt = s.decayAt := rfl
@[simp] theorem took_expSeen (s : State) : (s.took).expSeen = s.expSeen := rfl
@[simp] theorem took_grantCache (s : State) : (s.took).grantCache = s.grantCache := rfl
@[simp] theorem took_countCache (s : State) : (s.took).countCache = s.countCache := rfl
@[simp] theorem took_qlocked (s : State) : (s.took).qlocked = s.qlocked := rfl
@[simp] theorem took_grants (s : State) : (s.took).grants = s.grants := rfl
@[simp] theorem took_reuse (s : State) : (s.took).reuse = s.reuse := rfl
@[simp] theorem took_sqTail (s : State) : (s.took).sqTail = s.sqTail := rfl
@[simp] theorem took_sqPhase (s : State) : (s.took).sqPhase = s.sqPhase := rfl
@[simp] theorem took_notifyPending (s : State) : (s.took).notifyPending = s.notifyPending := rfl
@[simp] theorem took_notifiedTail (s : State) : (s.took).notifiedTail = s.notifiedTail := rfl
@[simp] theorem took_qerrValid (s : State) : (s.took).qerrValid = s.qerrValid := rfl
@[simp] theorem took_qerrIndex (s : State) : (s.took).qerrIndex = s.qerrIndex := rfl
@[simp] theorem took_nextOrder (s : State) : (s.took).nextOrder = s.nextOrder := rfl
@[simp] theorem took_images (s : State) : (s.took).images = s.images := rfl
@[simp] theorem took_poolShare (s : State) : (s.took).poolShare = s.poolShare := rfl
@[simp] theorem took_sketchBuf (s : State) : (s.took).sketchBuf = s.sketchBuf := rfl
@[simp] theorem took_feeder (s : State) : (s.took).feeder = s.feeder := rfl

/-! ## count -/

@[simp] theorem count_pending (s : State) (g o i n : Nat) : (s.count g o i n).pending = s.pending := rfl
@[simp] theorem count_time (s : State) (g o i n : Nat) : (s.count g o i n).time = s.time := rfl
@[simp] theorem count_fresh (s : State) (g o i n : Nat) : (s.count g o i n).fresh = s.fresh := rfl
@[simp] theorem count_boot (s : State) (g o i n : Nat) : (s.count g o i n).boot = s.boot := rfl
@[simp] theorem count_fuses (s : State) (g o i n : Nat) : (s.count g o i n).fuses = s.fuses := rfl
@[simp] theorem count_regs (s : State) (g o i n : Nat) : (s.count g o i n).regs = s.regs := rfl
@[simp] theorem count_req (s : State) (g o i n : Nat) : (s.count g o i n).req = s.req := rfl
@[simp] theorem count_pkg (s : State) (g o i n : Nat) : (s.count g o i n).pkg = s.pkg := rfl
@[simp] theorem count_mem (s : State) (g o i n : Nat) : (s.count g o i n).mem = s.mem := rfl
@[simp] theorem count_poison (s : State) (g o i n : Nat) : (s.count g o i n).poison = s.poison := rfl
@[simp] theorem count_streams (s : State) (g o i n : Nat) : (s.count g o i n).streams = s.streams := rfl
@[simp] theorem count_slices (s : State) (g o i n : Nat) : (s.count g o i n).slices = s.slices := rfl
@[simp] theorem count_items (s : State) (g o i n : Nat) : (s.count g o i n).items = s.items := rfl
@[simp] theorem count_rc (s : State) (g o i n : Nat) : (s.count g o i n).rc = s.rc := rfl
@[simp] theorem count_wc (s : State) (g o i n : Nat) : (s.count g o i n).wc = s.wc := rfl
@[simp] theorem count_memReqs (s : State) (g o i n : Nat) : (s.count g o i n).memReqs = s.memReqs := rfl
@[simp] theorem count_hbm (s : State) (g o i n : Nat) : (s.count g o i n).hbm = s.hbm := rfl
@[simp] theorem count_cap (s : State) (g o i n : Nat) : (s.count g o i n).cap = s.cap := rfl
@[simp] theorem count_walks (s : State) (g o i n : Nat) : (s.count g o i n).walks = s.walks := rfl
@[simp] theorem count_tlb2 (s : State) (g o i n : Nat) : (s.count g o i n).tlb2 = s.tlb2 := rfl
@[simp] theorem count_faults (s : State) (g o i n : Nat) : (s.count g o i n).faults = s.faults := rfl
@[simp] theorem count_faultsWaiting (s : State) (g o i n : Nat) : (s.count g o i n).faultsWaiting = s.faultsWaiting := rfl
@[simp] theorem count_contexts (s : State) (g o i n : Nat) : (s.count g o i n).contexts = s.contexts := rfl
@[simp] theorem count_rings (s : State) (g o i n : Nat) : (s.count g o i n).rings = s.rings := rfl
@[simp] theorem count_fabqs (s : State) (g o i n : Nat) : (s.count g o i n).fabqs = s.fabqs := rfl
@[simp] theorem count_jobs (s : State) (g o i n : Nat) : (s.count g o i n).jobs = s.jobs := rfl
@[simp] theorem count_plans (s : State) (g o i n : Nat) : (s.count g o i n).plans = s.plans := rfl
@[simp] theorem count_tables (s : State) (g o i n : Nat) : (s.count g o i n).tables = s.tables := rfl
@[simp] theorem count_tsets (s : State) (g o i n : Nat) : (s.count g o i n).tsets = s.tsets := rfl
@[simp] theorem count_wsets (s : State) (g o i n : Nat) : (s.count g o i n).wsets = s.wsets := rfl
@[simp] theorem count_poisoned (s : State) (g o i n : Nat) : (s.count g o i n).poisoned = s.poisoned := rfl
@[simp] theorem count_arrays (s : State) (g o i n : Nat) : (s.count g o i n).arrays = s.arrays := rfl
@[simp] theorem count_fab (s : State) (g o i n : Nat) : (s.count g o i n).fab = s.fab := rfl
@[simp] theorem count_pw (s : State) (g o i n : Nat) : (s.count g o i n).pw = s.pw := rfl
@[simp] theorem count_err (s : State) (g o i n : Nat) : (s.count g o i n).err = s.err := rfl
@[simp] theorem count_trace (s : State) (g o i n : Nat) : (s.count g o i n).trace = s.trace := rfl
@[simp] theorem count_dbg (s : State) (g o i n : Nat) : (s.count g o i n).dbg = s.dbg := rfl
theorem count_counters (s : State) (g o i n : Nat) : (s.count g o i n).counters = sput 0 s.counters (ctrKey g o i) (satAdd (2 ^ 64 - 1) (sget 0 s.counters (ctrKey g o i)) n) := rfl
@[simp] theorem count_copies (s : State) (g o i n : Nat) : (s.count g o i n).copies = s.copies := rfl
@[simp] theorem count_clocks (s : State) (g o i n : Nat) : (s.count g o i n).clocks = s.clocks := rfl
@[simp] theorem count_nextItem (s : State) (g o i n : Nat) : (s.count g o i n).nextItem = s.nextItem := rfl
@[simp] theorem count_rr (s : State) (g o i n : Nat) : (s.count g o i n).rr = s.rr := rfl
@[simp] theorem count_rateAt (s : State) (g o i n : Nat) : (s.count g o i n).rateAt = s.rateAt := rfl
@[simp] theorem count_nextId (s : State) (g o i n : Nat) : (s.count g o i n).nextId = s.nextId := rfl
@[simp] theorem count_tokens (s : State) (g o i n : Nat) : (s.count g o i n).tokens = s.tokens := rfl
@[simp] theorem count_refillAt (s : State) (g o i n : Nat) : (s.count g o i n).refillAt = s.refillAt := rfl
@[simp] theorem count_regu (s : State) (g o i n : Nat) : (s.count g o i n).regu = s.regu := rfl
@[simp] theorem count_cfg (s : State) (g o i n : Nat) : (s.count g o i n).cfg = s.cfg := rfl
@[simp] theorem count_cfgSentAt (s : State) (g o i n : Nat) : (s.count g o i n).cfgSentAt = s.cfgSentAt := rfl
@[simp] theorem count_decayAt (s : State) (g o i n : Nat) : (s.count g o i n).decayAt = s.decayAt := rfl
@[simp] theorem count_expSeen (s : State) (g o i n : Nat) : (s.count g o i n).expSeen = s.expSeen := rfl
@[simp] theorem count_grantCache (s : State) (g o i n : Nat) : (s.count g o i n).grantCache = s.grantCache := rfl
@[simp] theorem count_countCache (s : State) (g o i n : Nat) : (s.count g o i n).countCache = s.countCache := rfl
@[simp] theorem count_qlocked (s : State) (g o i n : Nat) : (s.count g o i n).qlocked = s.qlocked := rfl
@[simp] theorem count_grants (s : State) (g o i n : Nat) : (s.count g o i n).grants = s.grants := rfl
@[simp] theorem count_reuse (s : State) (g o i n : Nat) : (s.count g o i n).reuse = s.reuse := rfl
@[simp] theorem count_sqTail (s : State) (g o i n : Nat) : (s.count g o i n).sqTail = s.sqTail := rfl
@[simp] theorem count_sqPhase (s : State) (g o i n : Nat) : (s.count g o i n).sqPhase = s.sqPhase := rfl
@[simp] theorem count_notifyPending (s : State) (g o i n : Nat) : (s.count g o i n).notifyPending = s.notifyPending := rfl
@[simp] theorem count_notifiedTail (s : State) (g o i n : Nat) : (s.count g o i n).notifiedTail = s.notifiedTail := rfl
@[simp] theorem count_qerrValid (s : State) (g o i n : Nat) : (s.count g o i n).qerrValid = s.qerrValid := rfl
@[simp] theorem count_qerrIndex (s : State) (g o i n : Nat) : (s.count g o i n).qerrIndex = s.qerrIndex := rfl
@[simp] theorem count_nextOrder (s : State) (g o i n : Nat) : (s.count g o i n).nextOrder = s.nextOrder := rfl
@[simp] theorem count_images (s : State) (g o i n : Nat) : (s.count g o i n).images = s.images := rfl
@[simp] theorem count_poolShare (s : State) (g o i n : Nat) : (s.count g o i n).poolShare = s.poolShare := rfl
@[simp] theorem count_sketchBuf (s : State) (g o i n : Nat) : (s.count g o i n).sketchBuf = s.sketchBuf := rfl
@[simp] theorem count_feeder (s : State) (g o i n : Nat) : (s.count g o i n).feeder = s.feeder := rfl

/-! ## updReq -/

@[simp] theorem updReq_pending (s : State) (r : Requester) (f : ReqState → ReqState) : (s.updReq r f).pending = s.pending := rfl
@[simp] theorem updReq_time (s : State) (r : Requester) (f : ReqState → ReqState) : (s.updReq r f).time = s.time := rfl
@[simp] theorem updReq_fresh (s : State) (r : Requester) (f : ReqState → ReqState) : (s.updReq r f).fresh = s.fresh := rfl
@[simp] theorem updReq_boot (s : State) (r : Requester) (f : ReqState → ReqState) : (s.updReq r f).boot = s.boot := rfl
@[simp] theorem updReq_fuses (s : State) (r : Requester) (f : ReqState → ReqState) : (s.updReq r f).fuses = s.fuses := rfl
@[simp] theorem updReq_regs (s : State) (r : Requester) (f : ReqState → ReqState) : (s.updReq r f).regs = s.regs := rfl
theorem updReq_req (s : State) (r : Requester) (f : ReqState → ReqState) : (s.updReq r f).req = sput {} s.req r.num (f (s.reqState r)) := rfl
@[simp] theorem updReq_pkg (s : State) (r : Requester) (f : ReqState → ReqState) : (s.updReq r f).pkg = s.pkg := rfl
@[simp] theorem updReq_mem (s : State) (r : Requester) (f : ReqState → ReqState) : (s.updReq r f).mem = s.mem := rfl
@[simp] theorem updReq_poison (s : State) (r : Requester) (f : ReqState → ReqState) : (s.updReq r f).poison = s.poison := rfl
@[simp] theorem updReq_streams (s : State) (r : Requester) (f : ReqState → ReqState) : (s.updReq r f).streams = s.streams := rfl
@[simp] theorem updReq_slices (s : State) (r : Requester) (f : ReqState → ReqState) : (s.updReq r f).slices = s.slices := rfl
@[simp] theorem updReq_items (s : State) (r : Requester) (f : ReqState → ReqState) : (s.updReq r f).items = s.items := rfl
@[simp] theorem updReq_rc (s : State) (r : Requester) (f : ReqState → ReqState) : (s.updReq r f).rc = s.rc := rfl
@[simp] theorem updReq_wc (s : State) (r : Requester) (f : ReqState → ReqState) : (s.updReq r f).wc = s.wc := rfl
@[simp] theorem updReq_memReqs (s : State) (r : Requester) (f : ReqState → ReqState) : (s.updReq r f).memReqs = s.memReqs := rfl
@[simp] theorem updReq_hbm (s : State) (r : Requester) (f : ReqState → ReqState) : (s.updReq r f).hbm = s.hbm := rfl
@[simp] theorem updReq_cap (s : State) (r : Requester) (f : ReqState → ReqState) : (s.updReq r f).cap = s.cap := rfl
@[simp] theorem updReq_walks (s : State) (r : Requester) (f : ReqState → ReqState) : (s.updReq r f).walks = s.walks := rfl
@[simp] theorem updReq_tlb2 (s : State) (r : Requester) (f : ReqState → ReqState) : (s.updReq r f).tlb2 = s.tlb2 := rfl
@[simp] theorem updReq_faults (s : State) (r : Requester) (f : ReqState → ReqState) : (s.updReq r f).faults = s.faults := rfl
@[simp] theorem updReq_faultsWaiting (s : State) (r : Requester) (f : ReqState → ReqState) : (s.updReq r f).faultsWaiting = s.faultsWaiting := rfl
@[simp] theorem updReq_contexts (s : State) (r : Requester) (f : ReqState → ReqState) : (s.updReq r f).contexts = s.contexts := rfl
@[simp] theorem updReq_rings (s : State) (r : Requester) (f : ReqState → ReqState) : (s.updReq r f).rings = s.rings := rfl
@[simp] theorem updReq_fabqs (s : State) (r : Requester) (f : ReqState → ReqState) : (s.updReq r f).fabqs = s.fabqs := rfl
@[simp] theorem updReq_jobs (s : State) (r : Requester) (f : ReqState → ReqState) : (s.updReq r f).jobs = s.jobs := rfl
@[simp] theorem updReq_plans (s : State) (r : Requester) (f : ReqState → ReqState) : (s.updReq r f).plans = s.plans := rfl
@[simp] theorem updReq_tables (s : State) (r : Requester) (f : ReqState → ReqState) : (s.updReq r f).tables = s.tables := rfl
@[simp] theorem updReq_tsets (s : State) (r : Requester) (f : ReqState → ReqState) : (s.updReq r f).tsets = s.tsets := rfl
@[simp] theorem updReq_wsets (s : State) (r : Requester) (f : ReqState → ReqState) : (s.updReq r f).wsets = s.wsets := rfl
@[simp] theorem updReq_poisoned (s : State) (r : Requester) (f : ReqState → ReqState) : (s.updReq r f).poisoned = s.poisoned := rfl
@[simp] theorem updReq_arrays (s : State) (r : Requester) (f : ReqState → ReqState) : (s.updReq r f).arrays = s.arrays := rfl
@[simp] theorem updReq_fab (s : State) (r : Requester) (f : ReqState → ReqState) : (s.updReq r f).fab = s.fab := rfl
@[simp] theorem updReq_pw (s : State) (r : Requester) (f : ReqState → ReqState) : (s.updReq r f).pw = s.pw := rfl
@[simp] theorem updReq_err (s : State) (r : Requester) (f : ReqState → ReqState) : (s.updReq r f).err = s.err := rfl
@[simp] theorem updReq_trace (s : State) (r : Requester) (f : ReqState → ReqState) : (s.updReq r f).trace = s.trace := rfl
@[simp] theorem updReq_dbg (s : State) (r : Requester) (f : ReqState → ReqState) : (s.updReq r f).dbg = s.dbg := rfl
@[simp] theorem updReq_counters (s : State) (r : Requester) (f : ReqState → ReqState) : (s.updReq r f).counters = s.counters := rfl
@[simp] theorem updReq_copies (s : State) (r : Requester) (f : ReqState → ReqState) : (s.updReq r f).copies = s.copies := rfl
@[simp] theorem updReq_clocks (s : State) (r : Requester) (f : ReqState → ReqState) : (s.updReq r f).clocks = s.clocks := rfl
@[simp] theorem updReq_nextItem (s : State) (r : Requester) (f : ReqState → ReqState) : (s.updReq r f).nextItem = s.nextItem := rfl
@[simp] theorem updReq_rr (s : State) (r : Requester) (f : ReqState → ReqState) : (s.updReq r f).rr = s.rr := rfl
@[simp] theorem updReq_rateAt (s : State) (r : Requester) (f : ReqState → ReqState) : (s.updReq r f).rateAt = s.rateAt := rfl
@[simp] theorem updReq_nextId (s : State) (r : Requester) (f : ReqState → ReqState) : (s.updReq r f).nextId = s.nextId := rfl
@[simp] theorem updReq_tokens (s : State) (r : Requester) (f : ReqState → ReqState) : (s.updReq r f).tokens = s.tokens := rfl
@[simp] theorem updReq_refillAt (s : State) (r : Requester) (f : ReqState → ReqState) : (s.updReq r f).refillAt = s.refillAt := rfl
@[simp] theorem updReq_regu (s : State) (r : Requester) (f : ReqState → ReqState) : (s.updReq r f).regu = s.regu := rfl
@[simp] theorem updReq_cfg (s : State) (r : Requester) (f : ReqState → ReqState) : (s.updReq r f).cfg = s.cfg := rfl
@[simp] theorem updReq_cfgSentAt (s : State) (r : Requester) (f : ReqState → ReqState) : (s.updReq r f).cfgSentAt = s.cfgSentAt := rfl
@[simp] theorem updReq_decayAt (s : State) (r : Requester) (f : ReqState → ReqState) : (s.updReq r f).decayAt = s.decayAt := rfl
@[simp] theorem updReq_expSeen (s : State) (r : Requester) (f : ReqState → ReqState) : (s.updReq r f).expSeen = s.expSeen := rfl
@[simp] theorem updReq_grantCache (s : State) (r : Requester) (f : ReqState → ReqState) : (s.updReq r f).grantCache = s.grantCache := rfl
@[simp] theorem updReq_countCache (s : State) (r : Requester) (f : ReqState → ReqState) : (s.updReq r f).countCache = s.countCache := rfl
@[simp] theorem updReq_qlocked (s : State) (r : Requester) (f : ReqState → ReqState) : (s.updReq r f).qlocked = s.qlocked := rfl
@[simp] theorem updReq_grants (s : State) (r : Requester) (f : ReqState → ReqState) : (s.updReq r f).grants = s.grants := rfl
@[simp] theorem updReq_reuse (s : State) (r : Requester) (f : ReqState → ReqState) : (s.updReq r f).reuse = s.reuse := rfl
@[simp] theorem updReq_sqTail (s : State) (r : Requester) (f : ReqState → ReqState) : (s.updReq r f).sqTail = s.sqTail := rfl
@[simp] theorem updReq_sqPhase (s : State) (r : Requester) (f : ReqState → ReqState) : (s.updReq r f).sqPhase = s.sqPhase := rfl
@[simp] theorem updReq_notifyPending (s : State) (r : Requester) (f : ReqState → ReqState) : (s.updReq r f).notifyPending = s.notifyPending := rfl
@[simp] theorem updReq_notifiedTail (s : State) (r : Requester) (f : ReqState → ReqState) : (s.updReq r f).notifiedTail = s.notifiedTail := rfl
@[simp] theorem updReq_qerrValid (s : State) (r : Requester) (f : ReqState → ReqState) : (s.updReq r f).qerrValid = s.qerrValid := rfl
@[simp] theorem updReq_qerrIndex (s : State) (r : Requester) (f : ReqState → ReqState) : (s.updReq r f).qerrIndex = s.qerrIndex := rfl
@[simp] theorem updReq_nextOrder (s : State) (r : Requester) (f : ReqState → ReqState) : (s.updReq r f).nextOrder = s.nextOrder := rfl
@[simp] theorem updReq_images (s : State) (r : Requester) (f : ReqState → ReqState) : (s.updReq r f).images = s.images := rfl
@[simp] theorem updReq_poolShare (s : State) (r : Requester) (f : ReqState → ReqState) : (s.updReq r f).poolShare = s.poolShare := rfl
@[simp] theorem updReq_sketchBuf (s : State) (r : Requester) (f : ReqState → ReqState) : (s.updReq r f).sketchBuf = s.sketchBuf := rfl
@[simp] theorem updReq_feeder (s : State) (r : Requester) (f : ReqState → ReqState) : (s.updReq r f).feeder = s.feeder := rfl

/-! ## setReg -/

@[simp] theorem setReg_pending (s : State) (off : Nat) (v : BitVec 32) : (s.setReg off v).pending = s.pending := rfl
@[simp] theorem setReg_time (s : State) (off : Nat) (v : BitVec 32) : (s.setReg off v).time = s.time := rfl
@[simp] theorem setReg_fresh (s : State) (off : Nat) (v : BitVec 32) : (s.setReg off v).fresh = s.fresh := rfl
@[simp] theorem setReg_boot (s : State) (off : Nat) (v : BitVec 32) : (s.setReg off v).boot = s.boot := rfl
@[simp] theorem setReg_fuses (s : State) (off : Nat) (v : BitVec 32) : (s.setReg off v).fuses = s.fuses := rfl
@[simp] theorem setReg_req (s : State) (off : Nat) (v : BitVec 32) : (s.setReg off v).req = s.req := rfl
@[simp] theorem setReg_pkg (s : State) (off : Nat) (v : BitVec 32) : (s.setReg off v).pkg = s.pkg := rfl
@[simp] theorem setReg_mem (s : State) (off : Nat) (v : BitVec 32) : (s.setReg off v).mem = s.mem := rfl
@[simp] theorem setReg_poison (s : State) (off : Nat) (v : BitVec 32) : (s.setReg off v).poison = s.poison := rfl
@[simp] theorem setReg_streams (s : State) (off : Nat) (v : BitVec 32) : (s.setReg off v).streams = s.streams := rfl
@[simp] theorem setReg_slices (s : State) (off : Nat) (v : BitVec 32) : (s.setReg off v).slices = s.slices := rfl
@[simp] theorem setReg_items (s : State) (off : Nat) (v : BitVec 32) : (s.setReg off v).items = s.items := rfl
@[simp] theorem setReg_rc (s : State) (off : Nat) (v : BitVec 32) : (s.setReg off v).rc = s.rc := rfl
@[simp] theorem setReg_wc (s : State) (off : Nat) (v : BitVec 32) : (s.setReg off v).wc = s.wc := rfl
@[simp] theorem setReg_memReqs (s : State) (off : Nat) (v : BitVec 32) : (s.setReg off v).memReqs = s.memReqs := rfl
@[simp] theorem setReg_hbm (s : State) (off : Nat) (v : BitVec 32) : (s.setReg off v).hbm = s.hbm := rfl
@[simp] theorem setReg_cap (s : State) (off : Nat) (v : BitVec 32) : (s.setReg off v).cap = s.cap := rfl
@[simp] theorem setReg_walks (s : State) (off : Nat) (v : BitVec 32) : (s.setReg off v).walks = s.walks := rfl
@[simp] theorem setReg_tlb2 (s : State) (off : Nat) (v : BitVec 32) : (s.setReg off v).tlb2 = s.tlb2 := rfl
@[simp] theorem setReg_faults (s : State) (off : Nat) (v : BitVec 32) : (s.setReg off v).faults = s.faults := rfl
@[simp] theorem setReg_faultsWaiting (s : State) (off : Nat) (v : BitVec 32) : (s.setReg off v).faultsWaiting = s.faultsWaiting := rfl
@[simp] theorem setReg_contexts (s : State) (off : Nat) (v : BitVec 32) : (s.setReg off v).contexts = s.contexts := rfl
@[simp] theorem setReg_rings (s : State) (off : Nat) (v : BitVec 32) : (s.setReg off v).rings = s.rings := rfl
@[simp] theorem setReg_fabqs (s : State) (off : Nat) (v : BitVec 32) : (s.setReg off v).fabqs = s.fabqs := rfl
@[simp] theorem setReg_jobs (s : State) (off : Nat) (v : BitVec 32) : (s.setReg off v).jobs = s.jobs := rfl
@[simp] theorem setReg_plans (s : State) (off : Nat) (v : BitVec 32) : (s.setReg off v).plans = s.plans := rfl
@[simp] theorem setReg_tables (s : State) (off : Nat) (v : BitVec 32) : (s.setReg off v).tables = s.tables := rfl
@[simp] theorem setReg_tsets (s : State) (off : Nat) (v : BitVec 32) : (s.setReg off v).tsets = s.tsets := rfl
@[simp] theorem setReg_wsets (s : State) (off : Nat) (v : BitVec 32) : (s.setReg off v).wsets = s.wsets := rfl
@[simp] theorem setReg_poisoned (s : State) (off : Nat) (v : BitVec 32) : (s.setReg off v).poisoned = s.poisoned := rfl
@[simp] theorem setReg_arrays (s : State) (off : Nat) (v : BitVec 32) : (s.setReg off v).arrays = s.arrays := rfl
@[simp] theorem setReg_fab (s : State) (off : Nat) (v : BitVec 32) : (s.setReg off v).fab = s.fab := rfl
@[simp] theorem setReg_pw (s : State) (off : Nat) (v : BitVec 32) : (s.setReg off v).pw = s.pw := rfl
@[simp] theorem setReg_err (s : State) (off : Nat) (v : BitVec 32) : (s.setReg off v).err = s.err := rfl
@[simp] theorem setReg_trace (s : State) (off : Nat) (v : BitVec 32) : (s.setReg off v).trace = s.trace := rfl
@[simp] theorem setReg_dbg (s : State) (off : Nat) (v : BitVec 32) : (s.setReg off v).dbg = s.dbg := rfl
@[simp] theorem setReg_counters (s : State) (off : Nat) (v : BitVec 32) : (s.setReg off v).counters = s.counters := rfl
@[simp] theorem setReg_copies (s : State) (off : Nat) (v : BitVec 32) : (s.setReg off v).copies = s.copies := rfl
@[simp] theorem setReg_clocks (s : State) (off : Nat) (v : BitVec 32) : (s.setReg off v).clocks = s.clocks := rfl
@[simp] theorem setReg_nextItem (s : State) (off : Nat) (v : BitVec 32) : (s.setReg off v).nextItem = s.nextItem := rfl
@[simp] theorem setReg_rr (s : State) (off : Nat) (v : BitVec 32) : (s.setReg off v).rr = s.rr := rfl
@[simp] theorem setReg_rateAt (s : State) (off : Nat) (v : BitVec 32) : (s.setReg off v).rateAt = s.rateAt := rfl
@[simp] theorem setReg_nextId (s : State) (off : Nat) (v : BitVec 32) : (s.setReg off v).nextId = s.nextId := rfl
@[simp] theorem setReg_tokens (s : State) (off : Nat) (v : BitVec 32) : (s.setReg off v).tokens = s.tokens := rfl
@[simp] theorem setReg_refillAt (s : State) (off : Nat) (v : BitVec 32) : (s.setReg off v).refillAt = s.refillAt := rfl
@[simp] theorem setReg_regu (s : State) (off : Nat) (v : BitVec 32) : (s.setReg off v).regu = s.regu := rfl
@[simp] theorem setReg_cfg (s : State) (off : Nat) (v : BitVec 32) : (s.setReg off v).cfg = s.cfg := rfl
@[simp] theorem setReg_cfgSentAt (s : State) (off : Nat) (v : BitVec 32) : (s.setReg off v).cfgSentAt = s.cfgSentAt := rfl
@[simp] theorem setReg_decayAt (s : State) (off : Nat) (v : BitVec 32) : (s.setReg off v).decayAt = s.decayAt := rfl
@[simp] theorem setReg_expSeen (s : State) (off : Nat) (v : BitVec 32) : (s.setReg off v).expSeen = s.expSeen := rfl
@[simp] theorem setReg_grantCache (s : State) (off : Nat) (v : BitVec 32) : (s.setReg off v).grantCache = s.grantCache := rfl
@[simp] theorem setReg_countCache (s : State) (off : Nat) (v : BitVec 32) : (s.setReg off v).countCache = s.countCache := rfl
@[simp] theorem setReg_qlocked (s : State) (off : Nat) (v : BitVec 32) : (s.setReg off v).qlocked = s.qlocked := rfl
@[simp] theorem setReg_grants (s : State) (off : Nat) (v : BitVec 32) : (s.setReg off v).grants = s.grants := rfl
@[simp] theorem setReg_reuse (s : State) (off : Nat) (v : BitVec 32) : (s.setReg off v).reuse = s.reuse := rfl
@[simp] theorem setReg_sqTail (s : State) (off : Nat) (v : BitVec 32) : (s.setReg off v).sqTail = s.sqTail := rfl
@[simp] theorem setReg_sqPhase (s : State) (off : Nat) (v : BitVec 32) : (s.setReg off v).sqPhase = s.sqPhase := rfl
@[simp] theorem setReg_notifyPending (s : State) (off : Nat) (v : BitVec 32) : (s.setReg off v).notifyPending = s.notifyPending := rfl
@[simp] theorem setReg_notifiedTail (s : State) (off : Nat) (v : BitVec 32) : (s.setReg off v).notifiedTail = s.notifiedTail := rfl
@[simp] theorem setReg_qerrValid (s : State) (off : Nat) (v : BitVec 32) : (s.setReg off v).qerrValid = s.qerrValid := rfl
@[simp] theorem setReg_qerrIndex (s : State) (off : Nat) (v : BitVec 32) : (s.setReg off v).qerrIndex = s.qerrIndex := rfl
@[simp] theorem setReg_nextOrder (s : State) (off : Nat) (v : BitVec 32) : (s.setReg off v).nextOrder = s.nextOrder := rfl
@[simp] theorem setReg_images (s : State) (off : Nat) (v : BitVec 32) : (s.setReg off v).images = s.images := rfl
@[simp] theorem setReg_poolShare (s : State) (off : Nat) (v : BitVec 32) : (s.setReg off v).poolShare = s.poolShare := rfl
@[simp] theorem setReg_sketchBuf (s : State) (off : Nat) (v : BitVec 32) : (s.setReg off v).sketchBuf = s.sketchBuf := rfl
@[simp] theorem setReg_feeder (s : State) (off : Nat) (v : BitVec 32) : (s.setReg off v).feeder = s.feeder := rfl

end Sys2Proof.Machine
end

