-- ==== Sys2Proof/Laws/Streams.lean ====
section
/-! SUPPORT. Stream instructions: what each plain instruction gives, one lemma per shape, and the frame of those that only compute or jump. -/

namespace Sys2Proof.Machine

/-- An instruction whose plain effect is to compute with `f` is one that only computes. -/
theorem computes_of (st : StreamId) (c : Instr) (i : SInstr) (f : SEnv → Arch → Arch) (he : ∀ s, exec c s = actS s (·.issuePlain st.key i))
    (hp : ∀ env r, plainEff env i r = .retire (f env r).retire [] false) (hr : resetsBudget i = false) (hi : ∀ t, i ≠ .bagend t) :
    Computes st c i f := by
  intro s j env h hn hb
  rw [he, actS_alive _ _ h.1, issuePlain_at s st i j env h, hp, applyOut_quiet _ _ _ _ hb hr hi]
  exact congrArg _ (settle_of_nothingDue _ (hn.of_eq rfl rfl rfl rfl rfl))

/-- An instruction whose plain effect is to set the PC jumps. -/
theorem jumps_of (st : StreamId) (c : Instr) (i : SInstr) (f : Arch → Arch) (he : ∀ s, exec c s = actS s (·.issuePlain st.key i))
    (hp : ∀ env r, plainEff env i r = .retire (f r) [] false) (hr : resetsBudget i = false) (hi : ∀ t, i ≠ .bagend t) :
    Jumps st c i f := by
  intro s j env h hn hb
  rw [he, actS_alive _ _ h.1, issuePlain_at s st i j env h, hp, applyOut_quiet _ _ _ _ hb hr hi]
  exact congrArg _ (settle_of_nothingDue _ (hn.of_eq rfl rfl rfl rfl rfl))

theorem plainEff_beq (env : SEnv) (a b : Fin 16) (t : BitVec 6) (r : Arch) :
    plainEff env (.beq a b t) r = .retire { r with pc := if r.reg a == r.reg b then t else r.pc + 1 } [] false := rfl

theorem plainEff_bne (env : SEnv) (a b : Fin 16) (t : BitVec 6) (r : Arch) :
    plainEff env (.bne a b t) r = .retire { r with pc := if r.reg a != r.reg b then t else r.pc + 1 } [] false := rfl

theorem plainEff_bltu (env : SEnv) (a b : Fin 16) (t : BitVec 6) (r : Arch) :
    plainEff env (.bltu a b t) r = .retire { r with pc := if decide ((r.reg a).toNat < (r.reg b).toNat) then t else r.pc + 1 } [] false := rfl

theorem plainEff_bgeu (env : SEnv) (a b : Fin 16) (t : BitVec 6) (r : Arch) :
    plainEff env (.bgeu a b t) r = .retire { r with pc := if decide ((r.reg b).toNat ≤ (r.reg a).toNat) then t else r.pc + 1 } [] false := rfl

theorem plainEff_bv (env : SEnv) (a : Fin 16) (t : BitVec 6) (r : Arch) :
    plainEff env (.bv a t) r = .retire { r with pc := if r.void a then t else r.pc + 1 } [] false := rfl

theorem plainEff_br (env : SEnv) (t : BitVec 6) (r : Arch) : plainEff env (.br t) r = .retire { r with pc := t } [] false := rfl

theorem plainEff_loop (env : SEnv) (lc : Fin 3) (imm : Bool) (a : Fin 16) (count : BitVec 13) (last : BitVec 6) (r : Arch) :
    plainEff env (.loop lc imm a count last) r = loopEff r lc imm a count last := rfl

theorem plainEff_emit (env : SEnv) (a : Fin 16) (r : Arch) : plainEff env (.emit a) r = emitEff env r a := rfl

theorem plainEff_bagend (env : SEnv) (t : BitVec 6) (r : Arch) : plainEff env (.bagend t) r = bagendEff env r t := rfl

theorem plainEff_stop (env : SEnv) (r : Arch) : plainEff env .stop r = stopEff env r := rfl

/-- An instruction that sends finds its stream ready: the queue has room, and no reference of the stream is held. -/
theorem issueSend_at (s : State) (st : StreamId) (i : SInstr) (j : Job) (env : SEnv) (h : StreamAt s st i j env)
    (hf : (s.stream st.key).faulted = false) (hq : (s.stream st.key).queue.length < 32) :
    s.issueSend st.key i = s.applyOut st.key i (plainEff env i (s.stream st.key).arch) := by
  unfold State.issueSend
  simp only [h.2.1, h.2.2, if_true, hf, Bool.false_eq_true, if_false, if_neg (Nat.not_le.mpr hq)]

/-- A load whose port gives an entry, or none at the end of the piece. -/
theorem issueLoad_at (s t : State) (st : StreamId) (i : SInstr) (j : Job) (env : SEnv) (p : Nat) (eff : Arch → Option Nat → Arch)
    (raw : Option Nat) (h : StreamAt s st i j env) (hr : s.portRead st.key j env (s.stream st.key).arch p = (t, .ok raw)) :
    s.issueLoad st.key i p eff = t.applyOut st.key i (.retire (eff (s.stream st.key).arch raw).retire [] false) := by
  unfold State.issueLoad
  simp only [h.2.1, h.2.2, if_true, hr]

end Sys2Proof.Machine
end

