-- ==== Sys2Proof/Tests/Slice0.lean ====
section
/-! SUPPORT. Tests: ill-formed commands refused, words of stream instructions and worked examples of the spec, and for every statement with
hypotheses a state and operands that meet them, clause by clause. Expected values come from the spec. -/

namespace Sys2Proof.Tests

open Sys2Proof.Machine

/-! ## Ill-formed commands, one for each check -/

theorem test_wf_cmd_ctx : (Instr.nop ⟨4096, 0, 0⟩).wf = false := by decide
theorem test_wf_cmd_queue : (Instr.gather ⟨1, 64, 0⟩).wf = false := by decide
theorem test_wf_cmd_seq : (Instr.tileEnd (.cmd ⟨1, 0, 2 ^ 32⟩) []).wf = false := by decide
theorem test_wf_cmd_good : (Instr.nop ⟨4095, 63, 2 ^ 32 - 1⟩).wf = true := by decide
theorem test_wf_tset : (Instr.enterDraining (2 ^ 16)).wf = false := by decide
theorem test_wf_ctx : (Instr.walkComplete 4096 0 0).wf = false := by decide
theorem test_wf_line_aligned : (Instr.readSnoop 64).wf = false := by decide
theorem test_wf_line_range : (Instr.memoryWriteAck (2 ^ 64) 0).wf = false := by decide
theorem test_wf_table : (Instr.restoreTimeout (2 ^ 16) 0).wf = false := by decide
theorem test_wf_row : (Instr.checkpointServiceReply 0 (2 ^ 40) [] [] [] []).wf = false := by decide
theorem test_wf_offset_aligned : (Instr.lowWordRead .plinth 2).wf = false := by decide
theorem test_wf_offset_range : (Instr.registerWrite .plinth (2 ^ 24) 0).wf = false := by decide
theorem test_wf_frame : [({ typ := 256 } : Frame), { typ := 1, ver := 256 }, { typ := 1, etype := 2 ^ 16 }, { typ := 1, tc := 4 }, { typ := 1, rstat := 16 },
    { typ := 1, hops := 8 }, { typ := 1, hopIdx := 8 }, { typ := 1, dst := 2 ^ 16 }, { typ := 1, src := 2 ^ 16 }, { typ := 1, route := [0, 0, 0, 0, 0, 0, 0] },
    { typ := 1, route := [256] }, { typ := 1, len := 2 ^ 16 }, { typ := 1, lseq := 2 ^ 16 }, { typ := 1, lack := 2 ^ 16 }, { typ := 1, ctx := 2 ^ 16 },
    { typ := 1, tag := 2 ^ 16 }, { typ := 1, addr := 2 ^ 64 }].all (fun f => !(Instr.cmd 0 f).wf) = true := by decide
theorem test_wf_stream : [SInstr.chks 0 3 1, .chks 0 0 0, .pos 0 3, .loop 0 true 1 5 2, .loop 0 false 1 5 2].all (fun i => !i.wf) = true := by decide

/-! ## Small states -/

/-- An engine in service: booted and READY, one second after its release. -/
def up : State :=
  { State.reset with
    time := 1000000000
    boot := { held := false, ctlLocked := true, coreLocked := true, memLocked := true, poolReady := true, ccReleased := true, stage := 5
              plinth := some ⟨1, false, 0, []⟩, arm := some ⟨1, false, 0, []⟩ }
    pw := { effective := 0, shed := false, filtA := false, filtB := false, rawA := false, rawB := false } }

/-- A command of context 1. -/
def c0 : CmdId := ⟨1, 0, 0⟩

/-- The first sixty-four bytes of a packet of `c0`. -/
def packet (op oparam : Nat) (obj handle count flags : Nat := 0) : List Byte :=
  leBytes 1 op ++ leBytes 1 1 ++ leBytes 2 flags ++ leBytes 4 1 ++ leBytes 4 0 ++ leBytes 2 0 ++ leBytes 2 obj ++ leBytes 2 handle ++ leBytes 2 oparam ++
    leBytes 4 count ++ leBytes 40 0

/-- `c0` accepted, its parameter block as given. -/
def job (op oparam : Nat) (block : List Byte := []) (obj handle count : Nat := 0) : Job :=
  { id := c0, pkt := packet op oparam obj handle count, dest := .ring 0, order := 0, acceptedAt := 0, parsed := true, block := block }

/-- Context 1. -/
def ctx1 : Context := { part := 1, rights := 0x3F, timeoutMs := 10000, maxQueues := 2, resident := true }

/-- An engine in which `j` is the one command. -/
def withJob (j : Job) (s : State := up) : State := { s with jobs := [j], contexts := [(1, ctx1)] }

/-- Stream (S3, 2). -/
def st0 : StreamId := ⟨3, 2⟩

/-- A gather of two bags from table 7 in progress. -/
def gatherJob : Job := { job opGather 0 [] (obj := 7) (count := 2) with phase := .running, began := true, offs := [0, 4, 6], epochs := [(0x20, 0)] }

/-- An engine whose stream `st0` runs the one-instruction program `i` in architectural state `a`. -/
def onStream (i : SInstr) (a : Arch) (q : List QItem := []) (budget : Nat := 0) (faulted : Bool := false) : State :=
  { withJob gatherJob with
    streams := [(26, { arch := { a with cmd := c0 }, st := .running, item := some 0, prog := List.replicate 64 (encodeS i), queue := q, budget := budget
                       faulted := faulted, portUse := 0x09 })]
    items := [{ id := 0, cmd := c0, firstBag := 0, bags := 2, place := .running 26 }] }

/-- Its program environment. -/
def env0 (a : Arch) : SEnv := gatherJob.env 1 0x09 ⟨c0, 0, a.gen⟩

theorem onStream_stream (i : SInstr) (a : Arch) (q : List QItem) (b : Nat) (f : Bool) :
    ((onStream i a q b f).stream st0.key).arch = { a with cmd := c0 } ∧ ((onStream i a q b f).stream st0.key).queue = q ∧
      ((onStream i a q b f).stream st0.key).budget = b ∧ ((onStream i a q b f).stream st0.key).faulted = f ∧
      ((onStream i a q b f).stream st0.key).item = some 0 := ⟨rfl, rfl, rfl, rfl, rfl⟩

/-- Every stream instruction is issued on some stream with nothing due: the hypotheses of the statements of the stream rows. -/
theorem witness_stream (i : SInstr) (a : Arch) (h : a.pc = 0) (q : List QItem) (b : Nat) (f : Bool) :
    StreamAt (onStream i a q b f) st0 i gatherJob (env0 a) ∧ NothingDue (onStream i a q b f) := by
  refine ⟨⟨rfl, rfl, ?_⟩, rfl, rfl, rfl, rfl, rfl, rfl⟩
  simp [State.issuable, onStream, State.stream, State.slice, sget, st0, StreamId.key, Stream.word, withJob, up, State.reset, h]

/-! ## The block -/

theorem witness_block : ({ up with pending := [.refill, .ready] } : State).pending = .refill :: [.ready] ∧ up.pending = [] ∧ up.boot.held = false ∧
    State.reset.pending = [] ∧ State.reset.boot.held = true := by decide

/-- The engine fenced by ER_FENCE.GO. -/
def fenced : State := { up with err := { fenced := true, cause := 4 }, pending := [.refill] }

theorem witness_fence : fenced.err.fenced = true ∧ fenced.pending.head? ≠ some .resetN ∧ (∃ t, step fenced = .next t) ∧
    Instr.refill ≠ .resetN ∧ (∀ l, Instr.refill ≠ .cleanDone l) ∧ ∃ t, exec .refill fenced = .next t :=
  ⟨rfl, by decide, ⟨_, rfl⟩, by decide, fun _ h => (nomatch h), ⟨_, rfl⟩⟩

theorem witness_held : State.reset.boot.held = true ∧ Instr.refill ≠ .resetN ∧ Instr.refill ≠ .resetNRelease := by decide

/-! ## Stream instructions -/

theorem witness_words : (SInstr.loop 2 false 15 0 63).wf = true ∧ decodeS (encodeS (.loop 2 false 15 0 63)) = some (.loop 2 false 15 0 63) ∧
    (SInstr.hmul 15 0 1 63).wf = true ∧ encodeS (.hmul 15 0 1 63) = encodeS (.hmul 15 0 1 63) := by decide

/-- The words of every opcode of R93, field by field: opcode, then D or A, A or B, and the rest. -/
theorem test_words :
    [(0x04400005#32, SInstr.ldi 1 5), (0x08500001#32, .ldh 1 1 1), (0x0C480000#32, .mov 1 2), (0x2048C000#32, .add 1 2 3), (0x2448C000#32, .sub 1 2 3),
     (0x2848C000#32, .mul 1 2 3), (0x2C48C000#32, .mulhu 1 2 3), (0x3048C000#32, .and 1 2 3), (0x3448C000#32, .or 1 2 3), (0x3848C000#32, .xor 1 2 3),
     (0x3C48C000#32, .minu 1 2 3), (0x4048C000#32, .shl 1 2 3), (0x4448C000#32, .shr 1 2 3), (0x504BFFFF#32, .addi 1 2 0x3FFFF), (0x544BFFFF#32, .andi 1 2 0x3FFFF),
     (0x5848003F#32, .shli 1 2 63), (0x5C48003F#32, .shri 1 2 63), (0x6048C007#32, .hmul 1 2 3 7), (0x64483FFF#32, .hmix 1 2 0x3FFF),
     (0x6848FFFF#32, .cross 1 2 3 0x3FFF), (0x70400013#32, .chks 1 1 3), (0x7448C000#32, .chkr 1 2 3), (0x80680000#32, .ldx 1 2 true), (0x84300000#32, .ldw 3),
     (0x88400000#32, .len 1), (0x8C400002#32, .pos 1 2)].all
      (fun e => decide (decodeS e.1 = some e.2)) = true := by decide

theorem test_branch_words :
    [(0xA4480009#32, SInstr.beq 1 2 9), (0xA8480009#32, .bne 1 2 9), (0xAC480009#32, .bltu 1 2 9), (0xB0480009#32, .bgeu 1 2 9),
     (0xB4400009#32, .bv 1 9), (0xB8000009#32, .br 9), (0xC0400000#32, .emit 1), (0xC4000009#32, .bagend 9), (0xC8400000#32, .pref 1), (0xCC400000#32, .run 1),
     (0xE0400000#32, .mode 1), (0xE4000002#32, .modet 2), (0xFC000000#32, .stop)].all
      (fun e => decide (decodeS e.1 = some e.2)) = true := by decide

/-- LOOP with a register count (IMM = 0, A = 1), and with a count of 8,191. -/
theorem test_loop_words : decodeS 0xA2080007#32 = some (.loop 2 false 1 0 7) ∧ decodeS 0xA087FFC7#32 = some (.loop 0 true 0 8191 7) := by decide

/-- Registers and the loop, branch and check operands at the ends of their ranges. -/
def top : Arch := ((({} : Arch).put 1 (BitVec.ofNat 64 (2 ^ 32 - 1)) false).put 2 (BitVec.ofNat 64 (2 ^ 32)) false).put 3 0 true

theorem witness_loops : top.pc = 0 ∧ top.void 1 = false ∧ (top.reg 1).toNat < 2 ^ 32 ∧ 2 ^ 32 ≤ (top.reg 2).toNat ∧ top.void 3 = true := by decide

theorem witness_loop_ends :
    let l (n : BitVec 32) : LoopCtr := { count := n, start := 1, last := 4, active := true }
    let r1 : Arch := { pc := 4, lc := #v[{}, l 1, {}] }
    let r2 : Arch := { pc := 4, lc := #v[l 2, {}, {}] }
    (∀ n : Fin 3, ¬(({} : Arch).lc[n].active = true ∧ ({} : Arch).lc[n].last = ({} : Arch).pc)) ∧
      (r1.lc[(1 : Fin 3)].active = true ∧ r1.lc[(1 : Fin 3)].last = r1.pc ∧ (∀ m : Fin 3, m ≠ 1 → ¬(r1.lc[m].active = true ∧ r1.lc[m].last = r1.pc)) ∧
        r1.lc[(1 : Fin 3)].count = 1) ∧
      (r2.lc[(0 : Fin 3)].active = true ∧ r2.lc[(0 : Fin 3)].last = r2.pc ∧ (∀ m : Fin 3, m ≠ 0 → ¬(r2.lc[m].active = true ∧ r2.lc[m].last = r2.pc)) ∧
        r2.lc[(0 : Fin 3)].count ≠ 1) := by decide

/-- Ports: PORT_USE 0x09 makes P1 an ENTRY port and P2 a BAG port. -/
theorem witness_ports :
    let r : Arch := { entry := 3, entryEnd := 4, cur := some 2 }
    r.entry < r.entryEnd ∧ ({ r with entry := 4 } : Arch).entryEnd ≤ ({ r with entry := 4 } : Arch).entry ∧ portUseOf 0x09 1 = 1 ∧ portUseOf 0x09 2 = 2 ∧
      r.cur = some 2 ∧ ({} : Arch).cur = none := by decide

/-- A load that finds an entry (all ones, from an absent operand), and one at the end of the piece. -/
theorem witness_loads :
    let a : Arch := { entryEnd := 4 }
    let s := onStream (.ldx 1 0 true) a
    let e := onStream (.ldx 1 0 true) {}
    (s.portRead st0.key gatherJob (env0 a) (s.stream st0.key).arch 0 = (s, .ok (some 0xFFFF)) ∧ 0xFFFF < 2 ^ 16 ∧ (s.stream st0.key).budget + 1 < 65536) ∧
      e.portRead st0.key gatherJob (env0 {}) (e.stream st0.key).arch 0 = (e, .ok none) := by
  refine ⟨⟨rfl, by decide, by decide⟩, rfl⟩

theorem witness_ldw :
    let a : Arch := { entryEnd := 4 }
    let s := onStream (.ldw 0) a
    s.portRead st0.key gatherJob (env0 a) (s.stream st0.key).arch 0 = (s, .ok (some 0xFFFF)) := rfl

/-- EMIT with 31 elements queued and a current entry; full; with none current; with k at F. -/
theorem witness_emit :
    let q := List.replicate 31 (QItem.bagEnd ⟨c0, 0, 1⟩ 0)
    let x := (onStream (.emit 1) { cur := some 3, entry := 4, entryEnd := 4 } q).stream st0.key
    (x.faulted = false ∧ x.queue.length < 32 ∧ x.arch.cur = some 3 ∧ x.arch.k ≠ (env0 {}).fan) ∧
      32 ≤ ((onStream (.emit 1) {} (.bagEnd ⟨c0, 0, 1⟩ 0 :: q)).stream st0.key).queue.length ∧
      ((onStream (.emit 1) {}).stream st0.key).arch.cur = none ∧
      (((onStream (.emit 1) { cur := some 3, k := 1 }).stream st0.key).arch.cur.isSome = true ∧
        ((onStream (.emit 1) { cur := some 3, k := 1 }).stream st0.key).arch.k = (env0 {}).fan) ∧
      ((onStream (.emit 1) {} [] 0 true).stream st0.key).faulted = true := by decide

theorem witness_program_errors :
    let a : Arch := ({} : Arch).put 1 (BitVec.ofNat 64 (2 ^ 31)) false
    modeOk ((a.reg 1).truncate 32) = false ∧ modeWeighted (2 ^ 25) = true ∧ portUseOf 0 1 ≠ 1 ∧
      65535 ≤ ((onStream (.len 1) {} [] 65535).stream st0.key).budget := by decide

theorem witness_bags :
    let x (n : Nat) := (onStream (.bagend 0) { bagsLeft := n }).stream st0.key
    ((x 2).faulted = false ∧ (x 2).queue.length < 32 ∧ 1 < (x 2).arch.bagsLeft ∧ (x 2).item = some 0) ∧ (x 1).arch.bagsLeft ≤ 1 ∧ (x 0).budget + 1 < 65536 := by decide

theorem witness_run :
    let a : Arch := { entry := 3, entryEnd := 4 }
    let s := onStream (.run 1) a
    (s.stream st0.key).faulted = false ∧ modeWeighted (s.stream st0.key).arch.mode = false ∧ ({} : Arch).entryEnd ≤ ({} : Arch).entry ∧
      a.entry + 1 = a.entryEnd ∧ (s.stream st0.key).queue.length < 32 ∧ 0xFFFF < 2 ^ 16 ∧
      s.portRead st0.key gatherJob (env0 a) (s.stream st0.key).arch 0 = (s, .ok (some 0xFFFF)) :=
  ⟨rfl, rfl, by decide, by decide, by decide, by decide, rfl⟩

theorem witness_modes : modeOk (((({} : Arch).reg 1)).truncate 32) = true ∧ (∀ p : Fin 4, modeWidth 0 p.val = modeWidth ({} : Arch).mode p.val) ∧
    (env0 {}).slots.getD (modeTsel (2 ^ 26)) none = none ∧ top.void 3 = true := by decide

/-- A command of any opcode and block starts in an engine with nothing in its way. -/
theorem ready_job (op oparam : Nat) (block : List Byte) (obj handle count : Nat) (s : State) (h : s.alive = true) (hf : s.faults = [])
    (hw : s.faultsWaiting = []) (hi : s.items = []) :
    Ready (withJob (job op oparam block obj handle count) s) c0 (job op oparam block obj handle count) := by
  refine ⟨h, rfl, rfl, rfl, ?_, ?_, ?_⟩
  · simp [State.mayStart, State.earlier, withJob, job]
  · simp [State.faultWait, withJob, hf, hw]
  · simp [withJob, hi]

/-- Each opcode, and each sub-op of CONFIG, has a command that starts. -/
theorem witness_ready : (∀ op ∈ [opNop, opGather, opGatherSeq, opScatter, opApply, opProject, opLoadPlan, opUnloadPlan, opMapSegment, opInvalidate, opSnapshot,
      opRestore, opSetEnvelope, opQuery, opTraceCtl, opWaitGraph, opDrain, opJoin, opDebug], ReadyOp (withJob (job op 0)) c0 (job op 0) op) ∧
    ∀ sub ∈ [subContextCreate, subContextDelete, subQueueCreate, subQueueDelete, subGrant, subArmWeights, subPromoList, subExpander, subPoolShare, subAttest,
      subSetNode, subRouteSet, subRouteClear, subNeighbours, subShardSet, subPort],
      ReadySub (withJob (job opConfig sub)) c0 (job opConfig sub) sub := by
  have h : ∀ op sub, Ready (withJob (job op sub)) c0 (job op sub) := fun op sub => ready_job op sub [] 0 0 0 up rfl rfl rfl rfl
  refine ⟨fun op ho => ⟨h op 0, ?_⟩, fun sub hs => ⟨h opConfig sub, rfl, ?_⟩⟩
  · revert op; decide
  · revert sub; decide

/-! ## Boot and power -/

theorem witness_cold_reset : State.reset.boot.held = true ∧ up.boot.held = false := by decide

/-- The boot at its stages. -/
def booting (stage : Nat) (scrub : Bool := false) : State :=
  { up with
    boot := { held := false, stage := stage, ctlLocked := decide (1 ≤ stage), coreLocked := decide (3 ≤ stage), memLocked := decide (5 ≤ stage) }
    rc := { up.rc with scrubbing := scrub } }

theorem witness_boot : (booting 0).alive = true ∧ ((booting 0).boot.stage = 0 ∧ (booting 0).boot.ctlLocked = false) ∧
    ((booting 1).boot.stage = 1 ∧ (booting 1).boot.triedA = false) ∧ ((booting 2).boot.stage = 2 ∧ (booting 2).boot.coreLocked = false) ∧
    (booting 3 true).rc.scrubbing = true ∧ ((booting 3).boot.stage = 3 ∧ (booting 3).rc.scrubbing = false ∧ (booting 3).boot.triedA = false) ∧
    ((booting 4).boot.stage = 4 ∧ (booting 4).boot.memLocked = false ∧ (booting 4).boot.poolReady = false) ∧
    (up.boot.poolReady = true ∧ ({ up with boot := { up.boot with stage := 4 } } : State).boot.memLocked = true) := by decide

theorem witness_boot_failures : (booting 4).boot.stage < 5 ∧ (booting 4).boot.poolReady = false ∧ 50000000 ≤ (booting 4).time ∧
    60000000 + (booting 4).boot.extraNs ≤ (booting 4).time ∧ (booting 0).boot.since + 1000000 ≤ (booting 0).time := by decide

/-- Shed, released into its hold, rising, and with a disagreement. -/
def power (p : Power) : State := { up with pw := p }

theorem witness_set_envelope : let j := job opSetEnvelope 15
    ReadyOp (withJob j) c0 j opSetEnvelope ∧ 15 = bitsOf (pktOparam j.pkt) 3 0 ∧ (withJob j).pw.cmd = none ∧ (withJob j (power {})).pw.shed = true ∧
      ((withJob j).pw.shed = false ∧ (withJob j).pw.effective ≤ 15) ∧
      (let s := withJob (job opSetEnvelope 14) (power { shed := false })
       s.pw.shed = false ∧ 14 < s.pw.effective ∧ s.pw.hold = false ∧ s.pw.ramping = false) :=
  ⟨⟨ready_job _ _ _ _ _ _ _ rfl rfl rfl rfl, rfl⟩, by decide⟩

theorem witness_envelope_step : let s := power { shed := false, ramping := true, commanded := 14, lastStep := 1000000000 - 50000 }
    s.alive = true ∧ s.pw.ramping = true ∧ s.pw.shed = false ∧ s.pw.hold = false ∧ s.pw.lastStep + 50000 ≤ s.time ∧ s.pw.cmd = none := by decide

theorem witness_shed : let at_ := 1000000000 - 1000
    (let p := (power { changedA := at_, shed := false }).pw
     p.changedA + 1000 ≤ up.time ∧ p.rawA = true ∧ p.filtB = true ∧ p.disagreeSince = none ∧ p.shed = false) ∧
    (let p := (power { changedB := at_, rawB := false, filtA := false }).pw
     p.changedB + 1000 ≤ up.time ∧ p.rawB = false ∧ p.filtA = false ∧ p.disagreeSince = none ∧ p.shed = true) ∧
    (let p := (power { changedA := at_, filtB := false }).pw
     p.changedA + 1000 ≤ up.time ∧ p.rawA = true ∧ p.filtB = false ∧ p.disagreeSince = none) ∧
    (let s := power { disagreeSince := some (1000000000 - 100000), shed := false }
     s.pw.disagreeSince = some (1000000000 - 100000) ∧ 1000000000 - 100000 + s.discUs * 1000 ≤ s.time ∧ s.pw.discDone = false ∧ s.pw.shed = false) ∧
    (let s := power { hold := true, releasedAt := 0, shed := false }
     s.pw.hold = true ∧ s.pw.releasedAt + s.holdMs * 1000000 ≤ s.time ∧ s.pw.commanded < s.pw.effective) := by decide

/-! ## Contexts, queues, segments -/

/-- A context descriptor for context 2. -/
def ctxBlock : List Byte := leBytes 2 2 ++ leBytes 1 63 ++ leBytes 1 0x3F ++ leBytes 8 0 ++ leBytes 2 1 ++ leBytes 4 0 ++ leBytes 1 64 ++ leBytes 45 0

/-- The rights of `c0`'s context, and none. -/
theorem witness_rights : ∀ sub ∈ [subContextCreate, subContextDelete, subGrant, subAttest],
    let j := job opConfig sub
    (withJob j).allowed j = true ∧ ({ withJob j with contexts := [(1, { ctx1 with rights := 0 })] } : State).allowed j = false := by decide

theorem witness_contexts : firstBroken (contextRules ctxBlock) = none ∧ (withJob (job opConfig subContextCreate ctxBlock)).context? (field ctxBlock 0 2) = none ∧
    ({ withJob (job opConfig subContextCreate ctxBlock) with contexts := [(1, ctx1), (2, {})] } : State).context? (field ctxBlock 0 2) = some {} ∧
    (let j := job opConfig subContextDelete (leBytes 8 4094)
     let s : State := { withJob j with contexts := [(1, ctx1), (4094, {})] }
     field j.block 0 2 < 2 ^ 12 ∧ zeroRange j.block 2 6 = true ∧ s.context? 4094 = some {} ∧ (withJob j).context? 4094 = none ∧
       (s.jobs.all fun k => k.id.ctx != 4094 || k.id == c0) = true) ∧
    (let j := job opConfig subContextDelete (leBytes 8 1)
     let s : State := { withJob j with jobs := [j, { j with id := ⟨1, 0, 1⟩, phase := .running }] }
     (s.jobs.any fun k => k.id.ctx == field j.block 0 2 && k.id != c0) = true ∧ s.context? 1 = some ctx1) := by decide

/-- A queue of context 1: KIND 0 a ring of 16 slots, KIND 1 a fabric queue. -/
def queueBlock (kind : Nat) : List Byte := leBytes 2 1 ++ leBytes 1 63 ++ leBytes 1 kind ++ leBytes 1 4 ++ leBytes 1 12 ++ leBytes 26 0

theorem witness_queues : ∀ kind ∈ [0, 1],
    let b := queueBlock kind
    let u := (withJob (job opConfig subQueueCreate b)).begin c0
    (firstBroken (queueRules b) = none ∧ (u.context? (field b 0 2)).isSome = true ∧ u.queueExists (field b 0 2) (field b 2 1) = false) ∧
      u.context? (field b 0 2) = some ctx1 ∧ u.queueCount (field b 0 2) < ctx1.maxQueues ∧ field b 3 1 = kind ∧ u.fabqs.length < 16384 ∧
      u.rings.length < 16384 ∧ field b 0 2 < 2 ^ 12 ∧ field b 2 1 < 64 := by decide

theorem witness_queue_limit : let b := queueBlock 1
    let u := ({ withJob (job opConfig subQueueCreate b) with fabqs := [⟨1, 0, 0, [], false⟩, ⟨1, 1, 0, [], false⟩] } : State).begin c0
    ctx1.maxQueues ≤ u.queueCount (field b 0 2) ∧ u.queueExists 1 63 = false := by decide

theorem witness_queue_delete : let b : List Byte := leBytes 2 1 ++ leBytes 1 63 ++ leBytes 5 0
    let u := (withJob (job opConfig subQueueDelete b)).begin c0
    let k : Job := { job opNop 0 with id := ⟨1, 63, 0⟩, phase := .running }
    zeroRange b 3 5 = true ∧ (u.jobs.all fun k => !(k.id.ctx == 1 && k.id.queue == 63) || k.id == c0) = true ∧
      (({ withJob (job opConfig subQueueDelete b) with jobs := [job opConfig subQueueDelete b, k] } : State).jobs.any fun k =>
        k.id.ctx == 1 && k.id.queue == 63 && k.id != c0) = true := by decide

/-- A segment of one page at 0. -/
def segBlock : List Byte := leBytes 8 0 ++ leBytes 8 (2 ^ 21) ++ leBytes 8 4096 ++ leBytes 8 0

theorem witness_grants : let b : List Byte := leBytes 4 8912895 ++ leBytes 4 1 ++ leBytes 2 4095 ++ leBytes 6 0
    (field b 0 4 + field b 4 4 ≤ 8912896 ∧ field b 8 2 < 2 ^ 12 ∧ zeroRange b 11 5 = true) ∧
      (withJob (job opMapSegment 15 segBlock (count := 1))).context? 1 = some ctx1 ∧ firstBroken (segmentRules segBlock []) = none ∧
      (ctx1.segs.toList.getD 15 {}).valid = false ∧ (withJob (job opMapSegment 0 (count := 9))).context? 9 = none ∧
      8912896 < field (leBytes 4 8912895 ++ leBytes 4 2 ++ leBytes 8 0) 0 4 + field (leBytes 4 8912895 ++ leBytes 4 2 ++ leBytes 8 0 : List Byte) 4 4 := by decide

/-- A valid segment changed, with no access of its context in flight, and with a read. -/
theorem witness_remap : let x : Context := { ctx1 with segs := ctx1.segs.set 15 { size := 2 ^ 21, root := 8192, valid := true } }
    let j := job opMapSegment 15 segBlock (count := 1)
    let s (m : List MemReq) : State := { withJob j with contexts := [(1, x)], memReqs := m }
    let w (m : List MemReq) := ({ ((s m).begin c0).setContext 1 { x with segs := x.segs.setIfInBounds 15 (segmentOf segBlock) } with qlocked := true } : State).invalidateScope
      { ctx := 1, seg := some 15 }
    let m : MemReq := { tag := 0, slice := 0, stream := 0, line := 0, lo := 0, hi := 0, target := .channel 0, ctx := 1, cmdCtx := 1, cmd := ⟨1, 1, 0⟩ }
    (s []).allowed j = true ∧ (s []).context? 1 = some x ∧ (x.segs.toList.getD 15 {}).valid = true ∧ x.segs.toList.getD 15 {} ≠ segmentOf segBlock ∧
      firstBroken (segmentRules segBlock ((x.segs.toList.zipIdx.filter fun e => e.2 ≠ 15).map (·.1))) = none ∧ (w []).ctxBusy c0 1 = false ∧
      (w [m]).ctxBusy c0 1 = true := by decide

theorem witness_invalidate : let j := job opInvalidate 2 (count := 1)
    let s := (withJob j).begin c0
    pktOparam j.pkt < 2 ^ 6 ∧ bitsOf (pktOparam j.pkt) 1 0 ≠ 3 ∧
      ((s.invalidateScope { ctx := 1, seg := none, range := none }).ctxBusy c0 1) = false := by decide

theorem witness_refusals : firstBroken (contextRules (leBytes 64 0)) = some ⟨false, 0x8000, 0⟩ ∧
    (firstBroken (contextRules (leBytes 2 1 ++ ctxBlock.drop 2)) = none ∧ ((withJob (job opConfig 1)).context? 1).isSome = true) ∧
    firstBroken (queueRules (leBytes 2 1 ++ leBytes 1 64 ++ leBytes 29 0)) = some ⟨false, 0x8002, 64⟩ ∧ 15 < field (leBytes 8 16 : List Byte) 0 1 ∧
    8 ≤ field (leBytes 8 8 : List Byte) 0 1 ∧ firstBroken (joinRules (leBytes 16 (2 ^ 14))) = some ⟨false, 0x8000, 2 ^ 14⟩ ∧
    firstBroken (traceRules (leBytes 32 0)) = some ⟨false, 0x8008, 0⟩ := by decide

theorem witness_weights : let b : List Byte := leBytes 8 0xFFFF
    let s : State := { withJob (job opConfig subArmWeights b) with wsets := [(0xFFFF, { bound := true })] }
    s.wset? (field b 0 2) = some { bound := true } ∧ zeroRange b 2 6 = true ∧
      (let e : List Byte := leBytes 1 15 ++ leBytes 1 0 ++ leBytes 2 1024 ++ leBytes 4 0
       field e 0 1 ≤ 15 ∧ field e 1 1 = 0 ∧ field e 2 2 ≤ 1024 ∧ zeroRange e 4 4 = true) := by decide

/-- ATTEST of an empty request: its response is an error message, which fits an area of its length, and not one a byte shorter. -/
theorem witness_attest : let j (max : Nat) := job opConfig subAttest (leBytes 10 0 ++ leBytes 2 max ++ leBytes 12 0)
    let u (max : Nat) := (withJob (j max)).begin c0
    let n := ((u 0).spdm []).length
    (∀ m, (u m).readVa c0 ((u m).cmdSpace c0) ((u m).whoJob c0) 0 0 = (u m, .ok [])) ∧
      zeroRange (j n).block 12 4 = true ∧ field (j n).block 8 2 = 0 ∧ (withJob (j n)).allowed (j n) = true ∧
      n ≤ field (j n).block 10 2 ∧ field (j (n - 1)).block 10 2 < n := ⟨fun _ => rfl, by decide, by decide, by decide, by decide, by decide⟩

/-- A ring of 16 slots with one slot fetched. -/
def ring1 : Ring := { ctx := 1, queue := 0, log2Entries := 4, log2Slot := 6, sqBase := 0, cqBase := 4096, firstSeq := 0, tail := 2, fetched := 1 }

theorem witness_doorbells : let s : State := { up with rings := [(16383, ring1)] }
    Written s (doorbellOff 16383) .pkg ∧ s.ring? 16383 = some ring1 ∧ ring1.writer = none ∧ ring1.log2Entries ≤ 16 ∧ ring1.err = false ∧
      ({ ring1 with err := true } : Ring).err = true ∧
      ((15 + 2 ^ 16 - 1) % 2 ^ 16 < 16 ∧ (15 + 2 ^ 16 - 0) % 2 ^ 16 < 16) ∧ ¬((16 + 2 ^ 16 - 0) % 2 ^ 16 < 16) := by
  unfold Written; decide

/-- Whether a read gave bytes. -/
def gave (r : Rd) : Bool := match r with
  | .ok _ => true
  | _ => false

/-- Whether work ran to its end. -/
def went {α : Type} (r : Pass α) : Bool := match r with
  | .ok _ => true
  | _ => false

/-- Whether work ended with a status. -/
def stopped {α : Type} (r : Pass α) : Bool := match r with
  | .stop _ _ => true
  | _ => false

/-- A slot of a ring addressed physically (CTX 0), one of a context that does not exist, and one whose PLEN is longer than it. -/
theorem witness_packets : let q : Ring := { ring1 with ctx := 0 }
    let s : State := { up with rings := [(0, q)], contexts := [(0, ctx1)] }
    let r := s.readSlot 0 q 64 64
    let bad := s.readSlot 0 { ring1 with ctx := 5 } 64 64
    s.alive = true ∧ s.isReady = true ∧ s.ring? 0 = some q ∧ q.canFetch = true ∧ s.faultWait (.fetchQueue 0) = false ∧ gave r.2 = true ∧
      (r.1.context? 0).isSome = true ∧ bad.2 = .bad 64 ∧ pktPlen (leBytes 12 0 ++ leBytes 2 1) > 2 ^ 6 - 64 := by decide

/-- Context 1 with one table of one page at 4096, in memory `m`. -/
def mapped (m : List Host.Cell) : State :=
  { up with mem := m, rings := [(0, ring1)], contexts := [(1, { ctx1 with segs := ctx1.segs.set 0 { size := 2 ^ 21, root := 4096, valid := true } })] }

/-- A slot that waits for a fault. -/
theorem witness_packet_waits : ((mapped []).readSlot 0 ring1 64 64).2 = .wait := by decide +kernel

/-! ## Plans and reading commands -/

/-- A plan image in line: one table set, which resumes from its record, and one table of one row of one element. -/
def planBytes : List Byte :=
  leBytes 2 1 ++ leBytes 2 3 ++ leBytes 4 320 ++ leBytes 2 1 ++ leBytes 2 1 ++ leBytes 12 0 ++ leBytes 4 64 ++ leBytes 4 128 ++ leBytes 4 256 ++ leBytes 28 0 ++
    (leBytes 2 7 ++ leBytes 2 1 ++ leBytes 12 0 ++ leBytes 8 16384 ++ leBytes 4 1 ++ leBytes 36 0) ++
    (leBytes 2 1 ++ leBytes 2 1 ++ leBytes 1 0 ++ leBytes 1 3 ++ leBytes 2 0 ++ leBytes 8 1 ++ leBytes 4 0x3F800000 ++ leBytes 4 256 ++ leBytes 72 0 ++
      List.replicate 16 0xFF ++ leBytes 8 8192 ++ leBytes 1 10 ++ leBytes 7 0) ++
    (leBytes 2 1 ++ leBytes 2 7 ++ leBytes 1 8 ++ leBytes 3 0) ++ leBytes 56 0

/-- Its LOAD_PLAN, with CHECK_ONLY or not. -/
def loading (flags : Nat) (image : List Byte := planBytes) : Job :=
  { job opLoadPlan 0 (handle := 3) with
    pkt := (packet opLoadPlan 0 (handle := 3) (flags := flags)).take 12 ++ leBytes 2 320 ++ ((packet opLoadPlan 0 (handle := 3)).drop 14).take 18 ++
      leBytes 8 (2 ^ 62 + 320 * 2 ^ 16) ++ leBytes 24 0 ++ image }

/-- An engine that stages through no way, and in which the pages of context 1's segment lead nowhere: what the set resumes from cannot be
read. -/
def loadState (flags : Nat) (image : List Byte := planBytes) : State :=
  { withJob (loading flags image) with
    mem := [(4096, 1), (4101, 1)], regs := [(0x20050, 0)], contexts := [(1, { ctx1 with segs := ctx1.segs.set 0 { size := 2 ^ 21, root := 4096, valid := true } })] }

theorem witness_plans : ∀ fl ∈ [0, 0x20],
    let j := loading fl
    let u := (loadState fl).begin c0
    let p := planImg planBytes 1
    let a := u.readOperand c0 j.pkt (pktD0 j.pkt) 0 64
    let b := a.1.readOperand c0 j.pkt (pktD0 j.pkt) 0 320
    (u.jobs.any fun k => pktOpcode k.pkt == opLoadPlan && k.parsed && k.phase != .finishing && decide (k.order < j.order)) = false ∧
      a.2 = .ok (planBytes.take 64) ∧ headerCheck (planBytes.take 64) (pktHandle j.pkt) (inlineLen (pktD0 j.pkt)) = none ∧ b.2 = .ok planBytes ∧
      sectionCheck planBytes = none ∧ (b.1.admitPlan p).1 = none ∧ flCheckOnly j.pkt = decide (fl ≠ 0) ∧
      went ((installPlan c0 p (b.1.planBounds p)).whole b.1).2 = true := by decide +kernel

/-- A header of another version, a section out of its bounds, and an installed plan of the same handle. -/
theorem witness_plan_refusals : let im : List Byte := planBytes.take 24 ++ leBytes 4 65 ++ planBytes.drop 28
    let s : State := { loadState 0 with plans := [{ handle := 3, owner := 1, tsets := [], tables := [], images := [], wsets := [], resv := [], wayMin := [], digest := 0 }] }
    (headerCheck (zeros 64) 3 (some 320)).isSome = true ∧ headerCheck (im.take 64) 3 (some 320) = none ∧ (sectionCheck im).isSome = true ∧
      ((s.begin c0).admitPlan (planImg planBytes 1)).1.isSome = true := by decide +kernel

/-- Table set 7 in a state. -/
def setIn (j : Job) (t : TableSet) : State := { withJob j with tsets := [(7, t)] }

theorem witness_unload : let j := job opUnloadPlan 0 (handle := 3)
    let p : Plan := { handle := 3, owner := 1, tsets := [7], tables := [], images := [], wsets := [], resv := [], wayMin := [], digest := 0 }
    let u := ({ setIn j {} with plans := [p] } : State).begin c0
    let v := ({ setIn j { st := .draining } with plans := [p] } : State).begin c0
    ((withJob j).begin c0).plan? 3 = none ∧ u.plan? 3 = some p ∧ (u.jobs.any fun k => decide (k.id ≠ c0) && u.usesPlan p k) = false ∧
      u.setsIdle p = true ∧ v.setsIdle p = false ∧ (u.flushPlan c0 p).2 = true := by decide

/-- A gather over table 1 of set 7. -/
def gathering (t : TableSet) (op : Nat := opGather) : State :=
  { setIn (job op 0 (obj := 1)) t with tables := [(1, { desc := { table := 1, rows := 10 }, tset := 7 })] }

/-- A gather with MIN_EPOCH set, its block naming minimum epoch 4 for T0. -/
def heldJob : Job :=
  { job opGather 0 (leBytes 8 (2 ^ 64 - 1) ++ leBytes 56 0 ++ leBytes 4 4 ++ leBytes 76 0) (obj := 1) with
    pkt := leBytes 2 (0x0110) ++ leBytes 2 0x10 ++ (packet opGather 0 (obj := 1)).drop 4
    phase := .running, heldSince := some 999000000 }

/-- Its minimum epoch, at set 7. -/
theorem witness_gate : let s (t : TableSet) := { gathering t with jobs := [heldJob] }
    let st (t : TableSet) := (s t).setState 7
    (∀ t ∈ [({} : TableSet), { st := .torn }, { st := .draining }, { epoch := 4 }], (s t).nextSets heldJob = some [7]) ∧ (s {}).minEpochs heldJob = [(7, 4)] ∧
      st { st := .torn } = .torn ∧ (st { st := .draining } = .draining ∧ heldJob.promised = []) ∧ (st { epoch := 4 } = .opened ∧ epochReached ((s { epoch := 4 }).epochOf 7) 4 = true) ∧
      (st { epoch := 3 } = .opened ∧ heldJob.epochs = [] ∧ epochReached ((s { epoch := 3 }).epochOf 7) 4 = false) ∧ ((s {}).reading 7).length < 16 ∧
      7 ∈ ({ heldJob with promised := [7] } : Job).promised := by decide

theorem witness_gate_full : let j (n : Nat) : Job := { job opGather 0 with id := ⟨1, 0, n⟩, phase := .running, began := true, epochs := [(7, 0)] }
    16 ≤ (({ gathering {} with jobs := (List.range 16).map j } : State).reading 7).length := by decide

/-- A snapshot of set 7, not held, held by its window, and of a torn set. -/
theorem witness_snapshot : let j := job opSnapshot 0 (obj := 7)
    let u (t : TsState) := (setIn j { st := t }).begin c0
    let w := (u .opened).updJob c0 fun j' => { j' with epochs := [(7, (u .opened).epochOf 7)] }
    let v := w.flushSketch c0 (w.whoJob c0) 7
    j.epochs = [] ∧ (u .opened).gate j = .go ∧ (w.job? c0).isSome = true ∧ v.2 = true ∧
      went (readImage c0 (v.1.whoJob c0) (v.1.sections 7) [] v.1).2 = true ∧ (u .draining).gate j = .held ∧ (u .torn).gate j = .torn := by decide

/-- The item of a gather over set 7, which waits in the intake. -/
theorem witness_begins : let j : Job := { job opGather 0 (obj := 1) with phase := .running }
    let i : WorkItem := { id := 0, cmd := c0, firstBag := 0, bags := 1 }
    let s (t : TsState) : State := { gathering { st := t } with jobs := [j], items := [i] }
    (s .opened).alive = true ∧ (∀ t ∈ [TsState.opened, .torn], (s t).items.find? (fun w => w.place == .intake && (s t).mayDeal w.cmd) = some i) ∧
      (s .opened).dealSlice = some 0 ∧ (s .opened).job? i.cmd = some j ∧ (s .opened).nextSets j = some [7] ∧ (s .opened).gate j = .go ∧
      flFused j.pkt = false ∧ (s .torn).gate j = .torn := by decide

/-- No hold, a hold that begins, and one that ends. -/
theorem witness_holds : let s (t : TsState) := { gathering { st := t, epoch := 4 } with jobs := [heldJob] }
    (s .opened).job? c0 = some heldJob ∧ (s .opened).holders heldJob = [] ∧ (s .draining).holders heldJob = [7] ∧ heldJob.heldSince = some 999000000 ∧
      (job opGather 0).heldSince = none ∧ (gathering {}).holders (job opGather 0 (obj := 1)) = [] ∧
      (gathering { st := .writing }).holders (job opGather 0 (obj := 1)) = [7] := by decide

theorem witness_command_timeout :
    let s (e : Nat) : State := { setIn heldJob { epoch := e } with
      contexts := [(1, { ctx1 with timeoutMs := 1 })], tables := [(1, { desc := { table := 1, rows := 10 }, tset := 7 })] }
    (s 0).alive = true ∧ (s 0).job? c0 = some heldJob ∧ heldJob.heldSince = some 999000000 ∧ ((s 0).nextSets heldJob).isSome = true ∧
      heldJob.epochs = [] ∧ (∃ e ∈ (s 0).minEpochs heldJob, epochReached ((s 0).epochOf e.1) e.2 = false) ∧
      (∀ e ∈ (s 4).minEpochs heldJob, epochReached ((s 4).epochOf e.1) e.2 = true) ∧ 999000000 + 1 * 1000000 ≤ (s 0).time ∧
      (s 0).time < 999000001 + 1 * 1000000 := by decide

theorem witness_items : let j : Job := { job opGather 0 (obj := 1) with offs := [0, 3, 5000], fan := 1 }
    1 ≤ j.fan ∧ j.fan ≤ 4096 ∧ (up.makeItems j).items.length = 3 := by decide

/-! ## Scatters -/

/-- A scatter of set 7 at a stage of its passes. -/
def scattering (x : ScatterJob) (phase : Phase := .accepted) : Job := { job opScatter 0 (obj := 1) with scatter := some x, phase := phase }

theorem witness_pass1 : let x : ScatterJob := { tset := 7, group := false }
    let j := scattering x
    let s (t : TsState) := { gathering { st := t } with jobs := [j] }
    ReadyOp (s .opened) c0 j opScatter ∧ j.scatter = some x ∧ x.pass1 = false ∧
      ((((s .torn).begin c0).tset? 7).map (·.st)).getD .torn = .torn ∧ ((((s .pending).begin c0).tset? 7).map (·.st)).getD .torn = .pending ∧
      x.next = false ∧ ({ x with next := true } : ScatterJob).next = true ∧ ((s .opened).begin c0).fixedConflict j = false := by
  unfold ReadyOp Ready; decide

/-- FIXED tables of set 7 whose T is already 3; and a scatter of no bag, whose pass 1 ends. -/
theorem witness_fixed_conflict : let x : ScatterJob := { tset := 7, group := false }
    let s : State := { gathering {} with tables := [(1, { desc := { table := 1, rows := 10 }, tset := 7, opt := some { winFixed := true }, winT := some 3 })] }
    (s.begin c0).fixedConflict (scattering x) = true ∧ (let u : State := { (gathering {}).begin c0 with images := [(0, {})] }
       went (u.scatterData { scattering x with offs := [0] }).2 = true) := by decide

theorem witness_pass2 : let x : ScatterJob := { tset := 7, group := false, pass1 := true }
    let s (x : ScatterJob) : State := { gathering {} with jobs := [scattering x .running] }
    (s x).alive = true ∧ (s x).job? c0 = some (scattering x .running) ∧ (s x).faultWait (.job c0) = false ∧ (s x).mayPass2 x = true ∧
      (s x).mayPass2 { x with pass1 := false } = false := by decide

/-- Whether a slot was taken. -/
def took (r : TakeRes) : Bool := match r with
  | .slot _ => true
  | _ => false

/-- Row 3's add into an empty staging region of one bucket, at an epoch of 1, with one slot and with none; and a heavy row's, whose sum two
scatters share, and of which none is left. -/
theorem witness_adds : let a : StageAdd := { table := 1, row := 3, seg := 0, vals := [], occur := 1, trunc := 0 }
    let h : StageAdd := { a with heavy := true }
    let x : ScatterJob := { tset := 7, group := false, pass1 := true, pass2 := true, adds := [a] }
    let s (n : Nat) (x : ScatterJob) : State := { setIn (scattering x .running) { epoch := 1 } with
      tables := [(1, { desc := { table := 1, rows := 10 }, tset := 7, opt := some { stgLog2 := 0, maxTouched := n } })] }
    let add (n : Nat) (a : StageAdd) (x : ScatterJob) := ((s n x).table? 1).map fun t => ((s n x).addToSlot c0 ((s n x).whoJob c0) t (t.opt.getD {}) a).2
    ((s 1 x).alive = true ∧ (s 1 x).faultWait (.job c0) = false ∧ x.adds = a :: [] ∧ a.heavy = false ∧ x.rolling = false) ∧
      (add 1 a x).map took = some true ∧ add 0 a x = some .full ∧
      ((s 1 { x with adds := [h], heavyAdds := [h] }).accumulators c0 { x with adds := [h], heavyAdds := [h] }).find? h.sameSeg = some h ∧
      (add 1 h x).map took = some true ∧ ((s 1 { x with adds := [h] }).accumulators c0 { x with adds := [h] }).find? h.sameSeg = none := by
  decide +kernel

/-- The last pass 2 of a step whose heavy row has a sum to flush. -/
theorem witness_flush : let a : StageAdd := { table := 1, row := 3, seg := 0, vals := [some 5], occur := 1, trunc := 0, heavy := true }
    let x : ScatterJob := { tset := 7, group := false, pass1 := true, pass2 := true, heavyAdds := [a] }
    let s : State := { gathering {} with jobs := [scattering x .running] }
    x.pass2 = true ∧ x.rolling = false ∧ s.accumulators c0 x ≠ [] ∧ ((s.heavyShare c0 x).all (·.pass2Ended)) = true := by decide

theorem witness_scatter_ends : let x : ScatterJob := { tset := 7, group := false, pass1 := true, pass2 := true }
    let j := scattering x .running
    let s : State := { gathering {} with jobs := [j] }
    s.job? c0 = some j ∧ j.scatter = some x ∧ j.phase = .running ∧ x.pass2 = true ∧ x.rolling = false ∧ x.adds = [] ∧ x.heavyAdds = [] ∧
      j.drops = 0 ∧ j.empty = 0 ∧ j.mismatch = 0 ∧ j.clamp = 0 ∧ 0 < ({ j with drops := 1 } : Job).drops ∧ 0 < ({ j with clamp := 1 } : Job).clamp := by decide

/-! ## Steps of a table set -/

theorem witness_steps_close :
    let u (t : TableSet) := (setIn (job opApply 0 (obj := 7) (count := 5)) t).begin c0
    (u { epoch := 5 }).tset? 7 = some { epoch := 5 } ∧ pktObj (job opApply 0 (obj := 7)).pkt = 7 ∧ pktCount (job opApply 0 (count := 5)).pkt = 5 ∧
      5 ≠ ({} : TableSet).epoch ∧ ({ st := .pending } : TableSet).st ≠ .opened ∧ ({ st := .pending } : TableSet).st ≠ .torn ∧
      (u { st := .torn }).tset? 7 = some { st := .torn } := by decide

/-- A RESTORE of set 7, by a command of CTX 0: from the image that a SNAPSHOT of it gives, and from memory without one. -/
theorem witness_restore : let c : CmdId := ⟨0, 0, 0⟩
    let j : Job := { job opRestore 0 (obj := 7) with id := c }
    let s (m : List Host.Cell) : State := { setIn j {} with mem := m }
    let u (m : List Host.Cell) := (s m).begin c
    let image := match (readImage c ((u []).whoJob c) ((u []).sections 7) [] (u [])).2 with
      | .ok b => b
      | _ => []
    let m : List Host.Cell := (image.zipIdx.filter fun e => e.1 ≠ 0).map fun e => (e.2, e.1)
    let check (u : State) := (checkSections 7 c (u.whoJob c) (imageVa j.pkt) (u.sections 7) 0 [] u).2
    ((s m).alive = true ∧ (s m).job? c = some j ∧ (s m).mayStart j = true ∧ (s m).faultWait (.job c) = false) ∧ ((u m).tset? 7).isSome = true ∧
      ({} : TableSet).st = .opened ∧ ({} : TableSet).apply = none ∧ went (check (u m)) = true ∧ stopped (check (u [])) = true := by
  decide +kernel

/-- The window of an APPLY_EPOCH at a state of its set. -/
def window (st : TsState) (failed : Bool := false) (a : ApplyJob := { cmd := c0, isRestore := false }) : State :=
  setIn { job opApply 0 (obj := 7) with phase := .running, began := true } { st := st, failed := failed, apply := some a }

theorem witness_windows : let g : Job := { job opGather 0 with phase := .running, began := true, epochs := [(7, 0)] }
    let k : Job := { job opScatter 0 (obj := 1) with scatter := some { tset := 7, group := true }, phase := .running, began := true }
    let d : Job := { job opSnapshot 0 (obj := 7) with promised := [7] }
    (window .pending).alive = true ∧ (window .pending).faultWait (.apply 7) = false ∧ ((window .pending).tset? 7).isSome = true ∧
      (window .pending).mayDrain 7 c0 = true ∧ ({ cmd := c0, isRestore := false } : ApplyJob).isRestore = false ∧
      (({ window .pending with jobs := [k] } : State).mayDrain 7 c0 = false) ∧
      ((window .draining).reading 7 = [] ∧ (window .draining).dueReaders 7 = []) ∧
      ({ window .draining with jobs := [g] } : State).reading 7 ≠ [] ∧ ({ window .draining with jobs := [d] } : State).dueReaders 7 ≠ [] := by decide

/-- A window whose work is done and acknowledged, one with a write not acknowledged, and one whose list is not read yet. -/
theorem witness_commits : let a : ApplyJob := { cmd := c0, isRestore := false, listed := true }
    let s := window .writing false a
    let u := s.runWindow 7
    let v (n : Nat) : State := { s with jobs := s.jobs.map fun j => { j with acks := n } }
    (∃ t, u.tset? 7 = some t ∧ t.apply = some a ∧ a.todo = [] ∧ a.work = [] ∧ t.st ≠ .torn) ∧ (u.job? c0).map (·.acks) = some 0 ∧
      (u.job? c0).map (·.outs) = some [] ∧ (((v 1).runWindow 7).job? c0).map (·.acks) = some 1 ∧
      ({ a with listed := false } : ApplyJob).listed = false ∧ ({ a with work := [] } : ApplyJob) = a :=
  ⟨⟨_, rfl, rfl, rfl, rfl, by decide⟩, rfl, rfl, rfl, rfl, rfl⟩

theorem witness_lists : let j := job opConfig subPromoList (leBytes 16 7)
    let u := (withJob j).begin c0
    u.isTorn 7 = false ∧ (setIn j { st := .torn }).isTorn 7 = true ∧ firstBroken [reservedRule j.block 2 2, reservedRule j.block 12 4] = none ∧
      gave (u.listBytes j).2 = true ∧ firstBroken ((List.range (field j.block 8 4)).map (u.entryRules 7 [])).flatten = none ∧
      (firstBroken [reservedRule (leBytes 16 (2 ^ 16)) 2 2, reservedRule (leBytes 16 (2 ^ 16)) 12 4]).isSome = true := by decide

theorem witness_poisoned : let p : PoisonedRow := { table := 1, row := 3, stateOnly := false, requestedAt := some 0 }
    let s : State := { up with poisoned := [p] }
    s.alive = true ∧ p ∈ s.poisoned ∧ p.table = 1 ∧ p.row = 3 ∧ p.requestedAt = some 0 ∧ p.bytes = none ∧ p.stuck = false ∧
      0 + 1000000 * s.restoreMs ≤ ({ s with time := 10 ^ 12 } : State).time ∧ (∀ q ∈ s.poisoned, q.table = 2 → q.row ≠ 3) := by decide

/-! ## Projections -/

/-- A block of one INTERACT stage of two vectors of 32 elements, which reads no weights (R348, R349). -/
def interBlock1 : List Byte := leBytes 1 1 ++ leBytes 31 0 ++ leBytes 1 1 ++ leBytes 7 0 ++ leBytes 8 (2 + 2 ^ 16 * 32) ++ leBytes 48 0

/-- A PROJECT of one sample at a point of its chain. -/
def projecting (p : ProjJob) (block : List Byte := interBlock1) : Job :=
  { job opProject 0 block (count := 1) with phase := .running, proj := some p, began := true }

/-- A layer that may start, one that its table set holds, and one whose set is torn. -/
theorem witness_project : let k := projecting {}
    let s (t : TsState) : State := { setIn k { st := t } with wsets := [(0, { bound := true, tset := 7 })] }
    ReadyOp (withJob (job opProject 0)) c0 (job opProject 0) opProject ∧ (job opProject 0).proj = none ∧ (s .opened).alive = true ∧ (s .opened).job? c0 = some k ∧
      (s .opened).faultWait (.job c0) = false ∧ k.proj = some {} ∧ ({} : ProjJob).inLayer = false ∧ k.outs = [] ∧ (s .opened).gate k = .go ∧
      (∃ g, k.chain[0]? = some g ∧ g.func = 1 ∧ went ((preload k ((s .opened).newLayer k {} none) g).whole (s .opened)).2 = true) ∧
      (s .draining).gate k = .held ∧ (s .torn).gate k = .torn := by
  refine ⟨by unfold ReadyOp Ready; decide, rfl, rfl, rfl, rfl, rfl, rfl, rfl, by decide, ⟨_, rfl, rfl, rfl⟩, by decide, by decide⟩

/-- Its one tile on array 0, of a sample that was not encoded: without an event, and with a reload that fails. -/
theorem witness_tile : let p : ProjJob := { inLayer := true, dead := [0] }
    let k := projecting p
    let s : State := { withJob k with feeder := { deals := [⟨.cmd c0, [0], []⟩] } }
    s.alive = true ∧ s.job? c0 = some k ∧ s.faultWait (.job c0) = false ∧ k.proj = some p ∧
      s.deal? (.cmd c0) = some ⟨.cmd c0, [0], []⟩ ∧ (∀ es ∈ [[], [ArrayEvent.bufUe 0 true]], eventsFit [0] es = true) ∧
      reloadFails [] = false ∧ reloadFails [.bufUe 0 true] = true ∧ k.tileRows p 1 = [(0, 0)] ∧
      (∃ g, k.chain[p.layer]? = some g ∧ ∀ es ∈ [[], [ArrayEvent.bufUe 0 true]], went ((tileWork k p g [(0, 0)] [0] 0).whole (s.loseTiles (k.tag p) es)).2 = true) := by
  refine ⟨rfl, rfl, rfl, rfl, rfl, by decide, rfl, rfl, by decide, ⟨_, rfl, by decide +kernel⟩⟩

/-- A row of an LR table whose coefficients have arrived, its basis tile in array 0's buffer. -/
theorem witness_lr : let f : Fetch :=
      { id := 0, ref := { src := ⟨c0, 0, 1⟩, bag := 0, pos := 0, table := some 1, row := 3, weight := 0, valid := true }, copy := .cold, va := 0, size := 4
        sectors := [(0, .data 0)] }
    let d : TableDesc := { table := 1, rows := 10, elems := 1, lrBasis := 2 }
    let w : WeightSet := { k := 1, n := 1 }
    let x : LrTile := { table := 1, rows := [(26, 0)] }
    let a : ArrayUnit := { halves := #v[{ tag := some ⟨none, 2⟩, tiles := [(0, zeros 128)] }, {}] }
    let s : State := { onStream .stop {} with
      tables := [(1, { desc := d })], wsets := [(2, w)], streams := [(26, { st := .running, item := some 0, fetches := [f] })]
      arrays := up.arrays.set 0 a, feeder := { deals := [⟨.lr, [0], []⟩], lr := some x } }
    s.alive = true ∧ s.deal? .lr = some ⟨.lr, [0], []⟩ ∧ s.feeder.lr = some x ∧ (s.lrRows x).map (fun e => (e.1, e.2.1.id)) = [(26, 0)] ∧
      (s.table? 1).map (·.desc.lrBasis) = some 2 ∧ s.wset? 2 = some w ∧
      went ((lrWork c0 d w [zeros 4] [0] 0).whole (s.loseTiles ⟨none, 2⟩ [])).2 = true ∧ s.lrTiles 1 ≤ 0 + 1 := by
  decide +kernel

/-- One user of the arrays, with a tile that needs one of the four. -/
theorem witness_deal_tiles : let s : State := { up with tables := [(1, { desc := { table := 1, rows := 10, elems := 1 } })], feeder := { lrQueue := [(26, 0, 1)] } }
    s.feeder.deals = [] ∧ s.tileUsers = [(0, .lr, { need := 1 })] := by decide

theorem witness_tiles : Written up 0xA0100 (.cc 0) ∧ (0xFFFFFF0F#32 &&& 0xF0 = 0) ∧ (0x10#32 &&& 0xF0 ≠ 0) := by
  unfold Written; decide

/-! ## Work items and slices -/

/-- An engine with an item in the intake, and slices as given. -/
def dealing (sl : Sparse Slice) : State := { up with items := [{ id := 0, cmd := c0, firstBag := 0, bags := 1 }], slices := sl, rr := 15 }

theorem witness_deal : let w : WorkItem := { id := 0, cmd := c0, firstBag := 0, bags := 1 }
    let s := { dealing ((List.range 16).map fun i => (i, { flagged := decide (i ≠ 2), dispatch := List.replicate 7 9 })) with jobs := [gatherJob] }
    let full := dealing ((List.range 16).map fun i => (i, { dispatch := List.replicate 8 9 }))
    s.items.find? (fun w => w.place == .intake && s.mayDeal w.cmd) = some w ∧ s.job? c0 = some gatherJob ∧ s.nextSets gatherJob = none ∧
      ((s.slice 2).lost = false ∧ (s.slice 2).flagged = false ∧ (s.slice 2).dispatch.length < 8) ∧ (∀ m < 16, (s.slice m).flagged = false → m = 2) ∧
      ((full.slice 15).lost = false ∧ (full.slice 15).flagged = false ∧ ∀ m < 16, 8 ≤ (full.slice m).dispatch.length) := by decide

theorem witness_start : let s : State := { dealing [(3, { dispatch := [0] })] with jobs := [gatherJob], images := [(0, {})] }
    (s.slice st0.slice).dispatch = [0] ∧ s.streamFree st0.key = true ∧ (onStream .stop {}).streamFree st0.key = false ∧ (s.item? 0).isSome = true ∧
      s.job? c0 = some gatherJob ∧ s.image? (pktHandle gatherJob.pkt) = some {} := by decide

theorem witness_steal : let s := dealing [(3, { dispatch := [0, 1] }), (5, { dispatch := [2, 3] })]
    (s.slice 3).dispatch = 0 :: [1] ∧ (∀ m < 16, (s.slice m).dispatch.length ≤ 2) ∧ (∀ m < 3, (s.slice m).dispatch.length < 2) ∧ (s.slice 0).lost = false ∧
      (s.slice 0).dispatch = [] ∧ ∃ m < 8, s.streamFree (8 * 0 + m) = true := by decide

theorem witness_migrate : let s (x : Slice) : State := { onStream .stop {} with slices := [(3, x)] }
    let w : WorkItem := { id := 0, cmd := c0, firstBag := 0, bags := 2, place := .running 26 }
    (s {}).item? 0 = some w ∧ w.place = .running 26 ∧ (s { lost := true }).mayMigrate w 26 = true ∧ (s { flagged := true }).mayMigrate w 26 = true ∧
      (s {}).mayMigrate w 26 = false ∧ ((s { lost := true }).slice (26 / 8)).lost = true ∧ ((s {}).slice 0).lost = false ∧
      ((s {}).slice 0).dispatch.length < 8 := by decide

theorem witness_rates : up.rateAt / 1000 < up.time / 1000 ∧ State.reset.time / 1000 ≤ State.reset.rateAt / 1000 ∧
    (let x : Slice := { rate := 4, below := 99, above := 0 }
     x.below ≤ 100 ∧ x.above ≤ 100 ∧ 2 * x.rate < 9 ∧ 8 ≤ 2 * x.rate ∧ 99 ≤ x.below) := by decide

/-! ## References, rows and misses -/

theorem witness_references : let src : Src := ⟨c0, 0, 1⟩
    let r : RowRef := { src := src, bag := 0, pos := 0, table := some 1, row := 9, weight := 0x3F800000, valid := true }
    let s (q : List QItem) : State := { onStream .stop {} q with tables := [(1, { desc := { table := 1, rows := 10 } })] }
    (s []).alive = true ∧ ((onStream .stop {} [] 0 true).stream 26).faulted = true ∧ (((s []).stream 26).faulted = false) ∧ ((s []).slice (26 / 8)).lost = false ∧
      ((s []).stream 26).fetches = [] ∧ ((s [.bagEnd src 0]).stream 26).queue = [.bagEnd src 0] ∧ (s [.bagEnd src 0]).bagClosed c0 0 = false ∧
      ((s [.ref r]).stream 26).queue = [.ref r] ∧ (r.table.bind (s []).table?).map (·.desc.rows) = some 10 ∧ r.row < 10 ∧
      ({ r with valid := false } : RowRef).valid = false ∧ 10 ≤ ({ r with row := 10 } : RowRef).row := by decide

/-- A fetch of row 3, its one sector arrived, sound or not. -/
def fetched (sec : SectorState) (copy : Copy := .cold) : State :=
  { onStream .stop {} with
    tables := [(1, { desc := { table := 1, rows := 10, elems := 1 } })]
    streams := [(26, { st := .running, item := some 0
                       fetches := [{ id := 0, ref := { src := ⟨c0, 0, 1⟩, bag := 0, pos := 0, table := some 1, row := 3, weight := 0, valid := true }
                                     copy := copy, va := 0, size := 4, sectors := [(0, sec)] }] })] }

theorem witness_rows : ∀ copy ∈ [Copy.cold, Copy.warm 0],
    let f := fun sec => ((fetched sec copy).stream st0.key).fetches.find? (·.arrived)
    ((f (.data 0)).bind fun f => f.bytes f.va f.size) = some [0, 0, 0, 0] ∧ (f .bad).isSome = true ∧ ((f .bad).bind fun f => f.bytes f.va f.size) = none ∧
      (f (.data 0)).map (·.side) = some none ∧ (fetched (.data 0)).isPoisoned 1 3 = false ∧ ((fetched (.data 0)).table? 1).isSome = true ∧
      ({ fetched (.data 0) with poisoned := [{ table := 1, row := 3, stateOnly := false }] } : State).isPoisoned 1 3 = true ∧
      ({ table := 1, rows := 10, elems := 1 } : TableDesc).fmtOf copy ≠ fcLR := by decide +kernel

/-- A side entry that cannot be read, and a row of an LR table. -/
theorem witness_side_and_lr : let f : Fetch :=
      { id := 0, ref := { src := ⟨c0, 0, 1⟩, bag := 0, pos := 0, table := some 1, row := 3, weight := 0, valid := true }, copy := .cold, va := 0, size := 4
        side := some 64, sectors := [(0, .data 0), (1, .bad)] }
    f.arrived = true ∧ f.side.map (fun va => f.bytes va 16) = some none ∧ (f.bytes f.va f.size).isSome = true ∧
      ({ table := 1, rows := 10, elems := 1, fmtCold := fcLR } : TableDesc).fmtOf .cold = fcLR ∧ (fetched (.data 0)).inFeeder 26 0 = false := by decide

/-- A stream's sort window, its issue list, or a halt. -/
def missing (x : Stream) : State := { up with streams := [(26, x)] }

theorem witness_windows_age : let m : MissReq := { line := 0, lo := 0, hi := 0, ctx := 1, cmdCtx := 1, cmd := c0 }
    let s := missing { window := [m], windowAt := 999999900, windowAge := 100 }
    let h := missing { st := .halted }
    ((s.stream st0.key).window ≠ [] ∧ (s.stream st0.key).windowAt + (s.stream st0.key).windowAge ≤ s.time) ∧
      ((h.stream st0.key).st = .halted ∧ (h.stream st0.key).faulted = false ∧ h.streamWaits st0.key = false ∧ (h.stream st0.key).queue = []) ∧
      (s.stream st0.key).st ≠ .halted := by decide

/-- The front request of a stream, to a line of the pool and to one of expander 0, as its port stands. -/
theorem witness_misses : let r (line : Nat) : MissReq := { line := line, lo := 0, hi := 3, ctx := 1, cmdCtx := 1, cmd := c0 }
    let cap := 2 ^ 44
    let s (line : Nat) (port : Nat := 1) (wc : List WcEntry := []) : State := { withJob (job opNop 0) (missing { issue := [r line] }) with
      regs := [(0x90000, 0x80000001)], cap := up.cap.set 0 { st := port }, wc := wc }
    let e : WcEntry := { line := 0, mask := 1, data := 0, born := 0 }
    let gone : WcEntry := { e with draining := true }
    (s 0).alive = true ∧ ((s 0).stream st0.key).issue = r 0 :: [] ∧ (s 0).targetOf 0 = .channel 0 ∧ (s cap).targetOf cap = .capacity 0 ∧
      (s 0).sliceTags (st0.key / 8) < 2048 ∧ ((s 0).wc.any (·.waits 0)) = false ∧ (((s 0 1 [e]).wc.any (·.waits 0)) = true) ∧
      (((s 0 1 [gone]).wc.any (·.waits 0)) = false ∧ ((s 0 1 [gone]).wc.any fun x => x.line == 0) = true) ∧
      ((s 0).wc.any fun x => x.line == 0) = false ∧ (s 0).onLostPort (localOf 0) = false ∧
      (s cap 2).onLostPort (localOf cap) = true ∧ ((s cap).onLostPort (localOf cap) = false ∧ (s cap).portTakes 0 = true) ∧
      ((s cap 0).onLostPort (localOf cap) = false ∧ (s cap 0).portTakes 0 = false) ∧ (s 0).mayIssue 1 0 256 false = true := by decide

/-- All 2,048 read tags of slice 3 are taken. -/
theorem witness_no_tag : let m : MemReq := { tag := 0, slice := 3, stream := 26, line := 0, lo := 0, hi := 0, target := .channel 0, ctx := 1, cmdCtx := 1, cmd := c0 }
    ∀ ms : List MemReq, ms = List.replicate 2048 m → ¬({ up with memReqs := ms } : State).sliceTags 3 < 2048 := by
  rintro _ _ rfl
  decide +kernel

theorem witness_tokens : let s (tok : Nat) : State := { up with regu := [(4, 0x80000000)], tokens := [(1, { tok := Vector.replicate 4 tok })] }
    (s 256).mayIssue 1 0 256 false = true ∧ (s 255).mayIssue 1 0 256 false = false := by decide

/-! ## Walks and faults -/

/-- Context 1 with segment 0 rooted at 4096, a walk of its page 0 in progress, and memory as given. -/
def walking (m : List Host.Cell) : State :=
  { up with
    mem := m, contexts := [(1, { ctx1 with segs := ctx1.segs.set 0 { size := 2 ^ 21, root := 4096, valid := true } })]
    walks := [{ ctx := 1, seg := 0, page := 0, write := false, va := 0, joiners := [] }] }

theorem witness_walks : let s := walking []
    let x : Walk := { ctx := 1, seg := 0, page := 0, write := false, va := 0, joiners := [] }
    s.alive = true ∧ (s.walks.take 64).find? (fun x => x.ctx == 1 && x.seg == (0 : Fin 16).val && x.page == 0) = some x ∧
      ({ s with contexts := [] } : State).segOf 1 0 = none ∧
      s.segOf 1 0 = some (0, { size := 2 ^ 21, root := 4096, valid := true }) ∧
      (s.walk 0 { size := 2 ^ 21, root := 4096, valid := true } 0 false).2 = none := by decide +kernel

/-- A page of 2 MiB at 2 MiB, in the one level of its table. -/
theorem witness_walk_leaf : let s := walking [(4096, 1), (4098, 0x20)]
    (s.walk 0 { size := 2 ^ 21, root := 4096, valid := true } 0 false).2 ≠ none := by decide +kernel

/-- A fault slot. -/
def fault1 : FaultSlot :=
  { slot := 1023, reuse := 0, typ := 1, source := 2, ctx := 1, seg := 0, page := 0, va := 0, write := false, time := 0, gen := 0, whereIs := 0, pa := 0, count := 0
    cmdSeq := 0, joiners := [] }

theorem witness_faults : let s (tail : Nat) : State := { up with regs := [(0x40008, 0x80000004)], faults := [fault1], sqTail := tail }
    let p : FaultSlot := { fault1 with posted := some (0, 1000) }
    ((s 14).alive = true ∧ (s 14).sqEn = true ∧ (s 14).sqFull = false ∧ ((s 14).faults.find? fun (f : FaultSlot) => f.slot == 1023 && f.posted == none) = some fault1) ∧
      (s 15).sqFull = true ∧ up.sqEn = false ∧
      ((Written { up with notifyPending := true } 0x4001C (.cc 3)) ∧ up.sqTail = up.notifiedTail ∧ (s 15).sqTail ≠ (s 15).notifiedTail) ∧
      (Written up 0x40014 (.pkg) ∧ (3 : BitVec 2) = 3 ∧ (0 : BitVec 2) ≠ 3 ∧ up.outstanding 1023 = none ∧
        ({ up with faults := [p] } : State).outstanding 1023 = some p) ∧
      (({ up with faults := [p] } : State).faults.find? fun (f : FaultSlot) => f.slot == 1023 && f.late up.time) = some p := by
  unfold Written; decide +kernel

/-! ## The row cache and memory -/

/-- A request of slice 3 for sector 0 of the line at 0. -/
def creq : CacheReq := { line := 0, cls := 8, ctx := 1, cmdCtx := 1, wattr := 0, shared := false, who := { stream := 26, fetch := 0, mask := 1, vline := 0 } }

/-- An engine with that request waiting, and a way of the line's set as given. -/
def caching (ws : Sparse Way) : State := { up with slices := [(3, { reqs := [creq] })], rc := { up.rc with ways := ws } }

theorem witness_cache : let set := setOf (lineNo (localOf 0))
    let s := caching []
    let hit := caching [(16 * set + 15, { cls := 8, sv := 1, tag := tagOf (lineNo (localOf 0)) })]
    let part := caching [(16 * set + 15, { cls := 8, sv := 2, tag := tagOf (lineNo (localOf 0)) })]
    let past (s : State) := s.updSlice 3 fun x => { x with reqs := x.reqs.erase creq }
    let y := ((past s).countReq creq false)
    let full := y.noWays set (y.classMask 8)
    s.alive = true ∧ s.headReq 3 = some creq ∧ (State.reset.boot.coreLocked = false ∧ s.boot.coreLocked = true) ∧ s.itsTurn 3 (s.reqBank creq) = true ∧
      (hit.lookup 0 = some 15 ∧ (hit.way set 15).missing creq.who.mask = 0) ∧
      (part.lookup 0 = some 15 ∧ (part.way set 15).missing creq.who.mask ≠ 0 ∧ part.wayOut set 15 = false) ∧
      (s.lookup 0 = none ∧ full = false ∧ y.goesDirect creq = false ∧ (y.victim set (y.classMask 8)).2.isSome = true) ∧
      y.goesDirect { creq with wattr := 2 } = true := by decide +kernel

/-- A request of slice 4 waits at the same bank, whose last grant was slice 3's. -/
theorem witness_turns : let s : State := { up with slices := [(3, { reqs := [creq] }), (4, { reqs := [creq] })], rc := { up.rc with grant := [((caching []).reqBank creq, 3)] } }
    s.headReq 3 = some creq ∧ s.itsTurn 3 (s.reqBank creq) = false ∧ s.itsTurn 4 (s.reqBank creq) = true := by decide +kernel

theorem witness_map_out : up.rc.blocked = [] ∧ up.bankWays 63 = [] ∧ bitOf up.rc.out.toNat 63 = false := by decide

theorem witness_banks : bitOf ({ up.rc with out := 0x8000000000000000 } : RowCache).out.toNat 63 = true ∧ bitOf up.rc.out.toNat 63 = false ∧
    Written up 0x2001C (.cc 0) ∧ ({ up.rc with passes := [63] } : RowCache).passes.contains 63 = true ∧ up.rc.passes.contains 63 = false ∧
    Written up 0x20000 (.cc 0) := by
  unfold Written; decide

theorem witness_snoops : let s := caching []
    let hit := caching [(16 * setOf (lineNo (localOf 0)) + 15, { cls := 8, sv := 1, sd := 1, tag := tagOf (lineNo (localOf 0)) })]
    let busy : State := { s with rc := { s.rc with fills := [{ line := 0, way := some 3, need := 1 }] } }
    let reg : Registration := { line := 0, waiters := [] }
    busy.fillPending 0 = true ∧ (s.fillPending 0 = false ∧ s.lookup (localOf 0) = none ∧ (s.wc.any (·.waits 0)) = false) ∧
      (hit.fillPending 0 = false ∧ hit.lookup (localOf 0) = some 15 ∧ (hit.snoopClean 0).lookup (localOf 0) = some 15) ∧
      ([reg].find? (·.line == 0) = some reg) ∧
      State.reset.time < sget 0 State.reset.rc.patrolAt 0 + ({ State.reset with regs := [(0x2002C, 1)] } : State).patrolNs := by decide +kernel

/-- The patrol's next sector, in a valid line. -/
theorem witness_patrol : let p : State := { up with regs := [(0x2002C, 1)], rc := { up.rc with ways := [(16 * setInGroup 0 0, { cls := 8, sv := 1 })] } }
    p.patrolNs ≠ 0 ∧ p.boot.coreLocked = true ∧ p.rc.scrubbing = false ∧ bitOf p.rc.out.toNat 0 = false ∧ sget 0 p.rc.patrolAt 0 + p.patrolNs ≤ p.time ∧
      (∀ b, (sget [] p.rc.ueTimes b).length < 16) ∧ (p.way (setInGroup 0 0) 0).invalid = false :=
  ⟨by decide, rfl, rfl, by decide, by decide, fun _ => Nat.zero_lt_succ _, by decide⟩

/-- A read of four sectors of the pool and of expander 0, a waiting write of line 256, and what is due for a refill. -/
theorem witness_memory : let m (line : Nat) (t : Target) : MemReq :=
      { tag := 5, slice := 0, stream := 0, line := line, lo := 0, hi := 3, target := t, ctx := 1, cmdCtx := 1, cmd := c0 }
    let e : WcEntry := { line := 256, mask := 1, data := 0, born := 0 }
    let s (m : MemReq) : State := { up with memReqs := [m] }
    (∀ x ∈ [m 0 (.channel 31), m (2 ^ 44) (.capacity 0)], (s x).memReqs.find? (·.tag == 5) = some x ∧
        ∀ k < 4, ((s x).memSector (localOf x.line + 64 * k)).isSome = true) ∧
      up.memReqs.find? (·.tag == 5) = none ∧ (up.wcAck 256).targetOf 256 = .channel 0 ∧
      (e.waits 256 = true ∧ isPoolLine 256 = true ∧ e.born + up.wcAgeNs ≤ up.time) ∧
      State.reset.time < e.born + State.reset.wcAgeNs ∧ up.refillAt + 10 ≤ up.time ∧ State.reset.time < State.reset.refillAt + 10 := by decide

theorem witness_capacity : let s (x : CapPort) : State := { up with cap := up.cap.set 7 x }
    ((s {}).boot.memLocked = true ∧ ((s {}).cap.get 7).noPll = false ∧ ((s {}).cap.get 7).st = 0) ∧ ((s { st := 2 }).cap.get 7).st ≠ 0 ∧
      (((s { limit := 511, lightSince := some 999990000 }).cap.get 7).lightSince = some 999990000 ∧ 999990000 + 10000 ≤ up.time ∧ 511 < 512) ∧
      ((s {}).cap.get 7).lightSince = none ∧
      (((s { st := 1 }).cap.get 7).st = 1 ∧ ((s { st := 1 }).wc = [] ∧ (s { st := 1 }).memReqs = [])) ∧ up.decayMs ≠ 0 ∧ up.decayAt + 1000000 * up.decayMs ≤ up.time ∧
      State.reset.time < State.reset.decayAt + 1000000 * State.reset.decayMs ∧ up.hotEn = false ∧
      (let h : State := { up with regs := [(0x90088, 0x00018000)] }
       h.hotEn = true ∧ h.decayMs ≠ 0 ∧ h.decayAt + 1000000 * h.decayMs ≤ h.time) := by decide

theorem witness_thermal : let s (x : Stack) : State := { up with hbm := up.hbm.set 15 x }
    (∀ t : BitVec 8, t = 105 → ¬105 < t.toNat ∧ 95 < t.toNat) ∧
      (((s { level := 1, belowSince := some 999900000 }).hbm.get 15).belowSince = some 999900000 ∧ 999900000 + 100000 ≤ up.time ∧
        ((s { level := 1 }).hbm.get 15).lost = false ∧ ((s { level := 1 }).hbm.get 15).level ≠ 0) ∧ ((s {}).hbm.get 15).belowSince = none ∧
      (((s {}).hbm.get 15).lost = false ∧ up.boot.poolReady = true ∧ ((s {}).hbm.get 15).lastReport + 100000 ≤ up.time) ∧
      up.time < ((s { lastReport := 999900001 }).hbm.get 15).lastReport + 100000 := by decide

theorem witness_mailbox : Written up 0x90090 .pkg ∧ ({ busy := true } : CfgBox).busy = true ∧ up.cfg.busy = false ∧ bitOf (0#32).toNat 31 = false ∧
    (let v := 0x80380000#32
     bitsOf v.toNat 21 19 = 7 ∧ bitOf v.toNat 31 = true ∧ bitOf v.toNat 18 = false ∧ (up.cap.set 7 { st := 1 })[7].st = 1 ∧ up.cap[7].st ≠ 1) ∧
    ((2 : BitVec 3).toNat < 4 ∧ (2 : BitVec 3) ≠ 3 ∧ up.cfgSentAt + 50000000 ≤ up.time) := by
  unfold Written; decide

/-! ## Losses and recovery -/

theorem witness_probes : up.boot.coreLocked = true ∧ State.reset.boot.coreLocked = false ∧ ({ up with slices := [(15, { lost := true })] } : State).slice 15 = { lost := true } ∧
    (up.slice 15).lost = false ∧ (up.slice 15).missedProbes = 0 ∧ 1 ≤ (({ up with slices := [(15, { missedProbes := 1 })] } : State).slice 15).missedProbes := by decide

theorem witness_cores : let taking : State := { up with err := { awaiting := [(0, 999986000, 3)] } }
    up.alive = true ∧ up.boot.ccReleased = true ∧ bitOf up.err.lostCc.toNat 3 = false ∧ up.err.beatCc.get 3 + up.ccUs * 1000 ≤ up.time ∧
      ¬((up.err.awaiting.any fun e => e.2.2 == 3) = true) ∧ ((taking.err.awaiting.any fun e => e.2.2 == 3) = true) ∧
      ¬(State.reset.err.beatCc.get 3 + State.reset.ccUs * 1000 ≤ State.reset.time) ∧
      ((0, 999986000, 3) ∈ taking.err.awaiting ∧ 999986000 + 14000 ≤ taking.time) ∧ (∀ e ∈ up.err.awaiting, e.1 ≠ 3) ∧
      Written up (0xE0024 + 4 * 3) (.cc 3) ∧ Written up 0xE0020 .plinth ∧
      ({ up with err := { up.err with lostCc := 8 } } : State).liveCores ≠ [] ∧ ({ up with err := { up.err with lostCc := 15 } } : State).liveCores = [] := by
  unfold Written; decide

theorem witness_losses : up.boot.plinth.isSome = true ∧ up.err.beatPlinth + up.plinthUs * 1000 ≤ up.time ∧
    State.reset.time < State.reset.err.beatPlinth + State.reset.plinthUs * 1000 ∧ Written up 0xE0050 .plinth ∧
    up.err.fenced = false ∧ fenced.err.fenced = true ∧ fenced.boot.held = false ∧ fenced.err.cleanDone = false := by
  unfold Written; decide

theorem witness_isolation : up.alive = true ∧ up.cutOff = false ∧ ({ up with fab := { up.fab with st := .serving, lastUp := some 0 }, time := 10 ^ 12 } : State).cutOff = true := by decide

/-! ## The fabric -/

/-- An engine that has joined under manager 5 as node 9. -/
def joined (j : Job := job opNop 0) : State :=
  { withJob j with
    fab := { st := .serving, hasJoined := true, assigned := true, node := 9, mgr := 5, routes := [(5, { routes := [{ valid := true, bytes := [0] }] })] }
    contexts := [(1, ctx1), (4095, ctx1)] }

theorem witness_fabric_config : let b : List Byte := leBytes 2 9 ++ leBytes 2 0x3FFF ++ leBytes 4 0
    (setIn (job opConfig 0x14 (leBytes 16 7)) { st := .torn }).isTorn 7 = true ∧ (setIn (job opConfig 0x14 (leBytes 16 7)) {}).isTorn 7 = false ∧ firstBroken [nodeRule b 0, nodeRule b 2, reservedRule b 4 4] = none ∧ ((withJob (job opConfig 0x10 b)).begin c0).joined = false ∧
      ((joined (job opConfig 0x10 b)).begin c0).joined = true ∧
      (let r : List Byte := leBytes 8 0x3FFF ++ leBytes 8 0x86 ++ leBytes 24 0
       firstBroken ([nodeRule r 0, reservedRule r 2 6] ++ ([8, 16, 24, 32].map (routeRules r)).flatten) = none) ∧
      firstBroken [nodeRule (leBytes 8 5) 0, reservedRule (leBytes 8 5) 2 6] = none ∧
      (let h : List Byte := leBytes 2 7 ++ leBytes 2 0x3FFF ++ leBytes 12 0
       field h 2 2 < 2 ^ 14 ∧ zeroRange h 4 4 = true ∧ field (leBytes 2 7 ++ leBytes 2 0xFFFF ++ leBytes 12 0 : List Byte) 2 2 = 0xFFFF) ∧
      (let p (a : Nat) : List Byte := leBytes 1 7 ++ leBytes 1 a ++ leBytes 6 0
       field (p 3) 0 1 = (7 : Fin 8).val ∧ zeroRange (p 3) 2 6 = true ∧ ∀ a < 4, field (p a) 1 1 = a) := by decide

theorem witness_join : let b : List Byte := leBytes 2 5 ++ leBytes 2 1 ++ leBytes 2 1000 ++ leBytes 2 1 ++ leBytes 8 0
    let u := (joined (job opJoin 0 b)).begin c0
    let v : State := { u with fab := { u.fab with st := .configuring } }
    firstBroken (joinRules b) = none ∧ (v.fab.assigned = true ∧ v.fab.st ≠ .serving ∧ v.hasRoute (field b 0 2) = true ∧ (v.context? 4095).isSome = true) ∧
      u.fab.st = .serving ∧ ((withJob (job opJoin 0 b)).begin c0).fab.assigned = false := by decide

/-- A DRAIN at its start, waiting for a gather accepted before it, with nothing left, and at its deadline. -/
theorem witness_drain : let j := job opDrain 0 (leBytes 2 1 ++ leBytes 14 0)
    let k : Job := { job opGather 0 with id := ⟨1, 1, 0⟩, phase := .running, began := true }
    let d : Job := { j with order := 1, phase := .waiting, began := true }
    let s (ks : List Job) : State := { joined j with jobs := ks ++ [d], fab := { up.fab with drain := some c0, drainAt := 1000000000, drainFor := [⟨1, 1, 0⟩] } }
    (1 ≤ field j.block 0 2 ∧ zeroRange j.block 2 14 = true) ∧
      ((s [k]).job? c0 = some d ∧ pktOpcode d.pkt = opDrain ∧ d.parsed = true ∧ (s [k]).faultWait (.job c0) = false ∧
        ((s [k]).jobs.any fun k' => (s [k]).fab.drainFor.contains k'.id) = true) ∧
      (((s []).jobs.any fun k' => (s []).fab.drainFor.contains k'.id) = false ∧ (s []).fab.drainOut = [] ∧ d.acks = 0 ∧ (s []).fab.drainCur = none ∧
        (s []).fab.drainLeft = []) ∧
      ((s []).alive = true ∧ (s []).fab.drain.isSome = true ∧ (s []).fab.drainAt ≤ (s []).time ∧ (s []).drainWaits = []) ∧ (s [k]).drainWaits = [k] ∧
      up.fab.drain = none := by decide

/-- Port 7 in a state. -/
def portIn (x : Port) (s : State := joined) : State := { s with fab := { s.fab with ports := s.fab.ports.set 7 x } }

theorem witness_port_states : let x (st : PortState) (lost : BitVec 4 := 0) (since : Nat := 999988000) : Port := { st := st, lostLanes := lost, since := since }
    ((portIn (x .down)).boot.memLocked = true ∧ ((portIn (x .down)).fport 7).st = .down ∧ ((portIn (x .down)).fport 7).en = true ∧ ((portIn (x .down)).fport 7).noPll = false) ∧
      (∀ st ∈ [PortState.training, .discovery, .up, .realign, .degraded, .held], ((portIn (x st)).fport 7).st = st) ∧ (0x8 : BitVec 4) ≠ 0 ∧
      lowPairLost 0x1 = true ∧ highPairLost 0x8 = true ∧ (if (x .degraded).pair then highPairLost 1 else lowPairLost 1) = true ∧
      (lowPairLost 0x8 = false ∧ (portIn (x .realign 8)).time ≤ 999988000 + 12000 ∧ 999988000 + 12000 ≤ (portIn (x .realign 8)).time) ∧
      (lowPairLost 0x9 = true ∧ highPairLost 0x9 = true) ∧ Written (portIn (x .held)) (0x80140 + 4 * 7) (.cc 0) := by
  unfold Written; decide

theorem witness_link_timers : let s (x : Port) : State := portIn x
    (((s { st := .up, lastTx := 999999500 }).fport 7).talks = true ∧ 999999500 + 500 ≤ (joined).time) ∧ (({} : Port).talks = false) ∧
      (({ st := .discovery, lastHello := 999000000 } : Port).st = .discovery ∧ 999000000 + 1000000 ≤ (joined).time) ∧
      ({ st := .up, lastHello := 999000001 } : Port).lastHello + 1000000 > (joined).time ∧
      (let c : Port := { st := .up, freed := #v[256, 0, 0, 0, 0, 0, 0, 0], lastCredit := 1000000000 }
       0 < c.owed ∧ 256 ≤ c.owed) ∧ ({} : Port).owed = 0 ∧ (up.isReady = true ∧ up.fab.assigned = false ∧ up.fab.lastJoinReq + 10000000 ≤ up.time) ∧
      (joined).fab.assigned = true := by decide

/-- A frame of a type for this engine, in its turn on port 7. -/
def frame (typ : Nat) (payload : List Byte := []) : Frame := { typ := typ, dst := 9, src := 5, payload := payload, len := payload.length }

theorem witness_arrivals : ∀ typ ∈ [ftCmd, ftStatus, ftRdReq, ftRdResp, ftWrReq, ftWrAck, ftUnreachable, ftJoinReq, ftRegRd, ftRegWr, ftRegResp, ftLoss],
    let s := portIn { st := .up }
    Arrives s 7 (frame typ) typ ∧ s.isMine (frame typ) = true ∧
      (s.isMine { frame typ with dst := 8, hops := 1 } = false ∧ ({ frame typ with hops := 1 } : Frame).hopIdx < 1 ∧ s.joined = true ∧
        (portIn { st := .up } up).joined = false ∧ (frame typ).hops ≤ (frame typ).hopIdx) ∧
      (0 < seqAhead 32767 (s.fport 7).rxSeq ∧ seqAhead 32767 (s.fport 7).rxSeq < 2 ^ 15 ∧ 2 ^ 15 ≤ seqAhead 32768 (s.fport 7).rxSeq) ∧
      ({ frame typ with etype := 0 } : Frame).etype ≠ s.etherType ∧ ({ frame typ with ver := 2 } : Frame).ver ≠ 1 := by
  unfold Arrives; decide

theorem witness_link_frames : ∀ typ ∈ [ftCredit, ftAck, ftHello], LinkArrives (portIn { st := .up }) 7 (frame typ) typ ∧ LinkArrives (portIn { st := .discovery }) 7 (frame typ) typ := by
  unfold LinkArrives; decide

/-- A fabric queue that is being deleted, and one that holds SEQ 0 already. -/
theorem witness_fabric_queues : let p := packet opNop 0
    let q : FabQueue := { ctx := 1, queue := 0, next := 0, deleting := true }
    let r : FabQueue := { q with deleting := false, buffer := [(0, p, { port := 0, node := 5, back := [], direct := false })] }
    let s (q : FabQueue) : State := { portIn { st := .up } with fabqs := [q] }
    (∀ x ∈ [q, r], (s x).fabqs.find? (fun x => x.ctx == pktCtx p && x.queue == pktQueue p) = some x) ∧ q.deleting = true ∧ r.deleting = false ∧
      (r.buffer.any fun e => e.1 == pktSeq p) = true := by decide

theorem witness_commands : let s := portIn { st := .up }
    let p := packet opNop 0
    s.isReady = true ∧ s.cmdAllowed (frame ftCmd) = true ∧ (portIn { st := .up } up).cmdAllowed (frame ftCmd) = false ∧ 64 ≤ p.length ∧ ([] : List Byte).length < 64 ∧
      (let q : FabQueue := { ctx := 1, queue := 0, next := 0 }
       [q].find? (fun x => x.ctx == pktCtx p && x.queue == pktQueue p) = some q ∧ q.deleting = false ∧ (pktSeq p + 2 ^ 32 - q.next) % 2 ^ 32 < 64 ∧
         (q.buffer.any fun e => e.1 == pktSeq p) = false ∧ 64 ≤ (pktSeq p + 2 ^ 32 - 1) % 2 ^ 32) ∧
      s.fabqs.find? (fun x => x.ctx == pktCtx p && x.queue == pktQueue p) = none := by decide

/-- Requests to other engines without their answers. -/
def asking (write : Bool) : RemoteReq := { tag := 3, node := 5, addr := 256, len := 256, isWrite := write, sentAt := 0, cmd := c0, mem := none }

theorem witness_remote : let s := portIn { st := .up }
    let f : Frame := { frame ftRdReq with addr := 2 ^ 50 * 5, len := 256 }
    let a : State := { s with fab := { s.fab with remote := [asking false, asking true] } }
    let r : Frame := { frame ftRdResp (zeros 256) with tag := 3, addr := 256 }
    (s.joined = true ∧ s.isLocal f.addr = false ∧ (portIn { st := .up } up).joined = false) ∧
      (a.requestOf r false = some (asking false) ∧ r.rstat = 0 ∧ r.payload.length = (asking false).len ∧ (asking false).mem = none) ∧
      s.requestOf r false = none ∧ a.requestOf r true = some (asking true) ∧
      (a.fab.remote.find? fun r => r.tag == 3 && decide (r.sentAt + a.rtmoUs * 1000 ≤ a.time)) = some (asking false) := by decide +kernel

/-- An access by CTX 0, the engine firmware of the source (R309). -/
theorem witness_granted : let s := portIn { st := .up }
    let f : Frame := { frame ftRdReq with addr := 9 * 2 ^ 50, len := 256, ctx := 0 }
    s.remoteStatus f 256 false = 0 ∧ s.remoteStatus f 256 true = 0 ∧ s.onLostPort (localOf f.addr) = false ∧
      ((s.load f.addr 256 (s.remoteAccess f .none)).2).isSome = true := by
  decide +kernel

/-- An access that its context has no grant for, one to an expander whose port is lost, a read of a gather, and a write not decoded. -/
theorem witness_remote_ends : let s := portIn { st := .up }
    let f (a ctx : Nat) : Frame := { frame ftRdReq with addr := 9 * 2 ^ 50 + a, len := 256, ctx := ctx }
    let v (f : Frame) := (s.received 7 f).fetchRemoteGrant f
    let e : State := { s with regs := [(0x90000, 0x80000001)], cap := s.cap.set 0 { st := 2 } }
    let m : MemReq := { tag := 0, slice := 3, stream := 26, line := 256, lo := 0, hi := 3, target := .remote 5, ctx := 1, cmdCtx := 1, cmd := c0 }
    let a : State := { s with fab := { s.fab with remote := [{ asking false with mem := some m }] } }
    (v (f 0 1)).joined = true ∧ (v (f 0 1)).remoteStatus (f 0 1) 256 false = 1 ∧ (v (f 0 1)).remoteStatus (f 0 1) 256 true = 1 ∧
      (e.remoteStatus (f (2 ^ 44) 0) 256 false = 0 ∧ e.onLostPort (2 ^ 44) = true) ∧
      (a.requestOf { frame ftRdResp (zeros 256) with tag := 3, addr := 256 } false).map (·.mem) = some (some m) ∧
      ({ frame ftWrAck with rstat := 3 } : Frame).rstat = 3 ∧
      (let p : State := { s with poison := [0] }
       (p.loadCounted (9 * 2 ^ 50) 256 (p.remoteAccess (f 0 0) .none)).2 = none) := by decide +kernel

theorem witness_register_frames : let s (x : Port) : State := { portIn x with regs := [(0x80010, 0x80000005)] }
    let f (typ : Nat) : Frame := { frame typ (leBytes 4 7) with addr := 0xC0000 }
    (s { st := .up }).regAllowed (f ftRegRd) = true ∧ (portIn { st := .up }).regAllowed (f ftRegWr) = false ∧ (f ftRegWr).payload.length = 4 ∧
      32 ≤ (zeros 32).length ∧ ((portIn { st := .up }).isMine { frame ftJoinReq with direct := true } = true ∧ (joined).fab.st = .serving) ∧
      ({ joined with fab := { (joined).fab with st := .drained } } : State).fab.st ≠ .serving ∧
      (let n : Neighbour := { valid := true, assigned := true, node := 5 }
       n.valid = true ∧ n.assigned = true ∧ n.node = (frame ftLoss).src) ∧ ({} : Neighbour).valid = false := by decide

theorem witness_hello : let x (st : PortState) (serial : Nat) : Port := { st := st, helloSent := true, nbr := { valid := true, serial := serial } }
    let u (st : PortState) (serial : Nat) := (portIn (x st serial)).acknowledge 7 0
    let n := neighbourOf (zeros 32)
    (((u .discovery 1).fport 7).nbr.valid = true ∧ ((u .discovery 1).fport 7).nbr.serial ≠ n.serial ∧ ((u .discovery 1).fport 7).waiting = []) ∧
      (((u .discovery 0).fport 7).nbr.serial = n.serial ∧ ((u .discovery 0).fport 7).st = .discovery ∧ ((u .discovery 0).fport 7).helloSent = true) ∧
      ((u .up 0).fport 7).st ≠ .discovery ∧ ({ frame ftAck with nak := true } : Frame).nak = true ∧ ((portIn { st := .up }).fport 7).talks = true ∧
      0x0F < ({ frame 0x10 with typ := 0x10 } : Frame).typ ∧ oneLink ftCmd = false := by decide

/-! ## Observation and registers -/

theorem witness_counters : Written up 0xC0000 .plinth ∧ Requester.pkg ≠ Requester.plinth ∧ (0 < 4095 ∧ 4095 < 2 ^ 12) := by
  unfold Written; decide

theorem witness_trace : let b (en : Nat) : List Byte := leBytes 8 0 ++ leBytes 1 6 ++ leBytes 1 en ++ leBytes 22 0
    let u := ({ withJob (job opTraceCtl 0 (b 1)) with contexts := [(1, ctx1)] } : State).begin c0
    firstBroken (traceRules (b 0)) = none ∧ field (b 0) 9 1 = 0 ∧ field (b 1) 9 1 = 1 ∧ (u.holdPages 0 [0] []).2 = (none, [0]) ∧
      (let w : Wait := { typ := 4, start := 0, waiter := 1, holder := 2, object := 0, detail := 0 }
       let s (ws : List Wait) (ms : Nat) : State := { up with trace := { waits := ws, hangMs := ms, lastCheck := 999000000 } }
       (s [] 0).isReady = true ∧ (s [] 0).trace.lastCheck + 1000000 ≤ (s [] 0).time ∧ (s [w] 1000).trace.waits = w :: [] ∧ (s [w] 0).trace.hangMs = 0 ∧
         w.start + 1000000 * 1000 ≤ up.time ∧ (s [w] 1000).trace.reported ≠ some w) ∧ State.reset.time < State.reset.trace.lastCheck + 1000000 := by decide

theorem witness_debug : let b (sub : Nat) : List Byte := leBytes 1 sub ++ leBytes 1 8 ++ leBytes 2 4095 ++ leBytes 4 127 ++ leBytes 4 0 ++ leBytes 4 65536 ++ leBytes 8 0 ++ leBytes 4 86400 ++ leBytes 132 0
    let u := ({ withJob (job opDebug 0 (b 3)) with dbg := { openNow := true, scope := 0, closesAt := 1000000000 } } : State).begin c0
    (∀ sub < 4, field (b sub) 0 1 = sub ∧ zeroRange (b sub) 28 4 = true) ∧ (field (b 1) 2 2 < 2 ^ 12 ∧ 1 ≤ field (b 1) 24 4 ∧ field (b 1) 24 4 ≤ 86400) ∧
      up.dbg.openNow = false ∧ (u.dbg.openNow = true ∧ u.inScope 8 127 = true ∧ field (b 3) 1 1 = 8 ∧ field (b 3) 4 4 < spaceSize 8 ∧ field (b 3) 12 4 ≤ 65536) ∧
      ({ u with dbg := { u.dbg with scope := 5 } } : State).inScope 8 127 = false ∧ u.dbg.closesAt ≤ u.time ∧ up.time < ({ openNow := true, closesAt := 1000000001 } : DebugGate).closesAt := by
  decide

theorem witness_pairs : isPairLow 0x0008 = true ∧ isRwPair 0x40000 = true ∧ Written up 0x40004 (.cc 0) ∧ Written up 0x40000 (.cc 0) ∧ 4 ≤ 0x40004 ∧
    (∀ e ∈ (up.reqState (.cc 0)).holds, e.1 ≠ 0x40000) ∧
    ((({ up with req := [(1, { holds := [(0x40000, 7)] })] } : State).reqState (.cc 0)).holds.find? (fun e => e.1 == 0x40000)) = some (0x40000, 7) ∧
    (up.boot.held = false ∧ up.boot.ctlLocked = true ∧ goodAccess 2 4 = false ∧ goodAccess 0 2 = false ∧ goodAccess 0 4 = true ∧ isFabric .pkg = false) := by
  unfold Written; decide

theorem witness_writes : up.writeReaches 0x20000 .fabric = false ∧ writerOk 0x20000 .fabric = false ∧ State.reset.unitUp 0x20000 = false ∧ fenced.err.fenced = true ∧
    isPkg .plinth = false ∧ State.reset.boot.ctlLocked = false ∧ Written up 0x30000 (.cc 0) ∧ up.qlocked = false ∧ Written up 0x20018 (.cc 0) ∧ Written up 0xC000C .fabric := by
  unfold Written; decide

/-! ## Worked examples of the spec -/

/-- The words of the hashed-table program (Example programs). -/
theorem test_hashed_table : [0x88400000#32, 0xA0080005#32, 0x80880000#32, 0x64C80155#32, 0x2D0E0000#32, 0xC1000000#32, 0xC4000000#32].map decodeS =
    [some (.len 1), some (.loop 0 false 1 0 5), some (.ldx 2 0 true), some (.hmix 3 2 0x155), some (.mulhu 4 3 8), some (.emit 4), some (.bagend 0)] := by decide

/-- Round to odd, then to B16: 1 + 2^-8 + 2^-30 (Rounding modes). -/
theorem test_round_to_odd : let x : Exact := ⟨false, 2 ^ 30 + 2 ^ 22 + 1, 2 ^ 30⟩
    (fmtF32.round .odd x).1 = 0x3F808001 ∧ (fmtF32.round .nearest x).1 = 0x3F808000 ∧ (fmtB16.round .nearest (fmtF32.value 0x3F808001)).1 = 0x3F81 ∧
      (fmtB16.round .nearest (fmtF32.value 0x3F808000)).1 = 0x3F80 := by decide

/-- The QA8 group of R61's example: its scale 0x3D24, zero point 75, codes to nearest-even and toward zero, and the decoded value of code 105. -/
theorem test_qa8 : let x (n : Int) : Exact := ⟨decide (n < 0), n.natAbs, 100⟩
    let xs := [(0, some (x 180)), (1, some (x 30)), (2, some (x (-75)))]
    let c : Exact := ⟨false, 1, 4⟩
    qaEncode 255 c (.fixed .nearest) xs = { codes := [255, 105, 0], meta_ := [0x24, 0x3D, 75, 0], sat := 0 } ∧
      (qaEncode 255 c (.fixed .zero) xs).codes = [254, 104, 1] ∧
      (deqElem fcQA8 64 64 0x3E800000 (List.replicate 64 105 ++ [0x24, 0x3D, 75, 0]) 0).val = 0x3E99C000 := by decide +kernel

/-- Stochastic thresholds of the same example: 54,027, 63,617 and 4,795. -/
theorem test_stochastic : let q (n : Int) (u : Nat) := roundInt (.stochastic u) (Exact.div ⟨decide (n < 0), n.natAbs, 10⟩ ⟨false, 41, 1⟩)
    q 73728 54026 = 180 ∧ q 73728 54027 = 179 ∧ q 12288 63616 = 30 ∧ q 12288 63617 = 29 ∧ q (-30720) 4794 = -74 ∧ q (-30720) 4795 = -75 := by decide

/-- The MX8E4 block of the next example: scale byte 120, codes 0x7D and 0x3A, and saturation at 3.9. -/
theorem test_mx8e4 :
    mxEncode fcMX8E4 .one (.fixed .nearest) [(0, some ⟨false, 33, 10⟩), (1, some ⟨false, 1, 100⟩)] = { codes := [0x7D, 0x3A], meta_ := [120], sat := 0 } ∧
      mxEncode fcMX8E4 .one (.fixed .zero) [(0, some ⟨false, 39, 10⟩)] = { codes := [0x7E], meta_ := [120], sat := 1 } := by decide

/-- The SUM of the pooling example, and a tree with a dropped position: ((c0 + c1) + c2) + (c4 + c5). -/
theorem test_canonical_tree : canonTree [(0, 0x3FC00000), (1, 0x3E800000), (2, 0x3FC00000)] 0 2 = some 0x40500000 ∧
    canonTree [(0, 1), (1, 2), (2, 3), (4, 4), (5, 5)] 0 3 = some (addOdd (addOdd (addOdd 1 2) 3) (addOdd 4 5)) := by decide

/-- The aligned values of the scatter example, T = -1. -/
theorem test_aligned : (alignX64 (-1) (.fin ⟨false, 1, 4⟩)).1 = some 274877906944 ∧
    (alignX64 (-1) (.fin (Exact.div ⟨false, 13421773, 2 ^ 27⟩ (.ofNat 3)))).1 = some 36650388138 := by decide

/-- The LFSR of group 0 from the reset seed, and the victims of its first states under two masks. -/
theorem test_lfsr : lfsrStep 0x1A2B3C4D = 0x8D359E25 ∧ lfsrStep 0x8D359E25 = 0xC6BACF11 ∧ lfsrStep 0xC6BACF11 = 0xE37D678B := by decide

/-- The pseudo-LRU example: way 4 with P = 0 under mask 0x00F0, P = 0x0211 after its fill, then way 6. -/
theorem test_plru : plruVictim 0 0xF0 1 4 = 4 ∧ plruTouch 0 20 5 = 0x0211 ∧ plruVictim 0x0211 0xF0 1 4 = 6 := by decide

/-- The channel of pool address 0x0045_6789_A000 and its offset (R292). -/
theorem test_channel : up.poolMap 0x456789A000 = (11, 0x22B3C4000) ∧ (up.poolMap 0x456789B000).1 = 10 := by decide

/-- Register offsets of the register map's example. -/
theorem test_offsets : doorbellOff 300 = 0x604B0 := by decide

/-- The shed example: the second channel 40 µs late is counted in SHORT_DISAGREE and qualifies shed at 41 µs. -/
theorem test_shed : let s : State := { up with time := 41000, pw := { up.pw with filtA := true, rawB := true, changedB := 40000, disagreeSince := some 1000 } }
    ∃ t, exec (.shedFilterStable true) s = .next t ∧ t.pw.shed = true ∧ t.pw.shortDisagree = 1 ∧ t.pw.shedTime = 41000 ∧ t.pw.effective = 15 :=
  ⟨_, rfl, by decide, by decide, by decide, by decide⟩

/-- The envelope example: accepted at 1,000 µs, level 11 takes effect 50 µs later. -/
theorem test_envelope : let s : State := { up with time := 1050000, pw := { up.pw with commanded := 0, effective := 12, ramping := true, lastStep := 1000000 } }
    ∃ t, exec .envelopeStep s = .next t ∧ t.pw.effective = 11 ∧ t.pw.ramping = true := ⟨_, rfl, by decide, by decide⟩

end Sys2Proof.Tests
end

namespace Sys2Proof.Machine

/-! ## The block: the tick and the reset state -/

/-- A domain's copy of the time base stands at or after it, and less than 10 ns past it (R36). -/
theorem now_within_tick (s : State) (d : Domain) (n : Nat) (h : s.time = n) : n ≤ s.now d ∧ s.now d < n + 10 := by
  have := Nat.mod_lt (s.copies.get d.num) (show 10 > 0 by decide)
  unfold State.now
  omega

theorem step_empty (s : State) (h : s.pending = []) : step s = .next s.idle := by unfold step; rw [h]

/-- Settles O2: the tick of `State.idle`, with the copies that it takes from the free values. -/
theorem emptyQueueTicks : Obligations.EmptyQueueTicks := by
  intro s hp
  constructor
  · intro hh
    rw [step_empty s hp, State.idle, if_pos hh]
  · intro hh
    refine ⟨Vector.ofFn fun d => Config.free (s.fresh + d.val) % 10, ?_, fun d => ?_⟩
    · rw [step_empty s hp, State.idle, if_neg (by simp [hh])]
    · exact now_within_tick _ d _ rfl

/-- Settles O4: every field by its default, each LFSR by the entry that `RowCache.atReset` gives it. -/
theorem resetState : Obligations.ResetState := by
  refine ⟨rfl, rfl, rfl, rfl, rfl, rfl, rfl, rfl, rfl, rfl, rfl, rfl, rfl, rfl, rfl, rfl, rfl, rfl, rfl, ?_, rfl⟩
  intro g
  exact Vector.get_ofFn _ g

end Sys2Proof.Machine

namespace Sys2Proof.Machine

/-! ## The fence and the shared operations: none of what a command's end does to memory, the cache and the trace ring takes the fence down -/

@[simp] theorem fenced_countEngine (s : State) (i n : Nat) : (s.countEngine i n).err.fenced = s.err.fenced := rfl
@[simp] theorem fenced_countCtx (s : State) (o i n : Nat) : (s.countCtx o i n).err.fenced = s.err.fenced := rfl
@[simp] theorem fenced_unitWork (s : State) (u n : Nat) : (s.unitWork u n).err.fenced = s.err.fenced := rfl
@[simp] theorem fenced_moved (s : State) (t : Target) (n : Nat) : (s.moved t n).err.fenced = s.err.fenced := by cases t <;> rfl
@[simp] theorem fenced_queueFrame (s : State) (p : Fin 8) (f : Frame) : (s.queueFrame p f).err.fenced = s.err.fenced := rfl
@[simp] theorem fenced_setWay (s : State) (set w : Nat) (x : Way) : (s.setWay set w x).err.fenced = s.err.fenced := rfl
@[simp] theorem fenced_touch (s : State) (set w : Nat) : (s.touch set w).err.fenced = s.err.fenced := rfl
@[simp] theorem fenced_traceDrop (s : State) (t : Nat) : (s.traceDrop t).err.fenced = s.err.fenced := rfl
@[simp] theorem fenced_traceNext (s : State) (n : Nat) : (s.traceNext n).err.fenced = s.err.fenced := rfl
@[simp] theorem fenced_block (s : State) (b : Blocked) : (s.block b).err.fenced = s.err.fenced := rfl
@[simp] theorem fenced_dropGrants (s : State) : s.dropGrants.err.fenced = s.err.fenced := rfl
@[simp] theorem fenced_leaveFaults (s : State) (w : XWaiter) : (s.leaveFaults w).err.fenced = s.err.fenced := rfl
@[simp] theorem fenced_recorded (s : State) (e : ErrInfo) (t slot next : Nat) (bs : List Byte) :
    (s.recorded e t slot next bs).err.fenced = s.err.fenced := rfl

/-- A fold of steps that each keep the fence. -/
theorem fenced_foldl {α : Type} (l : List α) (f : State → α → State) (h : ∀ s a, (f s a).err.fenced = s.err.fenced) (s : State) :
    (l.foldl f s).err.fenced = s.err.fenced := by
  induction l generalizing s with
  | nil => rfl
  | cons a l ih => rw [List.foldl_cons, ih, h]

/-! ### The write path to memory -/

@[simp] theorem fenced_chargeTo (s : State) (p d n : Nat) : (s.chargeTo p d n).err.fenced = s.err.fenced := by
  grind [State.chargeTo]

@[simp] theorem fenced_notifyWrite (s : State) (w : Waiter) : (s.notifyWrite w).err.fenced = s.err.fenced := by
  cases w with
  | none => rfl
  | job c a => rfl
  | remote p f =>
    unfold State.notifyWrite; dsimp only
    split
    · exact fenced_queueFrame ..
    · rfl

@[simp] theorem fenced_notifyAll (s : State) (ws : List Waiter) : (s.notifyAll ws).err.fenced = s.err.fenced :=
  fenced_foldl ws _ fenced_notifyWrite s

@[simp] theorem fenced_putSector (s : State) (w : SectorWrite) : (s.putSector w).1.err.fenced = s.err.fenced := by
  obtain ⟨p, n, h | h⟩ := putSector_cases s w <;> rw [h]

@[simp] theorem fenced_putSectors (ws : List SectorWrite) (s : State) : (s.putSectors ws).1.err.fenced = s.err.fenced := by
  induction ws generalizing s with
  | nil => rfl
  | cons w ws ih => simp [State.putSectors, ih]

@[simp] theorem fenced_startDrain (s : State) (line : Nat) : (s.startDrain line).1.err.fenced = s.err.fenced := by
  unfold State.startDrain; dsimp only; split
  · rfl
  · split <;> simp

@[simp] theorem fenced_wcMerge (s : State) (w : LineWrite) : (s.wcMerge w).err.fenced = s.err.fenced := by
  unfold State.wcMerge; dsimp only; split <;> simp

@[simp] theorem fenced_wcPressure (q fuel : Nat) (s : State) : (s.wcPressure q fuel).1.err.fenced = s.err.fenced := by
  induction fuel generalizing s with
  | zero => rfl
  | succ n ih => grind [State.wcPressure, fenced_startDrain]

@[simp] theorem fenced_wcEnter (s : State) (w : LineWrite) : (s.wcEnter w).1.err.fenced = s.err.fenced := by
  grind [State.wcEnter, fenced_wcMerge, fenced_startDrain, fenced_wcPressure]

@[simp] theorem fenced_wcPut (s : State) (w : LineWrite) : (s.wcPut w).1.err.fenced = s.err.fenced := by
  grind [State.wcPut, fenced_wcEnter]

@[simp] theorem fenced_recordWrite (s : State) (a : Nat) (bs : List Byte) : (s.recordWrite a bs).1.err.fenced = s.err.fenced := by
  grind [State.recordWrite, fenced_wcPut, send_err]

@[simp] theorem fenced_recordOne (s : State) (e : ErrInfo) : (s.recordOne e).1.err.fenced = s.err.fenced := by
  grind [State.recordOne, fenced_recordWrite, fenced_recorded, fenced_countEngine]

@[simp] theorem fenced_errorChain (fuel : Nat) (s : State) (e : ErrInfo) : (s.errorChain e fuel).err.fenced = s.err.fenced := by
  induction fuel generalizing s e with
  | zero => unfold State.errorChain; simp
  | succ n ih =>
    unfold State.errorChain; dsimp only
    rw [fenced_foldl _ _ fun s a => ih s (s.lossInfo a), fenced_recordOne]

@[simp] theorem fenced_errorRecord (s : State) (e : ErrInfo) : (s.errorRecord e).err.fenced = s.err.fenced := fenced_errorChain _ s e

@[simp] theorem fenced_lossRecords (s : State) (bad : List Nat) : (s.lossRecords bad).err.fenced = s.err.fenced :=
  fenced_foldl bad _ (fun s _ => fenced_errorRecord s _) s

@[simp] theorem fenced_drain (s : State) (line : Nat) : (s.drain line).err.fenced = s.err.fenced := by simp [State.drain]

@[simp] theorem fenced_wcWrite (s : State) (w : LineWrite) : (s.wcWrite w).err.fenced = s.err.fenced := by simp [State.wcWrite]

@[simp] theorem fenced_unpark (es : List WcEntry) (s : State) : (s.unpark es).err.fenced = s.err.fenced := by
  induction es generalizing s with
  | nil => rfl
  | cons e es ih => unfold State.unpark; dsimp only; split <;> simp [ih]

@[simp] theorem fenced_unparkAll (s : State) : s.unparkAll.err.fenced = s.err.fenced := fenced_unpark _ s

@[simp] theorem fenced_wcBytes (s : State) (pa : Nat) (bs : List Byte) (part : Nat) (ws : List Waiter) (h : Option Nat) :
    (s.wcBytes pa bs part ws h).err.fenced = s.err.fenced := by simp [State.wcBytes]

@[simp] theorem fenced_wcAck (s : State) (line : Nat) : (s.wcAck line).err.fenced = s.err.fenced := by
  grind [State.wcAck, fenced_unparkAll, send_err, fenced_notifyAll]

@[simp] theorem fenced_settleLine (s : State) (line : Nat) : (s.settleLine line).err.fenced = s.err.fenced := by
  have h (n : Nat) (s : State) : (foldN n s fun s _ => s.wcAck line).err.fenced = s.err.fenced := by
    induction n with
    | zero => rfl
    | succ n ih => rw [foldN, fenced_wcAck, ih]
  unfold State.settleLine; dsimp only; rw [h]; split <;> simp

/-! ### The row cache -/

@[simp] theorem fenced_replace (s : State) (set a : Nat) : (s.replace set a).1.err.fenced = s.err.fenced := by
  grind [State.replace]

@[simp] theorem fenced_victim (s : State) (set a : Nat) : (s.victim set a).1.err.fenced = s.err.fenced := by
  grind [State.victim, fenced_replace]

@[simp] theorem fenced_freeMirror (s : State) (set w : Nat) : (s.freeMirror set w).err.fenced = s.err.fenced := by
  grind [State.freeMirror, fenced_setWay]

@[simp] theorem fenced_cleanWay (s : State) (set w part : Nat) : (s.cleanWay set w part).err.fenced = s.err.fenced := by
  unfold State.cleanWay; dsimp only; split <;> simp

@[simp] theorem fenced_evict (s : State) (set w part : Nat) : (s.evict set w part).err.fenced = s.err.fenced := by
  unfold State.evict; dsimp only; rw [fenced_setWay]; split <;> simp

@[simp] theorem fenced_cleanPrimaryOf (s : State) (set m part : Nat) : (s.cleanPrimaryOf set m part).err.fenced = s.err.fenced :=
  fenced_cleanWay ..

@[simp] theorem fenced_mirrorPlace (s : State) (set part : Nat) : (s.mirrorPlace set part).1.err.fenced = s.err.fenced := by
  grind [State.mirrorPlace, fenced_replace, fenced_evict, fenced_setWay, fenced_cleanPrimaryOf]

@[simp] theorem fenced_mirrorWay (s : State) (set w part : Nat) : (s.mirrorWay set w part).err.fenced = s.err.fenced := by
  grind [State.mirrorWay, fenced_mirrorPlace, fenced_touch, fenced_setWay, fenced_freeMirror, fenced_cleanWay]

@[simp] theorem fenced_allocRead (s : State) (pa mask : Nat) (acc : Access) : (s.allocRead pa mask acc).err.fenced = s.err.fenced := by
  grind [State.allocRead, fenced_victim, fenced_evict, fenced_touch, fenced_setWay, send_err]

@[simp] theorem fenced_readMem (s : State) (pa n part : Nat) : (s.readMem pa n part).err.fenced = s.err.fenced := by
  simp [State.readMem]

@[simp] theorem fenced_fillMissing (s : State) (set w line mask : Nat) : (s.fillMissing set w line mask).err.fenced = s.err.fenced := by
  unfold State.fillMissing; split <;> simp

@[simp] theorem fenced_noteRead (s : State) (pa mask : Nat) (acc : Access) : (s.noteRead pa mask acc).err.fenced = s.err.fenced := by
  grind [State.noteRead, fenced_countEngine, fenced_unitWork, fenced_touch, fenced_fillMissing, fenced_readMem, fenced_allocRead]

@[simp] theorem fenced_readError (s : State) (e : ErrInfo) (pa : Nat) : (s.readError e pa).err.fenced = s.err.fenced := by
  unfold State.readError; split <;> simp

@[simp] theorem fenced_updatePresent (s : State) (a : Nat) (bs : List Byte) (part : Nat) :
    (s.updatePresent a bs part).err.fenced = s.err.fenced := by
  unfold State.updatePresent; dsimp only
  split
  · rfl
  · split <;> simp

@[simp] theorem fenced_writeThrough (s : State) (pa : Nat) (bs : List Byte) (acc : Access) :
    (s.writeThrough pa bs acc).err.fenced = s.err.fenced := by simp [State.writeThrough]

@[simp] theorem fenced_tellWriter (s : State) (line : Nat) (w : Waiter) : (s.tellWriter line w).err.fenced = s.err.fenced := by
  unfold State.tellWriter; split <;> simp

@[simp] theorem fenced_registerWay (s : State) (set w line : Nat) : (s.registerWay set w line).err.fenced = s.err.fenced := by
  grind [State.registerWay, send_err, fenced_setWay]

@[simp] theorem fenced_writeWay (s : State) (set w pa : Nat) (bs : List Byte) (acc : Access) :
    (s.writeWay set w pa bs acc).1.err.fenced = s.err.fenced := by
  grind [State.writeWay, fenced_readMem, fenced_tellWriter, fenced_setWay, fenced_registerWay, fenced_wcBytes, fenced_mirrorWay, fenced_touch]

@[simp] theorem fenced_writeBack (s : State) (pa : Nat) (bs : List Byte) (acc : Access) : (s.writeBack pa bs acc).1.err.fenced = s.err.fenced := by
  grind [State.writeBack, fenced_writeThrough, fenced_countEngine, fenced_writeWay, fenced_setWay, fenced_evict, fenced_victim, fenced_block]

@[simp] theorem fenced_storeLine (s : State) (pa : Nat) (bs : List Byte) (acc : Access) : (s.storeLine pa bs acc).1.err.fenced = s.err.fenced := by
  grind [State.storeLine, fenced_block, fenced_writeBack, fenced_writeThrough]

@[simp] theorem fenced_store (s : State) (pa : Nat) (bs : List Byte) (acc : Access) : (s.store pa bs acc).1.err.fenced = s.err.fenced := by
  unfold State.store
  generalize pieces pa bs = ps
  generalize true = ok
  induction ps generalizing s ok with
  | nil => rfl
  | cons p ps ih => rw [List.foldl_cons]; exact (ih _ _).trans (fenced_storeLine s _ _ _)

@[simp] theorem fenced_undecoded (s : State) (pa : Nat) : (s.undecoded pa).err.fenced = s.err.fenced := fenced_errorRecord ..

@[simp] theorem fenced_storeFirmware (s : State) (pa : Nat) (bs : List Byte) : (s.storeFirmware pa bs).err.fenced = s.err.fenced := by
  unfold State.storeFirmware; split <;> simp

/-! ### Grants, the trace ring and the wait table -/

@[simp] theorem fenced_fetchGrant (s : State) (ctx a : Nat) : (s.fetchGrant ctx a).err.fenced = s.err.fenced := by
  unfold State.fetchGrant
  split
  · rfl
  · split
    · exact fenced_undecoded ..
    · split
      · rfl
      · exact fenced_noteRead ..

@[simp] theorem fenced_repairGrant (s : State) (a : Nat) : (s.repairGrant a).err.fenced = s.err.fenced := by
  unfold State.repairGrant; dsimp only; split
  · rw [fenced_dropGrants, fenced_storeFirmware, fenced_readError]
  · rfl

@[simp] theorem fenced_denied (s : State) (ctx a : Nat) : (s.denied ctx a).err.fenced = s.err.fenced := by simp [State.denied]

@[simp] theorem fenced_tracePut (s : State) (w : Wait) (t : Bool) (d : Nat) : (s.tracePut w t d).err.fenced = s.err.fenced := by
  grind [State.tracePut, fenced_traceDrop, fenced_denied, fenced_fetchGrant, fenced_traceNext, fenced_store]

@[simp] theorem fenced_traceLoss (s : State) : s.traceLoss.err.fenced = s.err.fenced := by
  unfold State.traceLoss; split <;> simp

@[simp] theorem fenced_traceWrite (s : State) (w : Wait) (t : Bool) (d : Nat) : (s.traceWrite w t d).err.fenced = s.err.fenced := by
  unfold State.traceWrite; dsimp only; split <;> simp

@[simp] theorem fenced_closeWait (s : State) (typ w : Nat) (t : Bool) (h d : Option Nat) :
    (s.closeWait typ w t h d).err.fenced = s.err.fenced := by
  grind [State.closeWait, fenced_traceWrite]

/-! ### The end of a command -/

@[simp] theorem fenced_stopStream (s : State) (k : Nat) : (s.stopStream k).err.fenced = s.err.fenced := by simp [State.stopStream]

@[simp] theorem fenced_noteIdle (s : State) (i : Nat) : (s.noteIdle i).err.fenced = s.err.fenced := by
  unfold State.noteIdle; split <;> rfl

@[simp] theorem fenced_clearItems (s : State) (c : CmdId) : (s.clearItems c).err.fenced = s.err.fenced := by
  unfold State.clearItems; dsimp only
  rw [fenced_foldl _ _ fenced_noteIdle]
  exact fenced_foldl _ _ (fun s w => by split <;> simp) s

@[simp] theorem fenced_endReads (s : State) (c : CmdId) : (s.endReads c).err.fenced = s.err.fenced := by
  grind [State.endReads, updJob_err]

@[simp] theorem fenced_finish (s : State) (c : CmdId) : (s.finish c).err.fenced = s.err.fenced := by simp [State.finish]

@[simp] theorem fenced_complete (s : State) (c : CmdId) (st : Nat) (d : ErrDetail) : (s.complete c st d).err.fenced = s.err.fenced := by
  unfold State.complete; split <;> simp [State.cause]

/-! ## Rows behind the fence (R27, R438, R464) -/

/-- The rows that may change something behind the fence: the reset and its release, the report of the cleaning done (R438), the shed input and the
power envelope (R420), reads of registers, and the register writes that R464 lets pass. -/
def passesFence : Instr → Bool
  | .resetN | .resetNRelease | .cleanDone _ | .shedInputChange .. | .shedFilterStable _ | .discFault | .releaseHoldEnd | .envelopeStep => true
  | .lowWordRead .. | .badRegisterAccess .. | .pcCapture _ | .registerWrite .. | .regWr .. => true
  | _ => false

section Stopped

variable {s : State} (hf : s.err.fenced = true)
include hf

theorem alive_of_fenced : s.alive = false := by simp [State.alive, hf]

theorem act_of_fenced (f : State → State) : act s f = .next s := by simp [act, alive_of_fenced hf]

theorem actWhen_of_fenced (c : Bool) (f : State → State) : actWhen s c f = .next s := by simp [actWhen, alive_of_fenced hf]

theorem actS_of_fenced (f : State → State) : actS s f = .next s := by simp [actS, alive_of_fenced hf]

theorem actSWhen_of_fenced (c : Bool) (f : State → State) : actSWhen s c f = .next s := by simp [actSWhen, alive_of_fenced hf]

/-- Behind the fence a write reaches a register only where R464 lets it pass. -/
theorem fencePasses_of_writeReaches {off : Nat} {r : Requester} (h : s.writeReaches off r = true) : fencePasses off r = true := by
  simp only [State.writeReaches, hf, Bool.and_eq_true, Bool.not_true, Bool.false_or] at h
  exact h.1.1.1.2

/-- A register write behind the fence: its action alone, where it passes. -/
theorem actReg_of_fenced (off : Nat) (r : Requester) (f : State → State) :
    actReg s off r f = .next (if s.writeReaches off r then f s else s) := by simp [actReg, alive_of_fenced hf]

/-- A register write that has no effect where it passes the fence has none behind it. -/
theorem actReg_stopped (off : Nat) (r : Requester) (f : State → State) (h : fencePasses off r = true → f s = s) :
    actReg s off r f = .next s := by
  rw [actReg_of_fenced hf]
  split
  · next hw => rw [h (fencePasses_of_writeReaches hf hw)]
  · rfl

end Stopped

/-- The registers whose writes pass a fence: PC_CTL, PC_SEL, ER_LOG_HEAD and TR_HEAD (R464). -/
theorem offset_of_fencePasses {off : Nat} {r : Requester} (h : fencePasses off r = true) :
    off = 0xC0000 ∨ off = 0xC000C ∨ off = 0xE0010 ∨ off = 0xD0008 := by
  simp only [fencePasses, Bool.and_eq_true, Bool.or_eq_true, beq_iff_eq] at h
  omega

/-- No write of Plinth or of a control core passes a fence. -/
theorem not_fencePasses_of_inside {off : Nat} {r : Requester} (h : isPkg r = false) (h' : isFabric r = false) : ¬ fencePasses off r = true := by
  simp [fencePasses, h, h']

theorem not_fencePasses_of_low {off : Nat} {r : Requester} (h : off < 0xC0000) : ¬ fencePasses off r = true := fun hp => by
  have := offset_of_fencePasses hp
  omega

theorem isRwPair_of_fencePasses {off : Nat} {r : Requester} (h : fencePasses off r = true) : isRwPair off = false ∧ isRwPair (off - 4) = false := by
  obtain rfl | rfl | rfl | rfl := offset_of_fencePasses h <;> decide

/-- Behind the fence every row but those that pass it changes nothing. -/
theorem exec_stopped_of_fenced (c : Instr) (s : State) (hf : s.err.fenced = true) (hc : passesFence c = false) : exec c s = .next s := by
  cases c
  case resetN | resetNRelease | cleanDone | shedInputChange | shedFilterStable | discFault | releaseHoldEnd | envelopeStep | lowWordRead
      | badRegisterAccess | pcCapture | registerWrite | regWr =>
    exact Bool.noConfusion hc
  case arrayEn | ctCfgGo | rcMapOut | reseed | xlFaultDone | xlSqNotifyAck =>
    unfold exec; exact actReg_stopped hf _ _ _ fun h => absurd h (not_fencePasses_of_low (by decide))
  case accept r p | portEn r p en | retrain r p =>
    unfold exec; exact actReg_stopped hf _ _ _ fun h => absurd h (not_fencePasses_of_low (by unfold portCtl; omega))
  case cqDb r i tail chead =>
    unfold exec; exact actReg_stopped hf _ _ _ fun h => absurd h (not_fencePasses_of_low (by unfold doorbellOff; omega))
  case fenceGo r =>
    unfold exec; exact actReg_stopped hf _ _ _ fun h => absurd (offset_of_fencePasses h) (by decide)
  case ccHeartbeat | plinthHeartbeat =>
    unfold exec; exact actReg_stopped hf _ _ _ fun h => absurd h (not_fencePasses_of_inside rfl rfl)
  case highWordWrite r off v =>
    unfold exec; exact actReg_stopped hf _ _ _ fun h => if_neg fun hp => by simp [(isRwPair_of_fencePasses h).2] at hp
  case lowWordWrite r off v =>
    unfold exec; exact actReg_stopped hf _ _ _ fun h => if_neg fun hp => by simp [(isRwPair_of_fencePasses h).1] at hp
  -- every other row is an event of the engine, of one of the frames that do nothing behind the fence
  all_goals
    simp only [exec,
      execBankTimeout, execBankerDisagree, execCheckpointServiceReply, execRestoreTimeout, execRouteUnusableExpiry, execTemperatureReport,
      execWorkItemMigrate, execWorkItemStart, execWorkItemSteal, execAccessCountDecay, execAckTimer, execArmatureImageReadDone,
      execBootScrubEnd, execBootTimeout, execCfgRequestDone, execCoreCachePllLock, execCreditTimer, execCtlPllLock, execGateExpiry,
      execHangCheck, execHelloTimer, execIsolate, execJoinReqTimer, execMemCapFabPllLock, execPlinthBusError, execPlinthImageReadDone,
      execPlinthWatchExpiry, execPoolReady, execRateIntervalEnd, execReady, execSensorLost, execSignalDetect, execSortWindowAge, execTakeover,
      execTakeoverTimeout, execThrottleLower, execTrainingComplete, execCapacityLinkUp, execCapacityPortLost, execCcBusError, execCcWatchExpiry,
      execDrainDeadline, execEnterCommitting, execEnterDraining, execEnterWriting, execFaultRecordPost, execLaneLockLost, execLayerStart,
      execLivenessProbe, execLossOfSignal, execMapOutPassEnd, execPacketFetched, execPatrolScrubRead, execRealignComplete, execRealignTimeout,
      execRefill, execRowCacheRequest, execStagingAdd, execStreamResume, execTagLimitRaise, execWcEntryAge, execApplyEpoch, execDrain,
      execGather, execGatherSeq, execInvalidate, execJoin, execLoadPlan, execMapSegment, execNop, execProject, execQueryCounters, execRestore,
      execScatterGrad, execSetEnvelope, execSnapshot, execTraceCtl, execUnloadPlan, execWaitGraph, execArmWeights, execAttest,
      execContextCreate, execContextDelete, execExpander, execGrant, execNeighbours, execPoolShare, execPort, execPromoList, execQueueCreate,
      execQueueDelete, execRouteClear, execRouteSet, execSetNode, execShardSet, execDbgClose, execDbgNonce, execDbgOpen, execDbgRead, execCmd,
      execRdReq, execRdResp, execRegRd, execRegResp, execStatus, execUnreachable, execWrAck, execWrReq, execAck, execCredit, execHello,
      execBadFrame, execJoinReq, execLoss, execAdd, execAddi, execAnd, execAndi, execBagend, execBeq, execBgeu, execBltu, execBne, execBr,
      execBv, execChkr, execChks, execCross, execEmit, execHmix, execHmul, execLdh, execLdi, execLdw, execLdx, execLen, execLoop, execMinu,
      execMode, execModet, execMov, execMul, execMulhu, execOr, execPos, execPref, execRun, execShl, execShli, execShr, execShri, execStop,
      execSub, execXor, execCoherenceRegistrationAccept, execCommandTimeout, execFaultTimeout, execHeavyRowFlush, execInvalidatingSnoop,
      execLaneDataArrival, execMemoryReadComplete, execMemoryWriteAck, execMissRequestIssue, execPass2Start, execPointingStageReference,
      execReadSnoop, execRemoteRequestTimeout, execTileEnd, execUnitLossDetected, execWalkComplete, execWorkItemDeal,
      cmdRow, subRow, debugRow, routedRow, linkRow,
      ↓act_of_fenced hf, ↓actWhen_of_fenced hf, ↓actS_of_fenced hf, ↓actSWhen_of_fenced hf]

/-! ### The rows that pass the fence -/

@[simp] theorem fenced_capture (s : State) (r : Requester) : (s.capture r).err.fenced = s.err.fenced := rfl

@[simp] theorem fenced_writeTraceHead (s : State) (v : Nat) : (s.writeTraceHead v).err.fenced = s.err.fenced := by
  unfold State.writeTraceHead; dsimp only; split <;> simp

/-- A write of PC_CTL, PC_SEL, ER_LOG_HEAD or TR_HEAD keeps the fence. -/
theorem fenced_writeReg {off : Nat} {r : Requester} (h : fencePasses off r = true) (s : State) (v : BitVec 32) :
    (s.writeReg r off v).err.fenced = s.err.fenced := by
  obtain rfl | rfl | rfl | rfl := offset_of_fencePasses h
  · show (if bitOf v.toNat 31 then s.capture r else s).err.fenced = _
    split <;> simp
  · rfl
  · show (s.writeStored 0xE0010 v).err.fenced = _
    unfold State.writeStored; split <;> rfl
  · exact fenced_writeTraceHead s v.toNat

theorem fenced_fabricWrite (s : State) (f : Frame) (hf : s.err.fenced = true) : (s.fabricWrite f).err.fenced = true := by
  unfold State.fabricWrite
  split
  · next hw => rw [fenced_writeReg (fencePasses_of_writeReaches hf hw), hf]
  · exact hf

@[simp] theorem fenced_endEnvelope (s : State) : s.endEnvelope.err.fenced = s.err.fenced := by
  unfold State.endEnvelope; split <;> simp

@[simp] theorem fenced_envelopeStep (s : State) : s.envelopeStep.err.fenced = s.err.fenced := by
  unfold State.envelopeStep; dsimp only; split <;> simp

@[simp] theorem fenced_qualifyShed (s : State) : s.qualifyShed.err.fenced = s.err.fenced := by
  unfold State.qualifyShed; split <;> rfl

@[simp] theorem fenced_shedRecord (s : State) : s.shedRecord.err.fenced = s.err.fenced := by
  unfold State.shedRecord; split <;> simp

@[simp] theorem fenced_releaseShed (s : State) : s.releaseShed.err.fenced = s.err.fenced := by
  unfold State.releaseShed; split <;> rfl

@[simp] theorem fenced_shedStep (s : State) : s.shedStep.err.fenced = s.err.fenced := by
  unfold State.shedStep; dsimp only; split
  · split <;> rfl
  · split
    · split <;> simp
    · simp

@[simp] theorem fenced_readReg (s : State) (r : Requester) (off : Nat) : (s.readReg r off).1.err.fenced = s.err.fenced := by
  unfold State.readReg; dsimp only; split
  · rfl
  · split <;> rfl

@[simp] theorem fenced_busReply (s : State) (r : Requester) (v : BitVec 32) : (s.busReply r v).err.fenced = s.err.fenced := by
  unfold State.busReply; split <;> rfl

/-- CLEAN_DONE writes memory and the cache, and keeps the fence (R438). -/
theorem execCleanDone_fenced (l : List Nat) (s t : State) (hf : s.err.fenced = true) (h : execCleanDone l s = .next t) : t.err.fenced = true := by
  cases h
  split
  · exact (fenced_putSectors _ _).trans hf
  · exact hf

theorem execResetNRelease_fenced (s t : State) (hf : s.err.fenced = true) (h : execResetNRelease s = .next t) : t.err.fenced = true := by
  cases h
  split <;> exact hf

theorem execShedInputChange_fenced (b l : Bool) (s t : State) (hf : s.err.fenced = true) (h : execShedInputChange b l s = .next t) :
    t.err.fenced = true := by
  cases h
  split <;> exact hf

theorem execReleaseHoldEnd_fenced (s t : State) (hf : s.err.fenced = true) (h : execReleaseHoldEnd s = .next t) : t.err.fenced = true := by
  cases h
  split
  · split <;> exact hf
  · exact hf

theorem execEnvelopeStep_fenced (s t : State) (hf : s.err.fenced = true) (h : execEnvelopeStep s = .next t) : t.err.fenced = true := by
  rw [execEnvelopeStep, if_pos hf] at h
  cases h
  split <;> simp [hf]

theorem execLowWordRead_fenced (r : Requester) (off : Nat) (s t : State) (hf : s.err.fenced = true) (h : execLowWordRead r off s = .next t) :
    t.err.fenced = true := by
  cases h
  split <;> simp [hf]

theorem execBadRegisterAccess_fenced (r : Requester) (off n : Nat) (w : Bool) (s t : State) (hf : s.err.fenced = true)
    (h : execBadRegisterAccess r off n w s = .next t) : t.err.fenced = true := by
  cases h
  split
  · split <;> simp [hf]
  · exact hf

theorem execDiscFault_fenced (s t : State) (hf : s.err.fenced = true) (h : execDiscFault s = .next t) : t.err.fenced = true := by
  cases h
  split
  · exact hf
  · split
    · simp [hf]
    · exact hf

theorem execShedFilterStable_fenced (b : Bool) (s t : State) (hf : s.err.fenced = true) (h : execShedFilterStable b s = .next t) :
    t.err.fenced = true := by
  cases h
  split
  · exact hf
  · split <;> split <;> simp [hf]

theorem execRegWr_fenced (p : Fin 8) (f : Frame) (s t : State) (hf : s.err.fenced = true) (h : execRegWr p f s = .next t) : t.err.fenced = true := by
  rw [execRegWr, if_pos hf] at h
  cases h
  split
  · exact fenced_fabricWrite _ f hf
  · exact hf

theorem actReg_fenced {s t : State} {off : Nat} {r : Requester} {f : State → State} (hf : s.err.fenced = true)
    (hk : fencePasses off r = true → (f s).err.fenced = s.err.fenced) (h : actReg s off r f = .next t) : t.err.fenced = true := by
  rw [actReg_of_fenced hf] at h
  cases h
  split
  · next hw => rw [hk (fencePasses_of_writeReaches hf hw), hf]
  · exact hf

theorem execPcCapture_fenced (r : Requester) (s t : State) (hf : s.err.fenced = true) (h : execPcCapture r s = .next t) : t.err.fenced = true :=
  actReg_fenced hf (f := (·.capture r)) (fun _ => fenced_capture s r) h

theorem execRegisterWrite_fenced (r : Requester) (off : Nat) (v : BitVec 32) (s t : State) (hf : s.err.fenced = true)
    (h : execRegisterWrite r off v s = .next t) : t.err.fenced = true := by
  refine actReg_fenced hf (fun hp => ?_) h
  split
  · exact fenced_writeReg hp s v
  · rfl

/-- Every row but RESET_N keeps the fence. -/
theorem exec_keeps_fence (c : Instr) (s t : State) (hf : s.err.fenced = true) (hc : c ≠ .resetN) (h : exec c s = .next t) : t.err.fenced = true := by
  by_cases hp : passesFence c = true
  · cases c
    case resetN => exact absurd rfl hc
    case resetNRelease => exact execResetNRelease_fenced s t hf h
    case cleanDone l => exact execCleanDone_fenced l s t hf h
    case shedInputChange b l => exact execShedInputChange_fenced b l s t hf h
    case shedFilterStable b => exact execShedFilterStable_fenced b s t hf h
    case discFault => exact execDiscFault_fenced s t hf h
    case releaseHoldEnd => exact execReleaseHoldEnd_fenced s t hf h
    case envelopeStep => exact execEnvelopeStep_fenced s t hf h
    case lowWordRead r off => exact execLowWordRead_fenced r off s t hf h
    case badRegisterAccess r off n w => exact execBadRegisterAccess_fenced r off n w s t hf h
    case pcCapture r => exact execPcCapture_fenced r s t hf h
    case registerWrite r off v => exact execRegisterWrite_fenced r off v s t hf h
    case regWr p f => exact execRegWr_fenced p f s t hf h
    all_goals exact Bool.noConfusion hp
  · rw [exec_stopped_of_fenced c s hf (by simpa using hp)] at h
    cases h
    exact hf

/-- Settles O6: a tick keeps the fence, and so does every row but RESET_N. -/
theorem fenceHolds : Obligations.FenceHolds := by
  intro s t hf hc h
  unfold step at h
  split at h
  · next hp =>
    cases h
    unfold State.idle
    split <;> exact hf
  · next c rest hp =>
    refine exec_keeps_fence c { s with pending := rest } t hf (fun e => hc ?_) h
    rw [hp, e]; rfl

/-- A fenced engine that still lists a SET_ENVELOPE in progress, with the last step of its rise due. -/
def rampBehindFence : State :=
  { time := 50000, boot := { held := false }, err := { fenced := true }
    pw := { commanded := 0, effective := 1, ramping := true, lastStep := 0, cmd := some noCmd, shed := false }
    jobs := [{ id := noCmd, pkt := [], dest := .ring 0, order := 0, acceptedAt := 0, phase := .running }] }

theorem execEnvelopeStep_of_fenced (s : State) (hf : s.err.fenced = true) (hd : s.envelopeDue = true) :
    exec .envelopeStep s = .next s.envelopeStep := by
  unfold exec execEnvelopeStep
  rw [if_pos hd, if_pos hf]

/-- Refutes O7: the envelope goes on behind the fence (R420), so the last step of a rise ends the SET_ENVELOPE that asked for it, and `jobs`
changes. `State.raiseFence` empties the list of commands; the statement speaks of every fenced state, also of one that still lists a command. -/
theorem not_fenceStopsWork : ¬ Obligations.FenceStopsWork := by
  intro h
  have hstep := execEnvelopeStep_of_fenced rampBehindFence rfl (by decide)
  obtain ⟨-, -, hjobs, -⟩ := h .envelopeStep rampBehindFence _ rfl (by decide) (fun l => by simp) hstep
  exact absurd hjobs (by decide)

end Sys2Proof.Machine

namespace Sys2Proof.Machine

/-! ## Requests at the row cache (R24, R255 to R259, R265) -/

/-- A bank has granted the request of a slice: the bank's round-robin has moved on, and the request has left the slice (R24). -/
def State.granting (s : State) (slice : Nat) (r : CacheReq) : State :=
  ({ s with rc := { s.rc with grant := sput 16 s.rc.grant (s.reqBank r) slice } } : State).updSlice slice fun x => { x with reqs := x.reqs.erase r }

/-- A request of a class with no way in service in its set is counted (R259). -/
def State.noteNoWays (s : State) (r : CacheReq) : State :=
  if s.noWays (setOf (lineNo (localOf r.line))) (s.classMask r.cls) then s.countEngine r.cls 1 else s

/-- The sectors that a way holds of a request have been returned, and its bank group has worked (R255, R442). -/
def State.served (s : State) (r : CacheReq) (x : Way) : State :=
  (s.unitWork (20 + groupOf (setOf (lineNo (localOf r.line)))) (maskBits r.who.mask).length).serveHeld r x

theorem exec_rowCacheRequest (slice : Fin 16) (e : EccEvent) (s : State) : exec (.rowCacheRequest slice e) s = execRowCacheRequest slice e s := rfl

theorem rowCacheRequest_unlocked (slice : Fin 16) (e : EccEvent) (s : State) (hc : s.boot.coreLocked = false) :
    exec (.rowCacheRequest slice e) s = .next s := by
  simp [exec_rowCacheRequest, execRowCacheRequest, actSWhen, hc]

/-- The oldest request of a slice that can go on is granted when its turn has come, and stays otherwise (R24). -/
theorem rowCacheRequest_head (slice : Fin 16) (e : EccEvent) (s : State) (r : CacheReq) (ha : s.alive = true)
    (hr : s.headReq slice.val = some r) (hc : s.boot.coreLocked = true) :
    exec (.rowCacheRequest slice e) s =
      .next (if s.itsTurn slice.val (s.reqBank r) then (s.granting slice r).cacheRequest r e else s).settle := by
  rw [exec_rowCacheRequest, execRowCacheRequest, actSWhen_of _ _ _ ha hc, hr]
  rfl

section Request

variable (s : State) (r : CacheReq)


/-- A request without an error whose sectors a way holds is a hit: it becomes the most recent of its set (R255, R262). -/
theorem cacheRequest_hit (w : Nat) (hw : (s.noteNoWays r).lookup (localOf r.line) = some w)
    (hm : ((s.noteNoWays r).way (setOf (lineNo (localOf r.line))) w).missing r.who.mask = 0) :
    s.cacheRequest r .none =
      (((s.noteNoWays r).served r ((s.noteNoWays r).way (setOf (lineNo (localOf r.line))) w)).touch (setOf (lineNo (localOf r.line))) w).countReq
        r true := by
  unfold State.noteNoWays at hw hm
  unfold State.cacheRequest
  dsimp only [State.requestErrors]
  rw [hw]
  exact if_pos hm

/-- Sectors that a way lacks are asked of memory alone where map-out has disabled the way (R256, R277). -/
theorem cacheRequest_wayOut (w : Nat) (hw : (s.noteNoWays r).lookup (localOf r.line) = some w) :
    let x := (s.noteNoWays r).way (setOf (lineNo (localOf r.line))) w
    let z := (s.noteNoWays r).served r x
    x.missing r.who.mask ≠ 0 → z.wayOut (setOf (lineNo (localOf r.line))) w = true →
    s.cacheRequest r .none = (z.countReq r false).askDirect r (s.stream r.who.stream).arch.cmd (x.missing r.who.mask) := by
  intro x z hm ho
  unfold State.noteNoWays at hw
  unfold State.cacheRequest
  dsimp only [State.requestErrors]
  rw [hw]
  exact (if_neg hm).trans (if_pos ho)

/-- Sectors that a way in service lacks are waited for, the way locked (R256, R257). -/
theorem cacheRequest_sectorMiss (w : Nat) (hw : (s.noteNoWays r).lookup (localOf r.line) = some w) :
    let x := (s.noteNoWays r).way (setOf (lineNo (localOf r.line))) w
    let z := (s.noteNoWays r).served r x
    x.missing r.who.mask ≠ 0 → z.wayOut (setOf (lineNo (localOf r.line))) w = false →
    s.cacheRequest r .none =
      ((z.setWay (setOf (lineNo (localOf r.line))) w { x with lock := true }).countReq r false).wantSectors r
        (s.stream r.who.stream).arch.cmd w (x.missing r.who.mask) := by
  intro x z hm ho
  unfold State.noteNoWays at hw
  unfold State.cacheRequest
  dsimp only [State.requestErrors]
  rw [hw]
  exact (if_neg hm).trans (if_neg (Bool.eq_false_iff.mp ho))

/-- A request without an error whose line no way holds, and which may not allocate, asks memory alone (R259, R265). -/
theorem cacheRequest_direct (hl : (s.noteNoWays r).lookup (localOf r.line) = none)
    (hd : ((s.noteNoWays r).countReq r false).goesDirect r = true) :
    s.cacheRequest r .none = ((s.noteNoWays r).countReq r false).askDirect r (s.stream r.who.stream).arch.cmd r.who.mask := by
  unfold State.noteNoWays at hl hd
  unfold State.cacheRequest
  dsimp only [State.requestErrors]
  rw [hl]
  exact if_pos hd

/-- A request without an error whose line no way holds takes the victim's way, locked for its class, and asks for its sectors (R256, R257). -/
theorem cacheRequest_allocates (z : State) (w : Nat) (hl : (s.noteNoWays r).lookup (localOf r.line) = none)
    (hd : ((s.noteNoWays r).countReq r false).goesDirect r = false)
    (hv : ((s.noteNoWays r).countReq r false).victim (setOf (lineNo (localOf r.line))) (((s.noteNoWays r).countReq r false).classMask r.cls) =
      (z, some w)) :
    s.cacheRequest r .none =
      let a := localOf r.line
      let x := (z.evict (setOf (lineNo a)) w (z.partOf r.cmdCtx)).setWay (setOf (lineNo a)) w
        { cls := r.cls, tag := tagOf (lineNo a), shared := r.shared, reg := r.shared, lock := true }
      (if r.shared then x.send (.register r.line) else x).openFill r (s.stream r.who.stream).arch.cmd w r.who.mask := by
  unfold State.noteNoWays at hl hd hv
  unfold State.cacheRequest
  dsimp only [State.requestErrors]
  rw [hl]
  dsimp only
  rw [if_neg (by simp [hd]), hv]

end Request

/-- Settles O46: one lemma for each way that `State.cacheRequest` ends. -/
theorem cacheRequestsHitOrAllocate : Obligations.CacheRequestsHitOrAllocate := by
  intro s slice r ha hr b u a set cmd v y
  refine ⟨rowCacheRequest_unlocked slice .none s, fun hc ht => ?_, fun hc ht => ?_⟩
  · rw [rowCacheRequest_head slice .none s r ha hr hc, ht]
    rfl
  have hgo : exec (.rowCacheRequest slice .none) s = .next (u.cacheRequest r .none).settle := by
    rw [rowCacheRequest_head slice .none s r ha hr hc, ht]
    rfl
  rw [hgo]
  refine ⟨fun w hw => ?_, fun hl hd => ?_, fun z w hl hd hv => ?_⟩
  · refine ⟨fun hm => ?_, fun hm ho => ?_, fun hm ho => ?_⟩
    · rw [cacheRequest_hit u r w hw hm]
      rfl
    · rw [cacheRequest_sectorMiss u r w hw hm ho]
      rfl
    · rw [cacheRequest_wayOut u r w hw hm ho]
      rfl
  · rw [cacheRequest_direct u r hl hd]
    rfl
  · rw [cacheRequest_allocates u r z w hl hd hv]

end Sys2Proof.Machine

namespace Sys2Proof.Machine

/-! ## Counters of cycles (R442, R445): what a capture adds to each counter -/

theorem splitCycles_length (n fresh k : Nat) : (splitCycles n fresh k).length = k := by
  induction k generalizing n fresh with
  | zero => rfl
  | succ k ih =>
    cases k with
    | zero => rfl
    | succ k => simp [splitCycles, ih]

/-- Each cycle falls in one counter. -/
theorem splitCycles_sum (n fresh k : Nat) : (splitCycles n fresh (k + 1)).sum = n := by
  induction k generalizing n fresh with
  | zero => simp [splitCycles]
  | succ k ih =>
    have := Nat.mod_lt (Config.free fresh) (show n + 1 > 0 by omega)
    simp only [splitCycles, List.sum_cons, ih]
    omega

/-- What a list of amounts, for the first counters of an object, adds at a key. -/
def cyclesAt (group obj : Nat) (l : List Nat) (key : Nat) : Nat :=
  (l.zipIdx.map fun e => if ctrKey group obj e.2 = key then e.1 else 0).sum

/-- A fold whose every step adds to the value at a key adds their sum. -/
theorem sget_foldl_add {α : Type} (f : Sparse Nat → α → Sparse Nat) (d : α → Nat) (key : Nat)
    (h : ∀ cs a, sget 0 (f cs a) key = sget 0 cs key + d a) (l : List α) (cs : Sparse Nat) :
    sget 0 (l.foldl f cs) key = sget 0 cs key + (l.map d).sum := by
  induction l generalizing cs with
  | nil => rfl
  | cons a l ih => rw [List.foldl_cons, ih, h, List.map_cons, List.sum_cons, Nat.add_assoc]

theorem sget_addCycles (cs : Sparse Nat) (group obj : Nat) (l : List Nat) (key : Nat) :
    sget 0 (addCycles cs group obj l) key = sget 0 cs key + cyclesAt group obj l key := by
  refine sget_foldl_add _ _ key (fun cs e => ?_) l.zipIdx cs
  split
  · next h0 => simp [h0]
  · rw [sget_sinsert]
    split
    · next hk => rw [hk]
    · rfl

theorem cyclesAt_of_ne (group obj : Nat) (l : List Nat) (key : Nat) (h : ∀ i < l.length, ctrKey group obj i ≠ key) :
    cyclesAt group obj l key = 0 := by
  refine List.sum_eq_zero fun n hn => ?_
  obtain ⟨e, he, rfl⟩ := List.mem_map.mp hn
  exact if_neg (h e.2 (List.snd_lt_of_mem_zipIdx he))

theorem cyclesAt_self (group obj : Nat) (l : List Nat) (i : Nat) : cyclesAt group obj l (ctrKey group obj i) = l.getD i 0 := by
  have hkey (j : Nat) : ctrKey group obj j = ctrKey group obj i ↔ j = i := by unfold ctrKey; omega
  have hfrom (n : Nat) : ((l.zipIdx n).map fun e => if e.2 = i then e.1 else 0).sum = if n ≤ i then l.getD (i - n) 0 else 0 := by
    induction l generalizing n with
    | nil => simp
    | cons x l ih =>
      rw [List.zipIdx_cons, List.map_cons, List.sum_cons, ih]
      obtain h | rfl | h := Nat.lt_trichotomy n i
      · rw [if_neg (by omega), if_pos (by omega), if_pos (by omega), show i - n = i - (n + 1) + 1 by omega]
        simp
      · simp
      · rw [if_neg (by omega), if_neg (by omega), if_neg (by omega)]
  unfold cyclesAt
  simp only [hkey]
  rw [hfrom 0]
  simp

/-- The cycles of a unit since the last capture, split among its first counters; none while its clock does not run. -/
def State.unitCycles (s : State) (k : Nat) : List Nat :=
  if s.unitRuns k then splitCycles (s.cyclesOf (counterDomain k) - s.clocks.counted.get (counterDomain k).num) (s.fresh + 11 * k) 11 else []

theorem unitCycles_length (s : State) (k : Nat) : (s.unitCycles k).length ≤ 11 := by
  unfold State.unitCycles
  split
  · rw [splitCycles_length]
  · simp

/-- The cycles of a stream since the last capture, split among its first counters. -/
def State.streamCycles (s : State) (k : Nat) : List Nat :=
  let n := s.cyclesOf .core - s.clocks.counted.get Domain.core.num
  let f := s.fresh + 11 * (84 + k)
  (splitCycles n f 3).take 2 ++ (splitCycles n (f + 2) 10).take 9

theorem accrue_counters (s : State) :
    s.accrue.counters = (List.range 128).foldl (fun cs k => addCycles cs 1 k (s.streamCycles k))
      ((List.range 84).foldl (fun cs k => addCycles cs 0 k (s.unitCycles k)) s.counters) := by
  have hunit (cs : Sparse Nat) (k : Nat) : addCycles cs 0 k (s.unitCycles k) =
      if s.unitRuns k then
        addCycles cs 0 k (splitCycles (s.cyclesOf (counterDomain k) - s.clocks.counted.get (counterDomain k).num) (s.fresh + 11 * k) 11)
      else cs := by
    unfold State.unitCycles
    split <;> rfl
  simp only [hunit, State.accrue, State.streamCycles]

/-- A counter after a capture. -/
theorem ctr_accrue (s : State) (group obj i : Nat) :
    s.accrue.ctr group obj i = s.ctr group obj i
      + ((List.range 84).map fun k => cyclesAt 0 k (s.unitCycles k) (ctrKey group obj i)).sum
      + ((List.range 128).map fun k => cyclesAt 1 k (s.streamCycles k) (ctrKey group obj i)).sum := by
  unfold State.ctr
  rw [accrue_counters, sget_foldl_add _ _ _ fun cs k => sget_addCycles cs 1 k (s.streamCycles k) _,
    sget_foldl_add _ _ _ fun cs k => sget_addCycles cs 0 k (s.unitCycles k) _]

/-- No counter falls at a capture. -/
theorem ctr_le_accrue (s : State) (group obj i : Nat) : s.ctr group obj i ≤ s.accrue.ctr group obj i := by
  rw [ctr_accrue]
  omega

/-- The counter of a unit takes its share of the unit's cycles. -/
theorem unitCtr_accrue (s : State) (k i : Nat) (hk : k < 84) (hi : i < 64) : s.accrue.ctr 0 k i = s.ctr 0 k i + (s.unitCycles k).getD i 0 := by
  have hothers : ∀ j, j ≠ k → cyclesAt 0 j (s.unitCycles j) (ctrKey 0 k i) = 0 := fun j hj =>
    cyclesAt_of_ne _ _ _ _ fun n hn => by
      have := unitCycles_length s j
      unfold ctrKey
      omega
  have hstreams : ∀ j, cyclesAt 1 j (s.streamCycles j) (ctrKey 0 k i) = 0 := fun j =>
    cyclesAt_of_ne _ _ _ _ fun n hn => by
      unfold ctrKey
      omega
  rw [ctr_accrue, List.sum_map_eq_nsmul_single k _ fun j hj _ => hothers j hj,
    List.count_eq_one_of_mem List.nodup_range (List.mem_range.mpr hk), cyclesAt_self]
  simp [hstreams]

/-- The amounts of a list by their index. -/
theorem sum_getD_range (l : List Nat) : ((List.range l.length).map fun i => l.getD i 0).sum = l.sum := by
  congr 1
  refine List.ext_getElem (by simp) fun i hi hi' => ?_
  simp [hi']

theorem unitCtrs_accrue_sum (s : State) (k : Nat) (hk : k < 84) (hr : s.unitRuns k = true) :
    ((List.range 11).map (s.accrue.ctr 0 k)).sum =
      ((List.range 11).map (s.ctr 0 k)).sum + (s.cyclesOf (counterDomain k) - s.clocks.counted.get (counterDomain k).num) := by
  have hl : s.unitCycles k = splitCycles (s.cyclesOf (counterDomain k) - s.clocks.counted.get (counterDomain k).num) (s.fresh + 11 * k) 11 :=
    if_pos hr
  have hsum := sum_getD_range (s.unitCycles k)
  rw [hl, splitCycles_length, splitCycles_sum] at hsum
  rw [← hsum, ← List.sum_map_add]
  refine congrArg List.sum (List.map_congr_left fun i hi => ?_)
  rw [unitCtr_accrue s k i hk (by have := List.mem_range.mp hi; omega), hl]

/-- The entries of a context's selector (R446). -/
theorem selEntries_context (cs : Sparse Nat) (own i : Nat) (h0 : 0 < i) (h : i < 2 ^ 12) :
    selEntries cs own (2 * 2 ^ 12 + i) = (List.range 16).map fun k => sget 0 cs (ctrKey 2 i k) := by
  have hg : (2 * 2 ^ 12 + i) / 2 ^ 12 = 2 := by omega
  have hi : (2 * 2 ^ 12 + i) % 2 ^ 12 = i := by omega
  unfold selEntries
  dsimp only
  rw [hg, hi]
  simp [objectEntries, Nat.ne_of_gt h0]

/-! ## Requesters (R459, R461) -/

theorem requester_num_injective : Function.Injective Requester.num := by
  intro r q h
  cases r <;> cases q <;> grind [Requester.num]

/-- A requester's state that is not the reset one reads back, and every other requester's stays. -/
theorem reqState_updReq (s : State) (r q : Requester) (f : ReqState → ReqState) (hv : f (s.reqState r) ≠ {}) :
    (s.updReq r f).reqState q = if r = q then f (s.reqState r) else s.reqState q := by
  show sget {} (sput {} s.req r.num (f (s.reqState r))) q.num = _
  rw [sput, if_neg hv, sget_sinsert]
  simp only [requester_num_injective.eq_iff]
  rfl

/-- A capture is its requester's alone, of one instant (R35, R459). -/
theorem reqState_capture (s : State) (r q : Requester) :
    (s.capture r).reqState q =
      if r = q then { s.reqState r with capture := { time := s.now .ctl, counters := s.accrue.counters, taken := true } } else s.reqState q := by
  refine reqState_updReq s.accrue r q _ fun h => ?_
  exact Bool.noConfusion (congrArg (fun x => x.capture.taken) h)

/-! ## The checks of a handler (R477) -/

theorem field_one_of_zeroRange (b : List Byte) (off n i : Nat) (h : zeroRange b off n = true) (hi : i < n) : field b (off + i) 1 = 0 := by
  cases hd : b.drop (off + i) with
  | nil => simp [field, hd, leNat]
  | cons x rest =>
    have hx : ((b.drop off).take n)[i]? = some x := by
      rw [List.getElem?_take, if_pos hi, List.getElem?_drop, ← List.head?_drop, hd]
      rfl
    have h0 : x = 0 := by simpa using List.all_eq_true.mp h x (List.mem_of_getElem? hx)
    simp [field, hd, leNat, h0]

theorem reservedRule_of_zeroRange (b : List Byte) (off n : Nat) (h : zeroRange b off n = true) : reservedRule b off n = ⟨true, 0x8000 + off, 0⟩ := by
  have hn : (List.range n).find? (fun i => field b (off + i) 1 ≠ 0) = none :=
    List.find?_eq_none.mpr fun i hi => by simp [field_one_of_zeroRange b off n i h (List.mem_range.mp hi)]
  unfold reservedRule
  rw [hn]

theorem plinth_of_allowed (s : State) (j : Job) (run : State → State) (h : s.allowed j = true) : s.plinth j true run = run s := by
  simp [State.plinth, h]

@[simp] theorem allowed_begin (s : State) (c : CmdId) (j : Job) : (s.begin c).allowed j = s.allowed j := by
  have hc : (s.begin c).contexts = s.contexts := congrArg Kept.contexts (kept_begin s c)
  simp [State.allowed, State.context?, hc]

@[simp] theorem begin_dbg (s : State) (c : CmdId) : (s.begin c).dbg = s.dbg := congrArg Kept.dbg (kept_begin s c)

/-! ## Rows of observation commands -/

section Ready

variable {s : State} {c : CmdId} {j : Job}

/-- The row of a DEBUG sub-op whose command is ready. -/
theorem debugRow_ready (sub : Nat) (run : Job → State → State) (h : ReadyOp s c j opDebug) (hs : field j.block 0 1 = sub) :
    debugRow s c sub run = .next (run j (s.begin c)).settle := by
  unfold debugRow
  rw [actS_alive _ _ h.1.1, runCmd_ready s c j _ run h.1]
  simp [Job.isOp, h.2, hs]

/-- A command that has no work item of its own yet. -/
theorem Ready.noItems (h : Ready s c j) : ((s.begin c).items.all fun w => w.cmd != c) = true := by
  obtain ⟨-, -, -, -, -, -, hi⟩ := h
  rwa [begin_items]

theorem Ready.id_eq (h : Ready s c j) : j.id = c := job_id s c j h.2.1

/-- A command that ends at once, from a state with the items that it started with, leaves the part of the state that `k` is. -/
theorem endsAs_complete {i : Instr} {t : State} {k : Kept} {st : Nat} {d : ErrDetail} (h : Ready s c j)
    (he : exec i s = .next (t.complete c st d).settle) (ht : t.items = (s.begin c).items) (hk : t.kept = k) : EndsAs i s (t.complete c st d) k :=
  ⟨he, by rw [kept_settle, kept_complete t c st d (by rw [ht]; exact h.noItems), hk]⟩

/-! ### QUERY_COUNTERS, TRACE_CTL, WAIT_GRAPH -/

theorem queryCounters_ready (h : ReadyOp s c j opQuery) :
    let u := (s.begin c).accrue
    let bs := queryBytes (pktOparam j.pkt) (u.now .ctl) (selEntries u.counters c.ctx (pktOparam j.pkt))
    let v := u.updJob c fun j => { j with value0 := bs.length }
    exec (.queryCounters c) s = .next ((v.writeVa c (v.cmdSpace c) ((refVa (pktD2 j.pkt)).getD 0) bs).complete c).settle :=
  cmdRow_ready s c j opQuery _ h

theorem waitGraph_ready (h : ReadyOp s c j opWaitGraph) :
    let g := (s.begin c).buildGraph 0
    let v := g.1.updJob c fun j => { j with value0 := g.2.1.cycles.length }
    exec (.waitGraph c) s = .next ((v.writeVa c (v.cmdSpace c) ((refVa (pktD2 j.pkt)).getD 0) g.2.2).complete c).settle :=
  cmdRow_ready s c j opWaitGraph _ h

/-- TRACE_CTL whose block keeps the rules, and whose ring's pages could all be held (R451). -/
theorem traceCtl_ready (h : ReadyOp s c j opTraceCtl) (hr : firstBroken (traceRules j.block) = none) (n : Nat) (t : State) (pages : List Nat)
    (hn : (if field j.block 9 1 = 1 then 2 ^ field j.block 8 1 / 64 else 0) = n)
    (hp : (s.begin c).holdPages c.ctx ((List.range n).map fun i => field j.block 0 8 + 4096 * i) [] = (t, none, pages)) :
    exec (.traceCtl c) s = .next (({ t with trace := t.trace.control j.block c.ctx pages } : State).complete c).settle := by
  refine (cmdRow_ready s c j opTraceCtl _ h).trans ?_
  dsimp only
  rw [checked_ok _ _ _ _ hr, hn, hp]

/-! ### DEBUG (R457, R458) -/

theorem dbgNonce_ready (h : ReadyOp s c j opDebug) (hs : field j.block 0 1 = 0) (hz : zeroRange j.block 28 4 = true) (hw : s.allowed j = true) :
    let u := s.begin c
    let n := Config.nonce u.fresh
    let v : State := { u.took with dbg := { u.dbg with nonce := some n } }
    exec (.dbgNonce c) s = .next ((v.writeVa c (v.cmdSpace c) (field j.block 16 8) (leBytes 32 n.toNat)).complete c).settle := by
  refine (debugRow_ready 0 _ h hs).trans ?_
  dsimp only
  rw [reservedRule_of_zeroRange _ _ _ hz, checked_ok _ _ _ _ rfl, plinth_of_allowed _ _ _ (by simpa using hw)]

/-- OPEN: the gate opens for its scope and time, or the command is refused with reason 0x57 (R457). -/
theorem dbgOpen_ready (h : ReadyOp s c j opDebug) (hs : field j.block 0 1 = 1) (hz : zeroRange j.block 28 4 = true) (hw : s.allowed j = true)
    (hc : field j.block 2 2 < 2 ^ 12) (h1 : 1 ≤ field j.block 24 4) (h2 : field j.block 24 4 ≤ 86400) :
    let b := j.block
    let u := s.begin c
    let w : State := { u with dbg := { u.dbg with nonce := none } }
    exec (.dbgOpen c) s = .next (if u.openOk b then
        (({ w with dbg := { w.dbg with
          openNow := true, scope := field b 2 2, openings := sat16 (u.dbg.openings + 1), closesAt := u.time + 1000000000 * field b 24 4 } } : State).complete c)
      else w.complete c stProtection (reason 0x57)).settle := by
  refine (debugRow_ready 1 _ h hs).trans ?_
  dsimp only
  rw [reservedRule_of_zeroRange _ _ _ hz, checked_ok _ _ _ _ (by simpa [firstBroken, blockRule, h1, h2] using hc),
    plinth_of_allowed _ _ _ (by simpa using hw)]
  rfl

theorem dbgClose_ready (h : ReadyOp s c j opDebug) (hs : field j.block 0 1 = 2) (hz : zeroRange j.block 28 4 = true) (hw : s.allowed j = true) :
    exec (.dbgClose c) s = .next ((s.begin c).closeGate.complete c).settle := by
  refine (debugRow_ready 2 _ h hs).trans ?_
  rw [reservedRule_of_zeroRange _ _ _ hz, checked_ok _ _ _ _ rfl, plinth_of_allowed _ _ _ (by simpa using hw)]

theorem kept_closeGate (s : State) : s.closeGate.kept = { s.kept with dbg := { s.dbg with openNow := false } } := rfl

/-- READ while the gate is closed, or out of its scope, is refused with reason 0x57 (R458). -/
theorem dbgRead_refused (h : ReadyOp s c j opDebug) (hs : field j.block 0 1 = 3)
    (hg : (s.begin c).dbg.openNow = false ∨ (s.begin c).inScope (field j.block 1 1) (field j.block 4 4) = false) :
    exec (.dbgRead c) s = .next ((s.begin c).complete c stProtection (reason 0x57)).settle := by
  refine (debugRow_ready 3 _ h hs).trans ?_
  dsimp only
  rw [if_pos hg]
  rfl

/-- READ in the gate's scope is checked by the rules of its block (R458). -/
theorem dbgRead_inScope (h : ReadyOp s c j opDebug) (hs : field j.block 0 1 = 3) (ho : (s.begin c).dbg.openNow = true)
    (hi : (s.begin c).inScope (field j.block 1 1) (field j.block 4 4) = true) :
    let b := j.block
    let u := s.begin c
    exec (.dbgRead c) s = .next (u.checked j
      [blockRule b 1 1 (fun v => decide (1 ≤ v) && decide (v ≤ 8)), blockRule b 4 4 (fun v => decide (v < spaceSize (field b 1 1))),
        blockRule b 12 4 (fun v => decide (v ≤ 65536)), reservedRule b 28 4] fun s =>
          let known := ((s.spaceBytes (field b 1 1) (field b 4 4) s.dbg.scope).drop (field b 8 4)).take (field b 12 4)
          let t := s.tookN (65536 + 512)
          (t.writeVa c (t.cmdSpace c) (field b 16 8) (known ++ openBytes s.fresh (field b 12 4 - known.length))).complete c).settle := by
  refine (debugRow_ready 3 _ h hs).trans ?_
  dsimp only
  rw [if_neg (by simpa [hi] using ho)]

/-- READ that keeps the rules (R458). -/
theorem dbgRead_ready (h : ReadyOp s c j opDebug) (hs : field j.block 0 1 = 3) (hz : zeroRange j.block 28 4 = true)
    (ho : (s.begin c).dbg.openNow = true) (hi : (s.begin c).inScope (field j.block 1 1) (field j.block 4 4) = true) (h1 : 1 ≤ field j.block 1 1)
    (h8 : field j.block 1 1 ≤ 8) (hx : field j.block 4 4 < spaceSize (field j.block 1 1)) (hn : field j.block 12 4 ≤ 65536) :
    let b := j.block
    let u := s.begin c
    let known := ((u.spaceBytes (field b 1 1) (field b 4 4) u.dbg.scope).drop (field b 8 4)).take (field b 12 4)
    let t := u.tookN (65536 + 512)
    exec (.dbgRead c) s =
      .next ((t.writeVa c (t.cmdSpace c) (field b 16 8) (known ++ openBytes u.fresh (field b 12 4 - known.length))).complete c).settle := by
  refine (dbgRead_inScope h hs ho hi).trans ?_
  rw [reservedRule_of_zeroRange _ _ _ hz, checked_ok _ _ _ _ (by simp [firstBroken, blockRule, h1, h8, hx, hn])]

/-- READ of an index that its space does not have (R458, R477). -/
theorem dbgRead_noIndex (h : ReadyOp s c j opDebug) (hs : field j.block 0 1 = 3) (ho : (s.begin c).dbg.openNow = true)
    (hi : (s.begin c).inScope (field j.block 1 1) (field j.block 4 4) = true) (h1 : 1 ≤ field j.block 1 1) (h8 : field j.block 1 1 ≤ 8)
    (hx : spaceSize (field j.block 1 1) ≤ field j.block 4 4) :
    exec (.dbgRead c) s = .next ((s.begin c).malformed j 0x47 0x8004 (field j.block 4 4)).settle := by
  refine (dbgRead_inScope h hs ho hi).trans ?_
  rw [checked_broken _ _ _ _ (blockRule j.block 4 4 fun v => decide (v < spaceSize (field j.block 1 1)))
    (by simp [firstBroken, blockRule, h1, h8, Nat.not_lt.mpr hx])]
  rfl

end Ready

/-! ### The watchdog and the gate's end (R456, R457) -/

/-- The watchdog has looked at the time base (R456). -/
def State.checkedNow (s : State) : State := { s with trace := { s.trace with lastCheck := s.time } }

theorem exec_hangCheck (s : State) : exec .hangCheck s = execHangCheck s := rfl

theorem hangCheck_noWait (s : State) (ha : s.alive = true) (hr : s.isReady = true) (hd : s.trace.lastCheck + 1000000 ≤ s.time)
    (hw : s.trace.waits = []) : exec .hangCheck s = .next s.checkedNow := by
  rw [exec_hangCheck, execHangCheck, actWhen_of _ _ _ ha (by simp [hr, hd])]
  dsimp only
  split
  · rfl
  · next hw' => exact absurd (hw.symm.trans hw') (List.cons_ne_nil _ _).symm

/-- The oldest wait is compared with HANG_MS, and reported unless it has been (R456). -/
theorem hangCheck_oldest (s : State) (ha : s.alive = true) (hr : s.isReady = true) (hd : s.trace.lastCheck + 1000000 ≤ s.time) (w : Wait)
    (rest : List Wait) (hw : s.trace.waits = w :: rest) :
    exec .hangCheck s = .next (
      if s.trace.hangMs ≠ 0 ∧ w.start + 1000000 * s.trace.hangMs ≤ s.time ∧ s.trace.reported ≠ some w then s.checkedNow.reportHang w
      else s.checkedNow) := by
  rw [exec_hangCheck, execHangCheck, actWhen_of _ _ _ ha (by simp [hr, hd])]
  dsimp only
  split
  · next hw' => exact absurd (hw.symm.trans hw') (List.cons_ne_nil _ _)
  · next hw' =>
    cases hw.symm.trans hw'
    rfl

theorem hangCheck_early (s : State) (h : s.time < s.trace.lastCheck + 1000000) : exec .hangCheck s = .next s := by
  simp [exec, execHangCheck, actWhen, Nat.not_le.mpr h]

theorem gateExpiry_due (s : State) (ha : s.alive = true) (ho : s.dbg.openNow = true) (ht : s.dbg.closesAt ≤ s.time) :
    exec .gateExpiry s = .next s.closeGate :=
  actWhen_of s _ _ ha (by simp [ho, ht])

theorem gateExpiry_early (s : State) (h : s.dbg.openNow = false ∨ s.time < s.dbg.closesAt) : exec .gateExpiry s = .next s := by
  have hc : (s.dbg.openNow && decide (s.dbg.closesAt ≤ s.time)) = false := by
    rcases h with h | h
    · simp [h]
    · simp [Nat.not_le.mpr h]
  simp [exec, execGateExpiry, actWhen, hc]

/-- WORK of a unit is a counter of events: a capture leaves it (R442). -/
theorem unitCtr_accrue_work (s : State) (k : Nat) (hk : k < 84) : s.accrue.ctr 0 k 11 = s.ctr 0 k 11 := by
  have hl : (s.unitCycles k).getD 11 0 = 0 := List.getD_eq_default _ _ (unitCycles_length s k)
  rw [unitCtr_accrue s k 11 hk (by omega), hl, Nat.add_zero]

/-! ### The statement -/

/-- Settles O59: one lemma for each row, from the frame of a command that is ready. -/
theorem observationCommands : Obligations.ObservationCommands := by
  refine ⟨fun s c j r q => ⟨queryCounters_ready, fun hw => ?_, fun i h0 h => selEntries_context _ _ i h0 h, fun k hk hr => ?_⟩,
    fun s c j => ⟨fun h hb he => ?_, fun pages h hb he hp => ?_, waitGraph_ready, fun ha hr hd => ?_, hangCheck_early s⟩,
    fun s c j sub h hs hz hw => ?_, fun s ha => ⟨gateExpiry_due s ha, gateExpiry_early s⟩⟩
  · refine ⟨s.capture r, actReg_written s 0xC0000 r (·.capture r) hw, ?_, rfl, rfl, rfl, fun hq => ?_⟩
    · rw [reqState_capture, if_pos rfl]
    · rw [reqState_capture, if_neg (Ne.symm hq)]
  · refine ⟨?_, ?_, fun i => ctr_le_accrue s 0 k i⟩
    · rw [unitCtrs_accrue_sum s k hk hr]
      omega
    · exact unitCtr_accrue_work s k hk
  · exact endsAs_complete h.1 (traceCtl_ready h hb 0 (s.begin c) [] (if_neg (by omega)) rfl) rfl (kept_begin s c)
  · exact traceCtl_ready h hb _ _ pages (if_pos he) (Prod.ext rfl hp)
  · refine ⟨hangCheck_noWait s ha hr hd, fun w rest hw hno => ?_, fun w rest hw hm ht hn => ?_⟩
    · have hnone : ¬ (s.trace.hangMs ≠ 0 ∧ w.start + 1000000 * s.trace.hangMs ≤ s.time ∧ s.trace.reported ≠ some w) := by
        rintro ⟨hm, ht, hn⟩
        rcases hno with h | h | h
        · exact hm h
        · omega
        · exact hn h
      rw [hangCheck_oldest s ha hr hd w rest hw, if_neg hnone]
      rfl
    · rw [hangCheck_oldest s ha hr hd w rest hw, if_pos ⟨hm, ht, hn⟩]
      rfl
  · refine ⟨?_, ?_, ?_, ?_, ?_, ?_⟩
    · rintro rfl
      exact dbgNonce_ready h hs hz hw
    · rintro rfl hc h1 h2
      exact dbgOpen_ready h hs hz hw hc h1 h2
    · rintro rfl
      exact endsAs_complete h.1 (dbgClose_ready h hs hz hw) rfl ((kept_closeGate (s.begin c)).trans (by rw [kept_begin, begin_dbg]))
    · rintro rfl hg
      exact endsAs_complete h.1 (dbgRead_refused h hs hg) rfl (kept_begin s c)
    · rintro rfl ho hi h1 h8 hx hn
      exact dbgRead_ready h hs hz ho hi h1 h8 hx hn
    · rintro ⟨rfl, ho, hi⟩ hx h1 h8
      have hend := dbgRead_noIndex h hs ho hi h1 h8 hx
      rw [State.malformed, h.1.id_eq] at hend ⊢
      exact endsAs_complete h.1 hend rfl (kept_begin s c)

end Sys2Proof.Machine

namespace Sys2Proof.Machine

/-! ## Words of stream instructions: the fields that each format of R93 gives back -/

section Formats

variable {op d a b low imm t lc port chk count last : Nat}

/-- A field at the bottom of a word, or a part of it. -/
theorem add_mul_mod_of_dvd {n m : Nat} (hm : m ∣ n) (x y : Nat) : (x * n + y) % m = y % m := by
  rw [Nat.add_mod, Nat.mod_eq_zero_of_dvd (hm.mul_left x), Nat.zero_add, Nat.mod_mod]

/-! ### RR: opcode, d, a, b, low -/

section RR
variable (ho : op < 64) (hd : d < 16) (ha : a < 16) (hb : b < 16) (hl : low < 2 ^ 14)
include ho hd ha hb hl

theorem toNat_encRR : (encRR op d a b low).toNat = (((op * 16 + d) * 16 + a) * 16 + b) * 2 ^ 14 + low := by
  rw [encRR, BitVec.toNat_ofNat]; omega

theorem opcode_encRR : (encRR op d a b low).toNat / 2 ^ 26 = op := by
  have h := toNat_encRR ho hd ha hb hl
  omega

theorem fD_encRR : fD (encRR op d a b low) = ⟨d, hd⟩ := by
  have h := toNat_encRR ho hd ha hb hl
  exact Fin.ext (show _ / 2 ^ 22 % 16 = d by omega)

theorem fA_encRR : fA (encRR op d a b low) = ⟨a, ha⟩ := by
  have h := toNat_encRR ho hd ha hb hl
  exact Fin.ext (show _ / 2 ^ 18 % 16 = a by omega)

theorem fB_encRR : fB (encRR op d a b low) = ⟨b, hb⟩ := by
  have h := toNat_encRR ho hd ha hb hl
  exact Fin.ext (show _ / 2 ^ 14 % 16 = b by omega)

theorem low_encRR (m : Nat) (hm : m ∣ 2 ^ 14) : (encRR op d a b low).toNat % m = low % m := by
  rw [toNat_encRR ho hd ha hb hl, add_mul_mod_of_dvd hm]

theorem kindWidth_encRR : (encRR op d a b low).toNat / 2 ^ 4 % 4 = low / 2 ^ 4 % 4 := by
  have h := toNat_encRR ho hd ha hb hl
  omega

end RR

/-! ### RI: opcode, d, a, immediate of 18 bits -/

section RI
variable (ho : op < 64) (hd : d < 16) (ha : a < 16) (hi : imm < 2 ^ 18)
include ho hd ha hi

theorem toNat_encRI : (encRI op d a imm).toNat = ((op * 16 + d) * 16 + a) * 2 ^ 18 + imm := by
  rw [encRI, BitVec.toNat_ofNat]; omega

theorem opcode_encRI : (encRI op d a imm).toNat / 2 ^ 26 = op := by
  have h := toNat_encRI ho hd ha hi
  omega

theorem fD_encRI : fD (encRI op d a imm) = ⟨d, hd⟩ := by
  have h := toNat_encRI ho hd ha hi
  exact Fin.ext (show _ / 2 ^ 22 % 16 = d by omega)

theorem fA_encRI : fA (encRI op d a imm) = ⟨a, ha⟩ := by
  have h := toNat_encRI ho hd ha hi
  exact Fin.ext (show _ / 2 ^ 18 % 16 = a by omega)

theorem imm_encRI (m : Nat) (hm : m ∣ 2 ^ 18) : (encRI op d a imm).toNat % m = imm % m := by
  rw [toNat_encRI ho hd ha hi, add_mul_mod_of_dvd hm]

end RI

/-! ### LI: opcode, d, immediate of 22 bits -/

section LI
variable (ho : op < 64) (hd : d < 16) (hi : imm < 2 ^ 22)
include ho hd hi

theorem toNat_encLI : (encLI op d imm).toNat = (op * 16 + d) * 2 ^ 22 + imm := by
  rw [encLI, BitVec.toNat_ofNat]; omega

theorem opcode_encLI : (encLI op d imm).toNat / 2 ^ 26 = op := by
  have h := toNat_encLI ho hd hi
  omega

theorem fD_encLI : fD (encLI op d imm) = ⟨d, hd⟩ := by
  have h := toNat_encLI ho hd hi
  exact Fin.ext (show _ / 2 ^ 22 % 16 = d by omega)

theorem imm_encLI (m : Nat) (hm : m ∣ 2 ^ 22) : (encLI op d imm).toNat % m = imm % m := by
  rw [toNat_encLI ho hd hi, add_mul_mod_of_dvd hm]

theorem pos_encLI : (encLI op d imm).toNat / 2 ^ 20 % 4 = imm / 2 ^ 20 := by
  have h := toNat_encLI ho hd hi
  omega

end LI

/-! ### BR: opcode, a, b, target; a branch's registers stand where d and a stand elsewhere -/

section BR
variable (ho : op < 64) (ha : a < 16) (hb : b < 16) (ht : t < 2 ^ 6)
include ho ha hb ht

theorem toNat_encBR : (encBR op a b t).toNat = ((op * 16 + a) * 16 + b) * 2 ^ 18 + t := by
  rw [encBR, BitVec.toNat_ofNat]; omega

theorem opcode_encBR : (encBR op a b t).toNat / 2 ^ 26 = op := by
  have h := toNat_encBR ho ha hb ht
  omega

theorem fD_encBR : fD (encBR op a b t) = ⟨a, ha⟩ := by
  have h := toNat_encBR ho ha hb ht
  exact Fin.ext (show _ / 2 ^ 22 % 16 = a by omega)

theorem fA_encBR : fA (encBR op a b t) = ⟨b, hb⟩ := by
  have h := toNat_encBR ho ha hb ht
  exact Fin.ext (show _ / 2 ^ 18 % 16 = b by omega)

theorem target_encBR : (encBR op a b t).toNat % 2 ^ 6 = t := by
  have h := toNat_encBR ho ha hb ht
  omega

end BR

/-! ### PT: opcode, d, port, check -/

section PT
variable (ho : op < 64) (hd : d < 16) (hp : port < 4) (hc : chk < 2)
include ho hd hp hc

theorem toNat_encPT : (encPT op d port chk).toNat = (((op * 16 + d) * 4 + port) * 2 + chk) * 2 ^ 19 := by
  rw [encPT, BitVec.toNat_ofNat]; omega

theorem opcode_encPT : (encPT op d port chk).toNat / 2 ^ 26 = op := by
  have h := toNat_encPT ho hd hp hc
  omega

theorem fD_encPT : fD (encPT op d port chk) = ⟨d, hd⟩ := by
  have h := toNat_encPT ho hd hp hc
  exact Fin.ext (show _ / 2 ^ 22 % 16 = d by omega)

theorem fPort_encPT : fPort (encPT op d port chk) = ⟨port, hp⟩ := by
  have h := toNat_encPT ho hd hp hc
  exact Fin.ext (show _ / 2 ^ 20 % 4 = port by omega)

theorem chk_encPT : (encPT op d port chk).toNat / 2 ^ 19 % 2 = chk := by
  have h := toNat_encPT ho hd hp hc
  omega

end PT

/-! ### LP: loop counter, form, register, count, end -/

section LP
variable (hc : lc < 3) (hi : imm < 2) (ha : a < 16) (hn : count < 2 ^ 13) (hl : last < 2 ^ 6)
include hc hi ha hn hl

theorem toNat_encLP : (encLP lc imm a count last).toNat = ((((0x28 * 4 + lc) * 2 + imm) * 16 + a) * 2 ^ 13 + count) * 2 ^ 6 + last := by
  rw [encLP, BitVec.toNat_ofNat]; omega

theorem opcode_encLP : (encLP lc imm a count last).toNat / 2 ^ 26 = 0x28 := by
  have h := toNat_encLP hc hi ha hn hl
  omega

theorem counter_encLP : (encLP lc imm a count last).toNat / 2 ^ 24 % 4 = lc := by
  have h := toNat_encLP hc hi ha hn hl
  omega

theorem form_encLP : (encLP lc imm a count last).toNat / 2 ^ 23 % 2 = imm := by
  have h := toNat_encLP hc hi ha hn hl
  omega

theorem fLpA_encLP : fLpA (encLP lc imm a count last) = ⟨a, ha⟩ := by
  have h := toNat_encLP hc hi ha hn hl
  exact Fin.ext (show _ / 2 ^ 19 % 16 = a by omega)

theorem count_encLP : (encLP lc imm a count last).toNat / 2 ^ 6 % 2 ^ 13 = count := by
  have h := toNat_encLP hc hi ha hn hl
  omega

theorem last_encLP : (encLP lc imm a count last).toNat % 2 ^ 6 = last := by
  have h := toNat_encLP hc hi ha hn hl
  omega

end LP

end Formats

theorem bit1_lt (b : Bool) : bit1 b < 2 := by cases b <;> decide

theorem bit1_beq_one (b : Bool) : (bit1 b == 1) = b := by cases b <;> rfl

/-- Every operand of a word is read back from its field, whether or not the instruction is well formed. -/
theorem fieldsS_encodeS (i : SInstr) : fieldsS (encodeS i) = some i := by
  cases i with
  | mov d a => simp (disch := omega) only [encodeS, fieldsS, opcode_encRR, fD_encRR, fA_encRR]
  | add d a b | sub d a b | mul d a b | mulhu d a b | and d a b | or d a b | xor d a b | minu d a b | shl d a b | shr d a b | chkr d a b =>
    simp (disch := omega) only [encodeS, fieldsS, opcode_encRR, fD_encRR, fA_encRR, fB_encRR]
  | hmul d a b sh =>
    simp (disch := omega) only [encodeS, fieldsS, opcode_encRR, fD_encRR, fA_encRR, fB_encRR, fT, low_encRR, Nat.mod_eq_of_lt, BitVec.ofNat_toNat,
      BitVec.setWidth_eq]
  | cross d a b seed =>
    simp (disch := omega) only [encodeS, fieldsS, opcode_encRR, fD_encRR, fA_encRR, fB_encRR, low_encRR, Nat.mod_eq_of_lt, BitVec.ofNat_toNat,
      BitVec.setWidth_eq]
  | emit a | pref a | run a | mode a => simp (disch := omega) only [encodeS, fieldsS, opcode_encRR, fD_encRR]
  | pos d sel =>
    simp (disch := omega) only [encodeS, fieldsS, opcode_encRR, fD_encRR, low_encRR, Nat.mod_eq_of_lt, BitVec.ofNat_toNat, BitVec.setWidth_eq]
  | modet t =>
    simp (disch := omega) only [encodeS, fieldsS, opcode_encRR, low_encRR, Nat.mod_eq_of_lt, BitVec.ofNat_toNat, BitVec.setWidth_eq]
  | chks d width kind =>
    have hw : (width.toNat * 2 ^ 4 + kind.toNat) / 2 ^ 4 % 4 = width.toNat := by omega
    have hk : (width.toNat * 2 ^ 4 + kind.toNat) % 4 = kind.toNat := by omega
    simp (disch := omega) only [encodeS, fieldsS, opcode_encRR, fD_encRR, kindWidth_encRR, low_encRR, hw, hk, BitVec.ofNat_toNat,
      BitVec.setWidth_eq]
  | stop => simp (disch := omega) only [encodeS, fieldsS, opcode_encRR]
  | addi d a imm | andi d a imm =>
    simp (disch := omega) only [encodeS, fieldsS, opcode_encRI, fD_encRI, fA_encRI, imm_encRI, Nat.mod_eq_of_lt, BitVec.ofNat_toNat,
      BitVec.setWidth_eq]
  | shli d a sh | shri d a sh =>
    simp (disch := omega) only [encodeS, fieldsS, opcode_encRI, fD_encRI, fA_encRI, fT, imm_encRI, Nat.mod_eq_of_lt, BitVec.ofNat_toNat,
      BitVec.setWidth_eq]
  | hmix d a seed =>
    simp (disch := omega) only [encodeS, fieldsS, opcode_encRI, fD_encRI, fA_encRI, imm_encRI, Nat.mod_eq_of_lt, BitVec.ofNat_toNat,
      BitVec.setWidth_eq]
  | ldi d imm =>
    simp (disch := omega) only [encodeS, fieldsS, opcode_encLI, fD_encLI, imm_encLI, Nat.mod_eq_of_lt, BitVec.ofNat_toNat, BitVec.setWidth_eq]
  | ldh d imm pos =>
    have hi : (pos.toNat * 2 ^ 20 + imm.toNat) % 2 ^ 16 = imm.toNat := by omega
    have hp : (pos.toNat * 2 ^ 20 + imm.toNat) / 2 ^ 20 = pos.toNat := by omega
    simp (disch := omega) only [encodeS, fieldsS, opcode_encLI, fD_encLI, imm_encLI, pos_encLI, hi, hp, BitVec.ofNat_toNat, BitVec.setWidth_eq]
  | beq a b t | bne a b t | bltu a b t | bgeu a b t | bv a t | br t | bagend t =>
    simp (disch := omega) only [encodeS, fieldsS, opcode_encBR, fD_encBR, fA_encBR, fT, target_encBR, BitVec.ofNat_toNat, BitVec.setWidth_eq]
  | ldx d port chk =>
    have hb := bit1_lt chk
    simp (disch := omega) only [encodeS, fieldsS, opcode_encPT, fD_encPT, fPort_encPT, bitOf, chk_encPT, bit1_beq_one]
  | ldw port | len d => simp (disch := omega) only [encodeS, fieldsS, opcode_encPT, fD_encPT, fPort_encPT]
  | loop lc imm a count last =>
    have hb := bit1_lt imm
    simp (disch := omega) only [encodeS, fieldsS, opcode_encLP, counter_encLP, Fin.is_lt, dite_true, bitOf, form_encLP, bit1_beq_one, fLpA_encLP,
      count_encLP, fT, last_encLP, BitVec.ofNat_toNat, BitVec.setWidth_eq]

/-- Two stream instructions never share a word. -/
theorem encodeS_injective : Function.Injective encodeS := fun i k h => by
  have hk := fieldsS_encodeS k
  rw [← h, fieldsS_encodeS i] at hk
  exact Option.some.inj hk

theorem decodeS_eq_some_iff (w : BitVec 32) (i : SInstr) : decodeS w = some i ↔ i.wf = true ∧ encodeS i = w := by
  constructor
  · intro h
    unfold decodeS at h
    split at h
    · cases h
    · split at h
      · next k _ hk =>
        cases h
        simpa using hk
      · cases h
  · rintro ⟨hw, rfl⟩
    simp [decodeS, fieldsS_encodeS, hw]

/-- Settles O8: every field of an encoding gives its operand back, so a well-formed instruction passes the decoder's two checks. -/
theorem streamWordsRoundTrip : Obligations.StreamWordsRoundTrip := fun i hw => (decodeS_eq_some_iff _ i).mpr ⟨hw, rfl⟩

/-- Settles O9: the decoder checks its own encoding, and encodings are injective. -/
theorem streamWordsUnambiguous : Obligations.StreamWordsUnambiguous :=
  ⟨fun w i h => (decodeS_eq_some_iff w i).mp h, fun _ _ _ _ h => encodeS_injective h⟩

/-- Settles O10: fifteen words, each evaluated by the decoder. -/
theorem streamWordsFromTheTable : Obligations.StreamWordsFromTheTable := by
  unfold Obligations.StreamWordsFromTheTable
  decide

end Sys2Proof.Machine

namespace Sys2Proof.Machine

/-! ## Registers and void bits (R82, R83) -/

theorem bitOf_eq_testBit (x i : Nat) : bitOf x i = x.testBit i := by
  rw [bitOf, Nat.testBit_eq_decide_div_mod_eq, beq_eq_decide]

/-- A void bit is a bit of V. -/
theorem void_eq_getLsbD (r : Arch) (e : Fin 16) : r.void e = r.v.getLsbD e := bitOf_eq_testBit _ _

theorem getLsbD_voidSet (v : BitVec 16) (d e : Fin 16) (b : Bool) : (voidSet v d b).getLsbD e = if e = d then b else v.getLsbD e := by
  have hbit : (BitVec.ofNat 16 (2 ^ d.val)).getLsbD e = decide (e = d) := by
    rw [BitVec.getLsbD_ofNat, Nat.testBit_two_pow]
    simp [Fin.ext_iff, eq_comm]
  cases b
  · rw [voidSet, if_neg Bool.false_ne_true, BitVec.getLsbD_and, BitVec.getLsbD_not, hbit]
    by_cases h : e = d <;> simp [h]
  · rw [voidSet, if_pos rfl, BitVec.getLsbD_or, hbit]
    by_cases h : e = d <;> simp [h]

@[simp] theorem void_put (r : Arch) (d e : Fin 16) (x : BitVec 64) (b : Bool) : (r.put d x b).void e = if e = d then b else r.void e := by
  simp only [void_eq_getLsbD]
  exact getLsbD_voidSet r.v d e b

@[simp] theorem reg_put (r : Arch) (d e : Fin 16) (x : BitVec 64) (b : Bool) : (r.put d x b).reg e = if e = d then x else r.reg e := by
  simp [Arch.put, Arch.reg, Vector.getElem_set, Fin.ext_iff, eq_comm]

theorem voidSet_void (r : Arch) (d : Fin 16) : voidSet r.v d (r.void d) = r.v := by
  refine BitVec.eq_of_getLsbD_eq fun i hi => ?_
  have h := getLsbD_voidSet r.v d ⟨i, hi⟩ (r.void d)
  split at h
  · next hd => rw [h, void_eq_getLsbD, ← hd]
  · exact h

/-- An instruction that leaves Vd writes Gd alone. -/
theorem put_void (r : Arch) (d : Fin 16) (x : BitVec 64) : r.put d x (r.void d) = { r with g := r.g.set d x } := by
  rw [Arch.put, voidSet_void]

/-- An instruction that leaves Gd writes Vd alone. -/
theorem put_reg (r : Arch) (d : Fin 16) (b : Bool) : r.put d (r.reg d) b = { r with v := voidSet r.v d b } := by
  have h : r.g.set d (r.reg d) = r.g := Vector.set_getElem_self ..
  rw [Arch.put, h]

/-! ## Instructions that only compute (R83, R93 to R95) -/

/-- An instruction whose plain effect is its ALU effect computes it. -/
theorem computes_alu {st : StreamId} {c : Instr} {i : SInstr} {f : SEnv → Arch → Arch} (ha : ∀ env r, aluEff env i r = f env r)
    (he : ∀ s, exec c s = actS s (·.issuePlain st.key i)) (hp : ∀ env r, plainEff env i r = .retire (aluEff env i r).retire [] false)
    (hr : resetsBudget i = false) (hi : ∀ t, i ≠ .bagend t) : Computes st c i f :=
  computes_of st c i f he (fun env r => by rw [hp, ha]) hr hi

theorem aluEff_ldh (env : SEnv) (d : Fin 16) (imm : BitVec 16) (pos : BitVec 2) (r : Arch) : aluEff env (.ldh d imm pos) r =
    r.put d ((r.reg d &&& ~~~((0xFFFF : BitVec 64) <<< (16 * pos.toNat))) ||| (imm.zeroExtend 64 <<< (16 * pos.toNat))) (r.void d) := by
  rw [put_void]; rfl

theorem aluEff_chkr (env : SEnv) (d a b : Fin 16) (r : Arch) : aluEff env (.chkr d a b) r =
    r.put d (r.reg d) (r.void d || decide ((r.reg b).toNat ≤ (r.reg a).toNat) || r.void a || r.void b) := by
  rw [put_reg]; rfl

theorem widthBytes_toNat (width : BitVec 2) : 8 * widthBytes width.toNat = if width = 0 then 16 else if width = 1 then 32 else 64 := by
  revert width; decide

/-- The check of the low `n` bits of Gd. -/
theorem aluEff_chks (env : SEnv) (d : Fin 16) (width kind : BitVec 2) (r : Arch) (n : Nat) (hn : 8 * widthBytes width.toNat = n) :
    aluEff env (.chks d width kind) r = r.put d (r.reg d) (r.void d ||
      ((kind.getLsbD 0 && decide ((r.reg d).toNat % 2 ^ n = 2 ^ n - 1)) || (kind.getLsbD 1 && (r.reg d).getLsbD (n - 1)))) := by
  rw [put_reg, aluEff]
  simp only [allOnes, hn, bitOf_eq_testBit, beq_eq_decide]
  rfl

/-- Settles O11: the model writes each result with its void bit, and LDH and CHKR leave the half that they do not name. -/
theorem registerInstructions : Obligations.RegisterInstructions := by
  refine ⟨fun r d e x b => ⟨reg_put r d e x b, void_put r d e x b⟩, fun st d a b sh => ?_, fun st d a i22 i18 i16 pos sel sh => ?_,
    fun st d a b => computes_alu (fun env => aluEff_chkr env d a b) (fun _ => rfl) (fun _ _ => rfl) rfl nofun⟩
  · refine ⟨?_, ?_, ?_, ?_, ?_, ?_, ?_, ?_, ?_, ?_, ?_, ?_⟩ <;>
      exact computes_alu (fun _ _ => rfl) (fun _ => rfl) (fun _ _ => rfl) rfl nofun
  · refine ⟨?_, computes_alu (fun env => aluEff_ldh env d i16 pos) (fun _ => rfl) (fun _ _ => rfl) rfl nofun, ?_, ?_, ?_, ?_, ?_, ?_, ?_, ?_⟩
    case refine_7 | refine_8 | refine_9 =>
      rintro rfl
      exact computes_alu (fun _ _ => rfl) (fun _ => rfl) (fun _ _ => rfl) rfl nofun
    all_goals exact computes_alu (fun _ _ => rfl) (fun _ => rfl) (fun _ _ => rfl) rfl nofun

/-- Settles O12: the model's functions are those of R94, and crossing 0 with 1 depends on the order. -/
theorem mixingFunctions : Obligations.MixingFunctions :=
  ⟨fun _ _ _ _ _ => ⟨computes_alu (fun _ _ => rfl) (fun _ => rfl) (fun _ _ => rfl) rfl nofun,
    computes_alu (fun _ _ => rfl) (fun _ => rfl) (fun _ _ => rfl) rfl nofun⟩, 0, 1, 0, by decide⟩

/-- Settles O13, by what the check tests at each width. -/
theorem sentinelChecks : Obligations.SentinelChecks := fun _ d width kind =>
  computes_alu (fun env r => aluEff_chks env d width kind r _ (widthBytes_toNat width)) (fun _ => rfl) (fun _ _ => rfl) rfl nofun

end Sys2Proof.Machine

namespace Sys2Proof.Machine

/-! ## Stream rows at which nothing else is due -/

section Quiet
variable {s : State}

theorem NothingDue.setStream (h : NothingDue s) (k : Nat) (x : Stream) : NothingDue (s.setStream k x) := h.of_eq rfl rfl rfl rfl rfl

theorem NothingDue.closeWindow (h : NothingDue s) (k : Nat) : NothingDue (s.closeWindow k) := h.of_eq rfl rfl rfl rfl rfl

theorem NothingDue.streamWork (h : NothingDue s) (k n : Nat) : NothingDue (s.streamWork k n) := h.of_eq rfl rfl rfl rfl rfl

end Quiet

section Plain
variable {s : State} {st : StreamId} {c : Instr} {i : SInstr} {j : Job} {env : SEnv}

theorem exec_plain (he : exec c s = actS s (·.issuePlain st.key i)) (h : StreamAt s st i j env) :
    exec c s = .next (s.applyOut st.key i (plainEff env i (s.stream st.key).arch)).settle := by
  rw [he, actS_alive _ _ h.1, issuePlain_at s st i j env h]

/-- A plain instruction that retires, sends nothing and stays within the budget. -/
theorem exec_plain_retire {a : Arch} (he : exec c s = actS s (·.issuePlain st.key i)) (h : StreamAt s st i j env) (hn : NothingDue s)
    (hb : (s.stream st.key).budget + 1 < 65536) (hp : plainEff env i (s.stream st.key).arch = .retire a [] false) (hr : resetsBudget i = false)
    (hi : ∀ t, i ≠ .bagend t) :
    exec c s = .next (s.setStream st.key { s.stream st.key with arch := a, budget := (s.stream st.key).budget + 1, runningRun := false }) := by
  rw [exec_plain he h, hp, applyOut_quiet _ _ _ _ hb hr hi, settle_of_nothingDue _ (hn.setStream _ _)]

/-- A plain instruction that is a program error (R115). -/
theorem exec_plain_error {d : Nat} (he : exec c s = actS s (·.issuePlain st.key i)) (h : StreamAt s st i j env)
    (hp : plainEff env i (s.stream st.key).arch = .error d) :
    exec c s = .next (s.abortItem st.key stProgram { reason := d, value := (s.stream st.key).arch.bag }).settle := by
  rw [exec_plain he h, hp]
  rfl

end Plain

/-! ## Branches (R97) -/

section Branches
variable (st : StreamId) (a b : Fin 16) (t : BitVec 6)

theorem jumps_beq : Jumps st (.beq st a b t) (.beq a b t) (fun r => { r with pc := if r.reg a = r.reg b then t else r.pc + 1 }) :=
  jumps_of _ _ _ _ (fun _ => rfl) (fun env r => by simp only [plainEff_beq, beq_iff_eq]) rfl nofun

theorem jumps_bne : Jumps st (.bne st a b t) (.bne a b t) (fun r => { r with pc := if r.reg a = r.reg b then r.pc + 1 else t }) :=
  jumps_of _ _ _ _ (fun _ => rfl) (fun env r => by simp only [plainEff_bne, bne_iff_ne, ne_eq, ite_not]) rfl nofun

theorem jumps_bltu :
    Jumps st (.bltu st a b t) (.bltu a b t) (fun r => { r with pc := if (r.reg a).toNat < (r.reg b).toNat then t else r.pc + 1 }) :=
  jumps_of _ _ _ _ (fun _ => rfl) (fun env r => by simp only [plainEff_bltu, decide_eq_true_eq]) rfl nofun

theorem jumps_bgeu :
    Jumps st (.bgeu st a b t) (.bgeu a b t) (fun r => { r with pc := if (r.reg a).toNat < (r.reg b).toNat then r.pc + 1 else t }) :=
  jumps_of _ _ _ _ (fun _ => rfl) (fun env r => by simp only [plainEff_bgeu, decide_eq_true_eq, ← Nat.not_lt, ite_not]) rfl nofun

theorem jumps_bv : Jumps st (.bv st a t) (.bv a t) (fun r => { r with pc := if r.void a = true then t else r.pc + 1 }) :=
  jumps_of _ _ _ _ (fun _ => rfl) (fun env r => plainEff_bv env a t r) rfl nofun

theorem jumps_br : Jumps st (.br st t) (.br t) (fun r => { r with pc := t }) :=
  jumps_of _ _ _ _ (fun _ => rfl) (fun env r => plainEff_br env t r) rfl nofun

end Branches

/-! ## Loops (R96) -/

theorem loopEff_counted (r : Arch) (lc : Fin 3) (imm : Bool) (a : Fin 16) (count : BitVec 13) (last : BitVec 6)
    (h : imm = false → r.void a = false ∧ (r.reg a).toNat < 2 ^ 32) :
    loopEff r lc imm a count last = .retire (loopStart r lc (if imm then count.toNat else (r.reg a).toNat) last) [] false := by
  cases imm with
  | true => rfl
  | false =>
    obtain ⟨hv, hc⟩ := h rfl
    have hn : ¬(r.void a = true ∨ 2 ^ 32 ≤ (r.reg a).toNat) := by
      rintro (h1 | h2)
      · exact absurd h1 (by rw [hv]; decide)
      · exact absurd hc (Nat.not_lt.mpr h2)
    rw [loopEff, if_neg Bool.false_ne_true, if_neg hn, if_neg Bool.false_ne_true]

theorem loopEff_error (r : Arch) (lc : Fin 3) (a : Fin 16) (count : BitVec 13) (last : BitVec 6)
    (h : r.void a = true ∨ 2 ^ 32 ≤ (r.reg a).toNat) : loopEff r lc false a count last = .error 4 := by
  rw [loopEff, if_neg Bool.false_ne_true, if_pos h]

section LoopEnd
variable (a : Arch) (i : BitVec 6) (n : Fin 3)

/-- No loop ends at `i`. -/
theorem loopEnd_of_not_ends (h : ¬(a.lc[n].active = true ∧ a.lc[n].last = i)) : loopEnd a i n = a := by
  have hc : (a.lc[n.val].active && a.lc[n.val].last == i) = false := by simpa using h
  rw [loopEnd, dif_pos n.isLt]
  simp [hc]

theorem loopEnd_of_ends (ha : a.lc[n].active = true) (hl : a.lc[n].last = i) :
    loopEnd a i n = if a.lc[n].count - 1 ≠ 0 then { a with lc := a.lc.set n { a.lc[n] with count := a.lc[n].count - 1 }, pc := a.lc[n].start }
      else { a with lc := a.lc.set n { a.lc[n] with count := a.lc[n].count - 1, active := false } } := by
  have hc : (a.lc[n.val].active && a.lc[n.val].last == i) = true := by simpa using ⟨ha, hl⟩
  rw [loopEnd, dif_pos n.isLt]
  exact if_pos hc

/-- The last round of a loop is done. -/
theorem loopEnd_last (ha : a.lc[n].active = true) (hl : a.lc[n].last = i) (hc : a.lc[n].count = 1) :
    loopEnd a i n = { a with lc := a.lc.set n { a.lc[n] with count := 0, active := false } } := by
  have hz : a.lc[n].count - 1 = 0 := sub_eq_zero.mpr hc
  rw [loopEnd_of_ends a i n ha hl, if_neg (not_not.mpr hz), hz]

/-- A round of a loop is done, and more are to come. -/
theorem loopEnd_again (ha : a.lc[n].active = true) (hl : a.lc[n].last = i) (hc : a.lc[n].count ≠ 1) :
    loopEnd a i n = { a with pc := a.lc[n].start, lc := a.lc.set n { a.lc[n] with count := a.lc[n].count - 1 } } := by
  rw [loopEnd_of_ends a i n ha hl, if_pos (sub_ne_zero.mpr hc)]

/-- The end of one loop leaves the others. -/
theorem loopEnd_lc_of_ne (m : Fin 3) (h : m ≠ n) : (loopEnd a i n).lc[m] = a.lc[m] := by
  have hv : n.val ≠ m.val := fun e => h (Fin.ext e.symm)
  rw [loopEnd, dif_pos n.isLt]
  dsimp only
  split
  · split <;> simp [Vector.getElem_set_ne, hv]
  · rfl

end LoopEnd

theorem retire_eq (r : Arch) : r.retire =
    loopEnd (loopEnd (loopEnd { r with pc := r.pc + 1 } r.pc (0 : Fin 3)) r.pc (1 : Fin 3)) r.pc (2 : Fin 3) := rfl

/-- A retirement ends at most the one loop that ends at its PC. -/
theorem retire_of_only_loop (r : Arch) (n : Fin 3) (h : ∀ m : Fin 3, m ≠ n → ¬(r.lc[m].active = true ∧ r.lc[m].last = r.pc)) :
    r.retire = loopEnd { r with pc := r.pc + 1 } r.pc n := by
  have skip (a : Arch) (m : Fin 3) (hm : m ≠ n) (hl : a.lc[m] = r.lc[m]) : loopEnd a r.pc m = a :=
    loopEnd_of_not_ends a r.pc m (by rw [hl]; exact h m hm)
  have other (m : Fin 3) (hm : m ≠ n) : (loopEnd { r with pc := r.pc + 1 } r.pc n).lc[m] = r.lc[m] := loopEnd_lc_of_ne _ _ n m hm
  rw [retire_eq]
  obtain rfl | rfl | rfl : n = 0 ∨ n = 1 ∨ n = 2 := by omega
  · rw [skip _ 1 (by decide) (other 1 (by decide)), skip _ 2 (by decide) (other 2 (by decide))]
  · rw [skip { r with pc := r.pc + 1 } 0 (by decide) rfl, skip _ 2 (by decide) (other 2 (by decide))]
  · rw [skip { r with pc := r.pc + 1 } 0 (by decide) rfl, skip { r with pc := r.pc + 1 } 1 (by decide) rfl]

theorem retire_of_no_loop (r : Arch) (h : ∀ n : Fin 3, ¬(r.lc[n].active = true ∧ r.lc[n].last = r.pc)) : r.retire = { r with pc := r.pc + 1 } := by
  rw [retire_of_only_loop r 0 fun m _ => h m]
  exact loopEnd_of_not_ends _ _ 0 (h 0)

/-- Settles O14: each branch by its jump, LOOP by its count, and a retirement by the one loop that it can end. -/
theorem branchesAndLoops : Obligations.BranchesAndLoops := by
  refine ⟨fun st a b t => ⟨jumps_beq st a b t, jumps_bne st a b t, jumps_bltu st a b t, jumps_bgeu st a b t, jumps_bv st a t, jumps_br st t⟩,
    fun st lc imm a count last => ⟨fun s j env h hn hb hc => ?_, fun s j env h hc => ?_⟩, fun r => ⟨retire_of_no_loop r, fun n ha hl ho => ?_⟩⟩
  · exact exec_plain_retire rfl h hn hb (loopEff_counted _ lc imm a count last hc) rfl nofun
  · exact exec_plain_error rfl h (loopEff_error _ lc a count last hc)
  · rw [retire_of_only_loop r n ho]
    exact ⟨loopEnd_last { r with pc := r.pc + 1 } r.pc n ha hl, loopEnd_again { r with pc := r.pc + 1 } r.pc n ha hl⟩

end Sys2Proof.Machine

namespace Sys2Proof.Machine

/-! ## Operand ports (R86, R87) -/

theorem portRead_of_no_entry (s : State) (k : Nat) (j : Job) (env : SEnv) (r : Arch) (p : Nat) (h : portIndex env r p = none) :
    s.portRead k j env r p = (s, .ok none) := by
  unfold State.portRead
  rw [h]

theorem portIndex_p0_left (env : SEnv) (r : Arch) (h : r.entry < r.entryEnd) : portIndex env r 0 = some (r.base + r.entry) := by
  rw [portIndex, if_pos rfl, if_pos h]

theorem portIndex_p0_end (env : SEnv) (r : Arch) (h : r.entryEnd ≤ r.entry) : portIndex env r 0 = none := by
  rw [portIndex, if_pos rfl, if_neg (Nat.not_lt.mpr h)]

theorem portIndex_entry (env : SEnv) (r : Arch) {p : Nat} (hp : p ≠ 0) (hu : portUseOf env.portUse p = 1) :
    portIndex env r p = r.cur.map (r.base + ·) := by
  rw [portIndex, if_neg hp, if_pos hu]

theorem portIndex_bag (env : SEnv) (r : Arch) {p : Nat} (hp : p ≠ 0) (hu : portUseOf env.portUse p = 2) : portIndex env r p = some r.bag := by
  rw [portIndex, if_neg hp, hu]
  rfl

theorem afterLoad_p0_left (r : Arch) (h : r.entry < r.entryEnd) :
    r.afterLoad 0 = { r with entry := r.entry + 1, cur := some r.entry, k := 0 } := by
  rw [Arch.afterLoad, if_pos rfl, if_pos h]

theorem afterLoad_p0_end (r : Arch) (h : r.entryEnd ≤ r.entry) : r.afterLoad 0 = { r with cur := none } := by
  rw [Arch.afterLoad, if_pos rfl, if_neg (Nat.not_lt.mpr h)]

theorem afterLoad_other (r : Arch) {p : Nat} (hp : p ≠ 0) : r.afterLoad p = r := by rw [Arch.afterLoad, if_neg hp]

theorem extendEntry_eq (raw bytes : Nat) (sgn : Bool) : extendEntry raw bytes sgn =
    if sgn = true ∧ 2 ^ (8 * bytes - 1) ≤ raw then BitVec.ofNat 64 (raw + (2 ^ 64 - 2 ^ (8 * bytes))) else BitVec.ofNat 64 raw := by
  simp only [extendEntry, Bool.and_eq_true, decide_eq_true_eq]

theorem entryVoid_eq (raw bytes : Nat) (sgn : Bool) : entryVoid raw bytes sgn =
    (decide (raw = 2 ^ (8 * bytes) - 1) || (sgn && decide (2 ^ (8 * bytes - 1) ≤ raw))) := by
  rw [entryVoid, beq_eq_decide, allOnes]

theorem stream_of_streams {s t : State} (h : t.streams = s.streams) (k : Nat) : t.stream k = s.stream k := by
  rw [State.stream, h, State.stream]

/-! ## What a retirement does to its stream (R103, R115) -/

/-- An instruction that sends nothing and retires within the budget, or starts it anew, changes its stream alone. -/
theorem applyOut_retire (s : State) (k : Nat) (i : SInstr) (a : Arch) (hb : (s.stream k).budget + 1 < 65536) (hi : ∀ t, i ≠ .bagend t) :
    s.applyOut k i (.retire a [] false) = s.setStream k { s.stream k with
      arch := a, budget := if resetsBudget i = true then 0 else (s.stream k).budget + 1, runningRun := false } := by
  have hlt : ¬ 65536 ≤ if resetsBudget i = true then 0 else (s.stream k).budget + 1 := by split <;> omega
  unfold State.applyOut
  dsimp only
  rw [if_neg hlt, if_neg Bool.false_ne_true, List.append_nil]
  split
  · exact absurd rfl (hi _)
  · rfl

/-- A load that finds its port's entry, or none. -/
theorem exec_load {s t : State} {st : StreamId} {c : Instr} {i : SInstr} {j : Job} {env : SEnv} {p : Nat} {eff : Arch → Option Nat → Arch}
    {raw : Option Nat} (he : exec c s = actS s (·.issueLoad st.key i p eff)) (h : StreamAt s st i j env) (hn : NothingDue t)
    (hb : (s.stream st.key).budget + 1 < 65536) (hs : t.streams = s.streams)
    (hr : s.portRead st.key j env (s.stream st.key).arch p = (t, .ok raw)) (hi : ∀ t, i ≠ .bagend t) :
    exec c s = .next (t.setStream st.key { s.stream st.key with
      arch := (eff (s.stream st.key).arch raw).retire
      budget := if resetsBudget i = true then 0 else (s.stream st.key).budget + 1, runningRun := false }) := by
  have hx := stream_of_streams hs st.key
  rw [he, actS_alive _ _ h.1, issueLoad_at s t st i j env p eff raw h hr, applyOut_retire _ _ _ _ (by rw [hx]; exact hb) hi, hx,
    settle_of_nothingDue _ (hn.setStream _ _)]

theorem ldxEff_some (r : Arch) (d : Fin 16) (p : Nat) (chk : Bool) (e n : Nat) (sg : Bool) (hn : 8 * widthBytes (modeWidth r.mode p) = n)
    (hg : modeSigned r.mode p = sg) : ldxEff r d p chk (some e) =
      (r.afterLoad p).put d (if sg = true ∧ 2 ^ (n - 1) ≤ e then BitVec.ofNat 64 (e + (2 ^ 64 - 2 ^ n)) else BitVec.ofNat 64 e)
        (chk && (decide (e = 2 ^ n - 1) || (sg && decide (2 ^ (n - 1) ≤ e)))) := by
  simp only [ldxEff, extendEntry_eq, entryVoid_eq, hn, hg]

/-- Settles O15: the entry that each port names, and what a load makes of it. -/
theorem portLoads : Obligations.PortLoads := by
  refine ⟨fun s k j env r p => ⟨?_, ?_, ?_, ?_, ?_, ?_⟩, fun st d p chk s t j env raw h hn hb hs hr => ⟨fun e he _ => ?_, fun he => ?_⟩,
    fun st p s t j env raw h hn hb hs hr => ?_⟩
  · rintro rfl hl
    exact ⟨portIndex_p0_left env r hl, afterLoad_p0_left r hl⟩
  · rintro rfl hl
    exact ⟨portRead_of_no_entry s k j env r 0 (portIndex_p0_end env r hl), afterLoad_p0_end r hl⟩
  · exact fun hp => afterLoad_other r (Fin.val_ne_zero_iff.mpr hp)
  · intro hp hu e hc
    rw [portIndex_entry env r (Fin.val_ne_zero_iff.mpr hp) hu, hc]
    rfl
  · intro hp hu hc
    refine portRead_of_no_entry s k j env r p ?_
    rw [portIndex_entry env r (Fin.val_ne_zero_iff.mpr hp) hu, hc]
    rfl
  · exact fun hp hu => portIndex_bag env r (Fin.val_ne_zero_iff.mpr hp) hu
  · rw [exec_load rfl h hn hb hs hr nofun, he, ldxEff_some _ _ _ _ _ _ _ rfl rfl]
    simp only [resetsBudget, beq_iff_eq]
    rfl
  · rw [exec_load rfl h hn hb hs hr nofun, he]
    simp only [resetsBudget, beq_iff_eq]
    rfl
  · rw [exec_load rfl h hn hb hs hr nofun]
    simp only [resetsBudget, beq_iff_eq]
    rfl
end Sys2Proof.Machine

namespace Sys2Proof.Machine

/-! ## References and bags (R98, R99, R104) -/

theorem NothingDue.setStreamSt {s : State} (h : NothingDue s) (k : Nat) (x : StreamState) : NothingDue (s.setStreamSt k x) := h.setStream k _

/-- Items changed in neither command nor place leave nothing due. -/
theorem NothingDue.mapItems {s : State} (h : NothingDue s) (f : WorkItem → WorkItem) (hc : ∀ w, (f w).cmd = w.cmd)
    (hp : ∀ w, (f w).place = w.place) : NothingDue { s with items := s.items.map f } := by
  have hd (c : CmdId) : ({ s with items := s.items.map f } : State).itemsDone c = s.itemsDone c := by
    simp only [State.itemsDone, List.all_map, Function.comp_def, hc, hp]
  refine h.of_eq rfl rfl rfl rfl (funext fun j => ?_)
  unfold State.cmdTile
  rw [hd]
  rfl

theorem NothingDue.updItem {s : State} (h : NothingDue s) (i : Nat) (f : WorkItem → WorkItem) (hc : ∀ w, (f w).cmd = w.cmd)
    (hp : ∀ w, (f w).place = w.place) : NothingDue (s.updItem i f) :=
  h.mapItems _ (fun w => by split <;> simp [hc]) fun w => by split <;> simp [hp]

theorem NothingDue.commitCheckpoints {s : State} (h : NothingDue s) (c : CmdId) : NothingDue (s.commitCheckpoints c) := by
  unfold State.commitCheckpoints
  split
  · exact h
  · refine h.mapItems _ (fun w => ?_) fun w => ?_ <;> repeat' split
    all_goals rfl

/-- The elements of a stream's queue that count as work are its references, not its marks (R442). -/
theorem applyOut_ref (s : State) (k : Nat) (i : SInstr) (a : Arch) (r : RowRef) (hr : resetsBudget i = true) (hi : ∀ t, i ≠ .bagend t) :
    s.applyOut k i (.retire a [.ref r] false) = (s.streamWork k 1).setStream k { s.stream k with
      arch := a, queue := (s.stream k).queue ++ [.ref r], budget := 0, runningRun := false } := by
  unfold State.applyOut
  dsimp only
  rw [if_pos hr, if_neg (by decide), if_neg Bool.false_ne_true]
  split
  · exact absurd rfl (hi _)
  · rfl

/-- An instruction that ends its work item and sends marks alone leaves the stream idle, its window closed. -/
theorem applyOut_ended (s : State) (k : Nat) (i : SInstr) (a : Arch) (src : Src) (l : List Nat) (bag : Nat → Nat)
    (hb : resetsBudget i = true ∨ (s.stream k).budget + 1 < 65536) :
    s.applyOut k i (.retire a (l.map fun n => .bagEnd src (bag n)) true) = (s.setStream k { s.stream k with
      arch := a, queue := (s.stream k).queue ++ l.map fun n => .bagEnd src (bag n)
      budget := if resetsBudget i = true then 0 else (s.stream k).budget + 1, st := .idle, runningRun := false }).closeWindow k := by
  have hlt : ¬ 65536 ≤ if resetsBudget i = true then 0 else (s.stream k).budget + 1 := by
    rcases hb with h | h
    · simp [h]
    · split <;> omega
  unfold State.applyOut
  dsimp only
  rw [if_neg hlt, List.filter_map, if_pos rfl, if_pos (by simp [Function.comp_def])]

/-- BAGEND with bags left moves its stream on and leaves a checkpoint for its item (R99, R112). -/
theorem applyOut_bagend (s : State) (k : Nat) (t : BitVec 6) (a : Arch) (src : Src) (b it : Nat) (hx : (s.stream k).item = some it) :
    s.applyOut k (.bagend t) (.retire a [.bagEnd src b] false) = ((s.setStream k { s.stream k with
      arch := a, queue := (s.stream k).queue ++ [.bagEnd src b], budget := 0, runningRun := false }).updItem it
        fun w => { w with pending := some a }).commitCheckpoints a.cmd := by
  unfold State.applyOut
  dsimp only
  rw [hx]
  rfl

section Sends
variable {s : State} {st : StreamId} {c : Instr} {i : SInstr} {j : Job} {env : SEnv}

/-- A sending instruction of a stream with room in its queue and no reference held. -/
theorem exec_send (he : exec c s = actS s (·.issueSend st.key i)) (h : StreamAt s st i j env) (hf : (s.stream st.key).faulted = false)
    (hq : (s.stream st.key).queue.length < 32) : exec c s = .next (s.applyOut st.key i (plainEff env i (s.stream st.key).arch)).settle := by
  rw [he, actS_alive _ _ h.1, issueSend_at s st i j env h hf hq]

/-- It stalls while the queue is full (R104). -/
theorem exec_send_full (he : exec c s = actS s (·.issueSend st.key i)) (h : StreamAt s st i j env) (hn : NothingDue s)
    (hf : (s.stream st.key).faulted = false) (hq : 32 ≤ (s.stream st.key).queue.length) : exec c s = .next s := by
  obtain ⟨ha, henv, hi⟩ := h
  have hs : s.issueSend st.key i = s := by
    unfold State.issueSend
    simp only [henv, hi, if_true, hf, Bool.false_eq_true, if_false, if_pos hq]
  rw [he, actS_alive _ _ ha, hs, settle_of_nothingDue _ hn]

/-- It halts while references are held (R110). -/
theorem exec_send_held (he : exec c s = actS s (·.issueSend st.key i)) (h : StreamAt s st i j env) (hn : NothingDue s)
    (hf : (s.stream st.key).faulted = true) : exec c s = .next ((s.setStreamSt st.key .halted).closeWindow st.key) := by
  obtain ⟨ha, henv, hi⟩ := h
  have hs : s.issueSend st.key i = (s.setStreamSt st.key .halted).closeWindow st.key := by
    unfold State.issueSend
    simp only [henv, hi, if_true, hf]
  rw [he, actS_alive _ _ ha, hs, settle_of_nothingDue _ ((hn.setStreamSt _ _).closeWindow _)]

end Sends

/-- RUN halts while references are held (R110). -/
theorem exec_run_held {s : State} {st : StreamId} {a : Fin 16} {j : Job} {env : SEnv} (h : StreamAt s st (.run a) j env) (hn : NothingDue s)
    (hf : (s.stream st.key).faulted = true) : exec (.run st a) s = .next ((s.setStreamSt st.key .halted).closeWindow st.key) := by
  obtain ⟨ha, henv, hi⟩ := h
  have hs : s.issueRun st.key a = (s.setStreamSt st.key .halted).closeWindow st.key := by
    unfold State.issueRun
    simp only [henv, hi, if_true, hf]
  exact (actS_alive s (·.issueRun st.key a) ha).trans (by rw [hs, settle_of_nothingDue _ ((hn.setStreamSt _ _).closeWindow _)])

theorem emitEff_at {env : SEnv} {r : Arch} {a : Fin 16} {e : Nat} (he : r.cur = some e) (hk : r.k ≠ env.fan) :
    emitEff env r a = .retire { r with k := r.k + 1 }.retire [.ref (emitRef env r a e)] false := by
  unfold emitEff
  rw [he]
  exact if_neg hk

/-- Settles O16: EMIT by its one reference, and every send by the two ways in which it waits. -/
theorem emitSendsOneReference : Obligations.EmitSendsOneReference := by
  refine ⟨fun st a s j env e h hn hf hq hc hk => ?_, fun st a t s j env hn => ⟨fun h hf hq => exec_send_full rfl h hn hf hq,
    fun h hf hq => exec_send_full rfl h hn hf hq, fun h hf => exec_send_held rfl h hn hf, fun h hf => exec_send_held rfl h hn hf,
    fun h hf => exec_run_held h hn hf⟩⟩
  rw [exec_send rfl h hf hq, plainEff_emit, emitEff_at hc hk, applyOut_ref _ _ (.emit a) _ _ rfl nofun,
    settle_of_nothingDue _ ((hn.streamWork _ _).setStream _ _)]
  rfl

theorem bagendEff_next (env : SEnv) (r : Arch) (t : BitVec 6) (h : 1 < r.bagsLeft) :
    bagendEff env r t = .retire (nextBag env r t) [.bagEnd env.src r.bag] false := if_pos h

theorem bagendEff_last (env : SEnv) (r : Arch) (t : BitVec 6) (h : r.bagsLeft ≤ 1) :
    bagendEff env r t = .retire { r with bagsLeft := 0 } [.bagEnd env.src r.bag] true := if_neg (Nat.not_lt.mpr h)

/-- Settles O18: BAGEND by whether a bag is left, and STOP by the marks of all of them. -/
theorem bagsClose : Obligations.BagsClose := by
  intro st t s j env
  refine ⟨fun h hn hf hq hb it hx => ?_, fun h hn hf hq hb => ?_, fun h hn hb => ?_⟩
  · rw [exec_send rfl h hf hq, plainEff_bagend, bagendEff_next _ _ _ hb, applyOut_bagend _ _ _ _ _ _ it hx, settle_of_nothingDue]
    · rfl
    · refine (NothingDue.updItem (hn.setStream _ _) _ _ ?_ ?_).commitCheckpoints _ <;> exact fun _ => rfl
  · rw [exec_send rfl h hf hq, plainEff_bagend, bagendEff_last _ _ _ hb]
    have ha := applyOut_ended s st.key (.bagend t) { (s.stream st.key).arch with bagsLeft := 0 } env.src [(s.stream st.key).arch.bag] id (.inl rfl)
    exact congrArg _ ((congrArg _ ha).trans (settle_of_nothingDue _ ((hn.setStream _ _).closeWindow _)))
  · rw [exec_plain rfl h, plainEff_stop, stopEff, applyOut_ended _ _ _ _ _ _ _ (.inr hb)]
    exact congrArg _ (settle_of_nothingDue _ ((hn.setStream _ _).closeWindow _))

end Sys2Proof.Machine

namespace Sys2Proof.Machine

/-! ## RUN (R100, R109) -/

/-- A stream that is not the one of reset reads back as it was set. -/
theorem stream_setStream (s : State) (k : Nat) (x : Stream) (h : x ≠ {}) : (s.setStream k x).stream k = x := by
  rw [State.stream, setStream_streams, sput, if_neg h, sget_sinsert, if_pos rfl]

theorem ctr_setStream (s : State) (k : Nat) (x : Stream) (group obj i : Nat) : (s.setStream k x).ctr group obj i = s.ctr group obj i := rfl

theorem ctr_streamWork (s : State) (k n : Nat) (hn : n ≠ 0) : (s.streamWork k n).ctr 1 k 11 = satAdd (2 ^ 64 - 1) (s.ctr 1 k 11) n := by
  have hv (c : Nat) : satAdd (2 ^ 64 - 1) c n ≠ 0 := by unfold satAdd; omega
  rw [State.ctr, State.streamWork, State.count]
  dsimp only
  rw [sput, if_neg (hv _), sget_sinsert, if_pos rfl]
  rfl

/-- A stream once its RUN has sent one reference and gone on. -/
def Stream.ranOne (x : Stream) (r : RowRef) : Stream :=
  { x with arch := { x.arch with entry := x.arch.entry + 1 }, queue := x.queue ++ [.ref r], runningRun := true }

theorem ranOne_ne (x : Stream) (r : RowRef) : x.ranOne r ≠ {} := fun h => Bool.true_eq_false.mp (congrArg Stream.runningRun h)

/-- A stream once its RUN has retired. -/
def Stream.runDone (x : Stream) : Stream := { x with arch := runEnd x.arch, runningRun := false, budget := 0 }

/-- The reference of the last entry of a piece is sent, and RUN retires. -/
theorem runDone_ranOne (x : Stream) (r : RowRef) (h : x.arch.entry + 1 = x.arch.entryEnd) : (x.ranOne r).runDone =
    { x with arch := { x.arch with entry := x.arch.entryEnd, cur := none, w := 0x3F800000, pc := x.arch.pc + 1 }
             queue := x.queue ++ [.ref r], runningRun := false, budget := 0 } := by
  simp only [Stream.runDone, Stream.ranOne, runEnd, h]

section Run
variable {s : State} {k : Nat} {j : Job} {env : SEnv} (ra : Fin 16) (fuel : Nat)

theorem runLoop_end (h : (s.stream k).arch.entryEnd ≤ (s.stream k).arch.entry) :
    s.runLoop k j env ra (fuel + 1) = s.setStream k (s.stream k).runDone := by
  rw [State.runLoop]
  exact if_neg (Nat.not_lt.mpr h)

/-- RUN emits the reference of one entry and goes on. -/
theorem runLoop_entry {raw : Option Nat} (hl : (s.stream k).arch.entry < (s.stream k).arch.entryEnd) (hq : (s.stream k).queue.length < 32)
    (hw : modeWeighted (s.stream k).arch.mode = false) (hr : s.portRead k j env (s.stream k).arch 0 = (s, .ok raw)) :
    s.runLoop k j env ra (fuel + 1) =
      ((s.setStream k ((s.stream k).ranOne (runRef env (s.stream k).arch ra (raw.getD 0) 0))).streamWork k 1).runLoop k j env ra fuel := by
  rw [State.runLoop]
  dsimp only
  rw [if_pos hl, if_neg (Nat.not_le.mpr hq), hr]
  dsimp only
  rw [hw]
  rfl

/-- RUN at the last entry of a piece: its one reference, then the end. -/
theorem runLoop_last {raw : Option Nat} (hl : (s.stream k).arch.entry + 1 = (s.stream k).arch.entryEnd) (hq : (s.stream k).queue.length < 32)
    (hw : modeWeighted (s.stream k).arch.mode = false) (hr : s.portRead k j env (s.stream k).arch 0 = (s, .ok raw)) :
    let y := (s.stream k).ranOne (runRef env (s.stream k).arch ra (raw.getD 0) 0)
    s.runLoop k j env ra (fuel + 2) = ((s.setStream k y).streamWork k 1).setStream k y.runDone := by
  intro y
  have hy : ((s.setStream k y).streamWork k 1).stream k = y := stream_setStream s k y (ranOne_ne _ _)
  rw [runLoop_entry ra (fuel + 1) (by omega) hq hw hr, runLoop_end ra fuel, hy]
  rw [hy]
  exact hl.ge

end Run

theorem runRef_unweighted (env : SEnv) (r : Arch) (a : Fin 16) (e w n : Nat) (sg : Bool) (hw : modeWeighted r.mode = false)
    (hn : 8 * widthBytes (modeWidth r.mode 0) = n) (hg : modeSigned r.mode 0 = sg) : runRef env r a e w =
      { src := env.src, bag := r.bag, pos := r.entry * env.fan, table := env.slots.getD (modeTsel r.mode) none
        row := ((if sg = true ∧ 2 ^ (n - 1) ≤ e then BitVec.ofNat 64 (e + (2 ^ 64 - 2 ^ n)) else BitVec.ofNat 64 e) + r.reg a).toNat
        weight := 0x3F800000
        valid := !r.void a && (env.slots.getD (modeTsel r.mode) none).isSome &&
          !(decide (e = 2 ^ n - 1) || (sg && decide (2 ^ (n - 1) ≤ e))), single := false } := by
  simp only [runRef, extendEntry_eq, entryVoid_eq, hw, hn, hg, Bool.false_eq_true, if_false]

theorem exec_run {s : State} {st : StreamId} {a : Fin 16} {j : Job} {env : SEnv} (h : StreamAt s st (.run a) j env)
    (hf : (s.stream st.key).faulted = false) (hw : modeWeighted (s.stream st.key).arch.mode = false) :
    exec (.run st a) s = .next (s.runLoop st.key j env a 33).settle := by
  obtain ⟨ha, henv, hi⟩ := h
  have hok : runOk env (s.stream st.key).arch = true := by rw [runOk, hw]; rfl
  have hs : s.issueRun st.key a = s.runLoop st.key j env a 33 := by
    unfold State.issueRun
    simp only [henv, hi, if_true, hf, hok, Bool.false_eq_true, Bool.true_eq_false, if_false]
  exact (actS_alive s (·.issueRun st.key a) ha).trans (by rw [hs])

/-- Settles O19: RUN at the end of a piece, and at its last entry. -/
theorem runEmitsTheRest : Obligations.RunEmitsTheRest := by
  intro st a s j env h hn x r slot n sg hf hw
  refine ⟨fun hl => ?_, fun e hl hq _ hr => ?_⟩
  · rw [exec_run h hf hw, runLoop_end a 32 hl, settle_of_nothingDue _ (hn.setStream _ _)]
    rfl
  · refine ⟨_, exec_run h hf hw, ?_⟩
    rw [runLoop_last a 31 hl hq hw hr, settle_of_nothingDue _ (((hn.setStream _ _).streamWork _ _).setStream _ _)]
    refine ⟨?_, by simp [State.streamWork], by simp [State.streamWork], by simp [State.streamWork],
      by rw [ctr_setStream, ctr_streamWork _ _ 1 Nat.one_ne_zero, ctr_setStream]⟩
    have hr := runRef_unweighted env r a e 0 n sg hw rfl rfl
    have hd := runDone_ranOne x (runRef env r a e 0) hl
    have hne : (x.ranOne (runRef env r a e 0)).runDone ≠ {} := fun h =>
      List.append_ne_nil_of_right_ne_nil _ (List.cons_ne_nil _ _) (congrArg Stream.queue h)
    exact (stream_setStream _ _ _ hne).trans (hd.trans (by rw [hr]))

/-! ## MODE and PREF (R84, R101, R108, R110) -/

theorem loopEnd_mode (a : Arch) (i : BitVec 6) (n : Nat) : (loopEnd a i n).mode = a.mode := by
  unfold loopEnd
  dsimp only
  repeat' split
  all_goals rfl

theorem retire_mode (r : Arch) : r.retire.mode = r.mode := by rw [retire_eq, loopEnd_mode, loopEnd_mode, loopEnd_mode]

theorem modeEff_ok {r : Arch} {a : Fin 16} (h : modeOk ((r.reg a).truncate 32) = true) :
    modeEff r a = .retire { r with mode := (r.reg a).truncate 32 }.retire [] false := if_pos h

theorem changedPorts_nil {a b : BitVec 32} (h : ∀ p : Fin 4, modeWidth b p.val = modeWidth a p.val) : changedPorts a b = [] := by
  have h0 := h 0
  have h1 := h 1
  have h2 := h 2
  have h3 := h 3
  simp_all [changedPorts]

/-- A MODE that keeps every port's width refills no port (R108). -/
theorem exec_mode {s : State} {st : StreamId} {a : Fin 16} {j : Job} {env : SEnv} (h : StreamAt s st (.mode a) j env) (hn : NothingDue s)
    (hb : (s.stream st.key).budget + 1 < 65536) (hok : modeOk (((s.stream st.key).arch.reg a).truncate 32) = true)
    (hw : ∀ p : Fin 4, modeWidth (((s.stream st.key).arch.reg a).truncate 32) p.val = modeWidth (s.stream st.key).arch.mode p.val) :
    exec (.mode st a) s = .next (s.setStream st.key { s.stream st.key with
      arch := { (s.stream st.key).arch with mode := ((s.stream st.key).arch.reg a).truncate 32 }.retire
      budget := (s.stream st.key).budget + 1, runningRun := false }) := by
  obtain ⟨ha, henv, hi⟩ := h
  have hs : s.issueMode st.key (.mode a) a = s.applyOut st.key (.mode a)
      (.retire { (s.stream st.key).arch with mode := ((s.stream st.key).arch.reg a).truncate 32 }.retire [] false) := by
    unfold State.issueMode
    simp only [henv, hi, if_true, modeEff_ok hok, retire_mode, changedPorts_nil hw, State.refillPorts]
  refine (actS_alive s (·.issueMode st.key (.mode a) a) ha).trans ?_
  rw [hs, applyOut_quiet _ _ (.mode a) _ hb rfl nofun, settle_of_nothingDue _ (hn.setStream _ _)]

/-- A discarded prefetch: of no table, or of a void row number. -/
theorem prefRow_discarded (s : State) (k : Nat) (slot : Option Nat) (row : Nat) (void : Bool) (h : void = true ∨ slot = none) :
    s.prefRow k slot row void = s := by
  unfold State.prefRow
  rcases h with rfl | rfl
  · split <;> rfl
  · rfl

theorem exec_pref_discarded {s : State} {st : StreamId} {a : Fin 16} {j : Job} {env : SEnv} (h : StreamAt s st (.pref a) j env) (hn : NothingDue s)
    (hb : (s.stream st.key).budget + 1 < 65536)
    (hd : (s.stream st.key).faulted = true ∨ (s.stream st.key).arch.void a = true ∨
      env.slots.getD (modeTsel (s.stream st.key).arch.mode) none = none) :
    exec (.pref st a) s = .next (s.setStream st.key { s.stream st.key with
      arch := (s.stream st.key).arch.retire, budget := (s.stream st.key).budget + 1, runningRun := false }) := by
  obtain ⟨ha, henv, hi⟩ := h
  have hs : s.issuePref st.key a = s.applyOut st.key (.pref a) (.retire (s.stream st.key).arch.retire [] false) := by
    unfold State.issuePref
    simp only [henv, hi, if_true]
    rcases hd with hf | hd
    · rw [if_pos hf]
    · rw [prefRow_discarded _ _ _ _ _ hd, ite_self]
  refine (actS_alive s (·.issuePref st.key a) ha).trans ?_
  rw [hs, applyOut_quiet _ _ (.pref a) _ hb rfl nofun, settle_of_nothingDue _ (hn.setStream _ _)]

/-- Settles O20: a MODE that keeps every width refills nothing, and a discarded prefetch leaves the row cache. -/
theorem modeWordsAndPrefetch : Obligations.ModeWordsAndPrefetch :=
  ⟨fun _ _ _ => ⟨fun _ _ _ h hn hb hok hw => exec_mode h hn hb hok hw, computes_of _ _ _ _ (fun _ => rfl) (fun _ _ => rfl) rfl nofun⟩,
    fun _ _ _ _ _ h hn hb hd => exec_pref_discarded h hn hb hd⟩

end Sys2Proof.Machine

namespace Sys2Proof.Machine

/-! ## The pointing stage (R68, R99, R104, R129) -/

theorem reask_of_no_fetch (s : State) (k : Nat) (h : (s.stream k).fetches = []) : s.reask k = s := by
  rw [State.reask, h]
  rfl

theorem stageOne_held (s : State) (k : Nat) (hf : (s.stream k).faulted = true) : s.stageOne k = s := by
  unfold State.stageOne
  simp only [hf, Bool.true_or, if_true]

section Stage
variable {s : State} {k : Nat} (hf : (s.stream k).faulted = false) (hl : (s.slice (k / 8)).lost = false) (hx : (s.stream k).fetches = [])
include hf hl hx

theorem stageOne_bagEnd {src : Src} {b : Nat} {rest : List QItem} (hq : (s.stream k).queue = .bagEnd src b :: rest) :
    s.stageOne k = if s.bagClosed src.cmd b then (s.popQueue k).itemOut k src.cmd else s.markBag k src b := by
  unfold State.stageOne
  simp only [hf, hl, Bool.or_self, Bool.false_eq_true, if_false, reask_of_no_fetch s k hx, hq]

section Reference
variable {r : RowRef} {rest : List QItem} (hq : (s.stream k).queue = .ref r :: rest)
include hq

theorem stageOne_ref_closed (hc : s.bagClosed r.src.cmd r.bag = true) : s.stageOne k = (s.popQueue k).itemOut k r.src.cmd := by
  unfold State.stageOne
  simp only [hf, hl, Bool.or_self, Bool.false_eq_true, if_false, reask_of_no_fetch s k hx, hq, hc, if_true]

theorem stageOne_ref_noTable (hc : s.bagClosed r.src.cmd r.bag = false) (ht : r.table.bind s.table? = none) :
    s.stageOne k = (s.dropRef k r).itemOut k r.src.cmd := by
  unfold State.stageOne
  simp only [hf, hl, Bool.or_self, Bool.false_eq_true, if_false, reask_of_no_fetch s k hx, hq, hc, ht]

theorem stageOne_ref_table {t : Table} (hc : s.bagClosed r.src.cmd r.bag = false) (ht : r.table.bind s.table? = some t) :
    s.stageOne k =
      let v := if r.single then s.affinePrefetch k t r.row else s
      if r.valid && decide (r.row < t.desc.rows) then v.keepRef k t r else (v.dropRef k r).itemOut k r.src.cmd := by
  unfold State.stageOne
  simp only [hf, hl, Bool.or_self, Bool.false_eq_true, if_false, reask_of_no_fetch s k hx, hq, hc, ht]

end Reference

end Stage

theorem exec_pointingStage (s : State) (st : StreamId) (ha : s.alive = true) :
    exec (.pointingStageReference st) s = .next (s.stageOne st.key).settle := actS_alive s (·.stageOne st.key) ha

/-! ## The lanes (R46, R130, R428) -/

section Lanes
variable {s : State} {k : Nat} {f : Fetch} {t : Table} (hf : (s.stream k).fetches.find? (fun f => f.arrived && !s.inFeeder k f.id) = some f)
  (ht : f.ref.table.bind s.table? = some t)
include hf ht

theorem landOne_poisoned (hp : s.isPoisoned t.desc.table f.ref.row = true) : s.landOne k = s.landPoison k f t.desc.table := by
  unfold State.landOne
  simp only [hf, ht, hp, if_true]

section Sound
variable (hp : s.isPoisoned t.desc.table f.ref.row = false)
include hp

theorem landOne_badSide (hs : (f.side.map fun va => f.bytes va 16) = some none) :
    s.landOne k = (s.poisonRow t.desc.table f.ref.row false).landPoison k f t.desc.table := by
  unfold State.landOne
  simp only [hf, ht, hp, hs, if_true, Bool.false_eq_true, if_false]

theorem landOne_bytes (hs : (f.side.map fun va => f.bytes va 16) ≠ some none) {bs : List Byte} (hb : f.bytes f.va f.size = some bs) :
    s.landOne k = if t.desc.fmtOf f.copy = fcLR then s.queueLr k f t.desc.table
      else s.landRow k t f (t.desc.values (t.desc.fmtOf f.copy) bs (f.side.map fun va => f.bytes va 16).join) := by
  unfold State.landOne
  simp only [hf, ht, hp, hs, hb, Bool.false_eq_true, if_false]

theorem landOne_unreadable (hs : (f.side.map fun va => f.bytes va 16) ≠ some none) (hb : f.bytes f.va f.size = none) :
    s.landOne k = if f.copy = .cold then (s.poisonRow t.desc.table f.ref.row false).landPoison k f t.desc.table else s.refetchCold k t f := by
  unfold State.landOne
  simp only [hf, ht, hp, hs, hb, Bool.false_eq_true, if_false]

end Sound

end Lanes

theorem exec_laneData (s : State) (st : StreamId) (ha : s.alive = true) :
    exec (.laneDataArrival st) s = .next (s.landOne st.key).settle := actS_alive s (·.landOne st.key) ha

/-- Settles O43: one lemma for each way that the pointing stage and the lanes go. -/
theorem referencesReachTheLanes : Obligations.ReferencesReachTheLanes := by
  refine ⟨fun s st ha => ?_, fun s st f t ha hf ht => ?_⟩
  · simp only [exec_pointingStage s st ha]
    refine ⟨fun hf => ?_, fun hf hl hx => ⟨fun src b rest hq => ?_, fun r rest hq => ⟨fun hc => ?_, fun t hc ht => ?_, fun hc ht => ?_⟩⟩⟩
    · rw [stageOne_held s _ hf]
    · rw [stageOne_bagEnd hf hl hx hq]
      exact ⟨fun hc => by rw [if_neg (by simp [hc])], fun hc => by rw [if_pos hc]⟩
    · rw [stageOne_ref_closed hf hl hx hq hc]
    · rw [stageOne_ref_table hf hl hx hq hc ht]
      refine ⟨fun hv hr => by rw [if_pos (by simp [hv, hr])], fun h => ?_⟩
      rw [if_neg]
      rcases h with h | h
      · simp [h]
      · simp [Nat.not_lt.mpr h]
    · rw [stageOne_ref_noTable hf hl hx hq hc ht]
  · simp only [exec_laneData s st ha]
    refine ⟨fun hp => ?_, fun hp hs => ?_, fun hp hs bs hb => ⟨fun h => ?_, fun h => ?_⟩, fun hp hs hb h => ?_, fun hp hs hb h => ?_⟩
    · rw [landOne_poisoned hf ht hp]
    · rw [landOne_badSide hf ht hp hs]
    · rw [landOne_bytes hf ht hp hs hb, if_neg h]
    · rw [landOne_bytes hf ht hp hs hb, if_pos h]
    · rw [landOne_unreadable hf ht hp hs hb, if_pos h]
    · rw [landOne_unreadable hf ht hp hs hb, if_neg h]

end Sys2Proof.Machine

namespace Sys2Proof.Machine

/-! ## Sort windows and halted streams (R105, R110, R125, R126) -/

theorem actWhen_of_not (s : State) (c : Bool) (f : State → State) (hc : c = false) : actWhen s c f = .next s := by simp [actWhen, hc]

theorem actSWhen_of_not (s : State) (c : Bool) (f : State → State) (hc : c = false) : actSWhen s c f = .next s := by simp [actSWhen, hc]

theorem exec_sortWindowAge_due (s : State) (st : StreamId) (ha : s.alive = true) (hw : (s.stream st.key).window ≠ [])
    (ht : (s.stream st.key).windowAt + (s.stream st.key).windowAge ≤ s.time) : exec (.sortWindowAge st) s = .next (s.closeWindow st.key) :=
  actWhen_of s _ (·.closeWindow st.key) ha (by simp [hw, ht])

theorem exec_sortWindowAge_early (s : State) (st : StreamId) (ht : s.time < (s.stream st.key).windowAt + (s.stream st.key).windowAge) :
    exec (.sortWindowAge st) s = .next s :=
  actWhen_of_not s _ (·.closeWindow st.key) (by simp [Nat.not_le.mpr ht])

theorem streams_closeWait (s : State) (typ w : Nat) (t : Bool) (h d : Option Nat) : (s.closeWait typ w t h d).streams = s.streams :=
  congrArg Kept.streams (kept_closeWait s typ w t h d)

theorem stream_setStreamSt_running (s : State) (k : Nat) : (s.setStreamSt k .running).stream k = { s.stream k with st := .running } :=
  stream_setStream s k _ fun h => StreamState.noConfusion (congrArg Stream.st h)

/-- A halted stream with nothing queued runs again. -/
theorem resume_empty (s : State) (k fuel : Nat) (hq : (s.stream k).queue = []) (hh : (s.stream k).st = .halted) :
    s.resume k (fuel + 1) = (s.closeWait 6 (agentStream k) false none none).setStreamSt k .running := by
  rw [State.resume]
  simp only [hq, hh, if_true]

theorem exec_streamResume (s : State) (st : StreamId) (ha : s.alive = true) (hh : (s.stream st.key).st = .halted)
    (hf : (s.stream st.key).faulted = false) (hw : s.streamWaits st.key = false) :
    exec (.streamResume st) s = .next (s.resume st.key 40).settle :=
  actSWhen_of s _ (·.resume st.key 40) ha (by simp [hh, hf, hw])

theorem exec_streamResume_notYet (s : State) (st : StreamId)
    (h : (s.stream st.key).st ≠ .halted ∨ (s.stream st.key).faulted = true ∨ s.streamWaits st.key = true) :
    exec (.streamResume st) s = .next s :=
  actSWhen_of_not s _ (·.resume st.key 40) (by rcases h with h | h | h <;> simp [h])

/-! ## Misses (R22, R126, R298, R300, R307) -/

/-- The memory request that a miss becomes (R22, R295). -/
def State.missReq (s : State) (k : Nat) (r : MissReq) : MemReq :=
  { tag := s.nextId, slice := k / 8, stream := k, line := r.line, lo := r.lo, hi := r.hi, target := s.targetOf r.line, ctx := r.ctx
    cmdCtx := r.cmdCtx, cmd := r.cmd, direct := r.direct }

/-- A miss leaves with its tag and tokens (R22, R300). -/
def State.sendMiss (s : State) (k : Nat) (r : MissReq) : State :=
  let u := ((s.chargeTo (s.partOf r.cmdCtx) (bucketOf (s.targetOf r.line) false) r.bytes).popIssue k).markIssued r
  { u with memReqs := u.memReqs ++ [s.missReq k r], nextId := u.nextId + 1 }

/-- Whether the port of a miss takes it: a channel always does (R306). -/
def State.portFree (s : State) (t : Target) : Bool :=
  match t with
  | .capacity n => s.portTakes n
  | _ => true

theorem portFree_iff (s : State) (t : Target) : s.portFree t = true ↔ ∀ n, t = .capacity n → s.portTakes n = true := by
  cases t <;> simp [State.portFree]

section Miss
variable {s : State} {k : Nat} {r : MissReq} {rest : List MissReq} (hq : (s.stream k).issue = r :: rest)
include hq

theorem issueMiss_noTag (hf : ¬ s.sliceTags (k / 8) < 2048) : s.issueMiss k = s := by
  unfold State.issueMiss
  simp only [hq, if_pos (Nat.not_lt.mp hf)]

variable (hf : s.sliceTags (k / 8) < 2048) (hl : (∃ ch, s.targetOf r.line = .channel ch) ∨ ∃ n, s.targetOf r.line = .capacity n)
include hf hl

/-- A miss of local memory that has a tag. -/
theorem issueMiss_local :
    s.issueMiss k =
      if s.wc.any (·.waits r.line) then s.drain r.line
      else if s.wc.any (fun e => e.line == r.line) then s
      else if s.onLostPort (localOf r.line) then (s.popIssue k).failBack r.ctx r.line k r.direct
      else if s.portFree (s.targetOf r.line) && s.mayIssue (s.partOf r.cmdCtx) (bucketOf (s.targetOf r.line) false) r.bytes
          (s.richFor (s.partOf r.cmdCtx) (s.targetOf r.line)) then s.sendMiss k r
      else s := by
  unfold State.issueMiss
  simp only [hq, if_neg (Nat.not_le.mpr hf), State.missPart]
  rcases hl with ⟨ch, h⟩ | ⟨n, h⟩ <;> simp only [h, State.sendMiss, State.missReq] <;> rfl

theorem issueMiss_drains (hw : (s.wc.any (·.waits r.line)) = true) : s.issueMiss k = s.drain r.line := by
  rw [issueMiss_local hq hf hl, if_pos hw]

variable (hw : (s.wc.any (·.waits r.line)) = false)
include hw

theorem issueMiss_lineDrains (he : (s.wc.any fun e => e.line == r.line) = true) : s.issueMiss k = s := by
  rw [issueMiss_local hq hf hl, hw, if_neg Bool.false_ne_true, if_pos he]

variable (he : (s.wc.any fun e => e.line == r.line) = false)
include he

theorem issueMiss_lostPort (hp : s.onLostPort (localOf r.line) = true) :
    s.issueMiss k = (s.popIssue k).failBack r.ctx r.line k r.direct := by
  rw [issueMiss_local hq hf hl, hw, he, if_neg Bool.false_ne_true, if_neg Bool.false_ne_true, if_pos hp]

variable (hp : s.onLostPort (localOf r.line) = false)
include hp

theorem issueMiss_reaches : s.issueMiss k =
    if s.portFree (s.targetOf r.line) && s.mayIssue (s.partOf r.cmdCtx) (bucketOf (s.targetOf r.line) false) r.bytes
      (s.richFor (s.partOf r.cmdCtx) (s.targetOf r.line)) then s.sendMiss k r else s := by
  rw [issueMiss_local hq hf hl, hw, he, hp]
  simp only [Bool.false_eq_true, if_false]

end Miss

theorem exec_missRequestIssue (s : State) (st : StreamId) (ha : s.alive = true) :
    exec (.missRequestIssue st) s = .next (s.issueMiss st.key).settle := actS_alive s (·.issueMiss st.key) ha

/-- Settles O44: a window by its age, a halted stream by its wait, and a miss by the first rule that keeps it from leaving. -/
theorem missesAndWindows : Obligations.MissesAndWindows := by
  refine ⟨fun s st ha => ⟨exec_sortWindowAge_due s st ha, exec_sortWindowAge_early s st, fun hh hf hw hq => ?_, exec_streamResume_notYet s st⟩,
    fun s st r rest t ha => ?_⟩
  · refine ⟨_, exec_streamResume s st ha hh hf hw, ?_⟩
    have hx := stream_of_streams (streams_closeWait s 6 (agentStream st.key) false none none) st.key
    rw [resume_empty s _ 39 hq hh, stream_setStreamSt_running, hx]
  · simp only [exec_missRequestIssue s st ha]
    rintro hq rfl hl
    refine ⟨fun hf => ?_, fun hf hw => ?_, fun hf hw he => ?_, fun hf hw he hp => ?_, fun hf hw he hp ho => ⟨fun hm => ?_, fun hm => ?_⟩,
      fun n hf hw he hp hn ho => ?_⟩
    · rw [issueMiss_noTag hq hf]
    · rw [issueMiss_drains hq hf hl hw]
    · rw [issueMiss_lineDrains hq hf hl hw he]
    · rw [issueMiss_lostPort hq hf hl hw he hp]
    · rw [issueMiss_reaches hq hf hl hw he hp, (portFree_iff _ _).mpr ho, Bool.true_and, if_pos hm]
      rfl
    · rw [issueMiss_reaches hq hf hl hw he hp, hm, Bool.and_false, if_neg Bool.false_ne_true]
    · have hno : s.portFree (s.targetOf r.line) = false := by rw [hn]; exact ho
      rw [issueMiss_reaches hq hf hl hw he hp, hno, Bool.false_and, if_neg Bool.false_ne_true]

end Sys2Proof.Machine

namespace Sys2Proof.Machine

/-! ## Work items (R79, R118) -/

/-- A cut into first bag, number of bags and piece that is one work item of `n` bags of `f` entries (R118). -/
def CutOk (f : Nat → Nat) (fan n : Nat) (e : Nat × Nat × Option (Nat × Nat)) : Prop :=
  (1 ≤ e.2.1 ∧ e.2.1 ≤ 64 ∧ e.1 + e.2.1 ≤ n) ∧
    (e.2.2 = none → ∀ x, e.1 ≤ x → x < e.1 + e.2.1 → f x * fan ≤ 4096) ∧
    ∀ p, e.2.2 = some p → e.2.1 = 1 ∧ p.1 < p.2 ∧ p.2 ≤ f e.1

theorem cutOk_chunk {f : Nat → Nat} {fan n first count : Nat} (h1 : 1 ≤ count) (h2 : count ≤ 64) (h3 : first + count ≤ n)
    (h : ∀ x, first ≤ x → x < first + count → f x * fan ≤ 4096) : CutOk f fan n (first, count, none) :=
  ⟨⟨h1, h2, h3⟩, fun _ => h, fun _ h => nomatch h⟩

/-- Every piece of a long bag is an item. -/
theorem cutOk_cutPieces {f : Nat → Nat} {fan n b k : Nat} (c : CmdId) (hk : 1 ≤ k) (hb : b < n) (fuel start : Nat) :
    ∀ e ∈ cutPieces c b (f b) k start fuel, CutOk f fan n e := by
  induction fuel generalizing start with
  | zero => intro e he; exact absurd he List.not_mem_nil
  | succ fuel ih =>
    intro e he
    rw [cutPieces] at he
    split at he
    next => exact absurd he List.not_mem_nil
    next hlt =>
      rcases List.mem_cons.1 he with rfl | he
      · refine ⟨⟨Nat.le_refl 1, Nat.le_add_left 1 63, hb⟩, fun h => absurd h (Option.some_ne_none _), ?_⟩
        rintro p ⟨⟩
        exact ⟨rfl, by dsimp only; omega, Nat.min_le_left ..⟩
      · exact ih _ e he

/-- A long bag has a first piece, which names it. -/
theorem mem_cutPieces_first (c : CmdId) (b len k fuel : Nat) (h : 0 < len) :
    (b, 1, some (0, min len (0 + k))) ∈ cutPieces c b len k 0 (fuel + 1) := by
  rw [cutPieces, if_neg (Nat.not_le.mpr h)]
  exact List.mem_cons_self

section CutBags
variable (c : CmdId) (fan b first count : Nat)

/-- The chunk of the bags gathered so far, none while there are none. -/
def openChunk (first count : Nat) : List (Nat × Nat × Option (Nat × Nat)) := if count = 0 then [] else [(first, count, none)]

theorem mem_openChunk {first count : Nat} {e : Nat × Nat × Option (Nat × Nat)} :
    e ∈ openChunk first count ↔ 1 ≤ count ∧ e = (first, count, none) := by
  unfold openChunk; split <;> simp <;> omega

theorem cutBags_nil : cutBags c [] fan b first count = openChunk first count := rfl

theorem cutBags_long (l : Nat) (rest : List Nat) (h : 4096 < l * fan) : cutBags c (l :: rest) fan b first count =
    openChunk first count ++ cutPieces c b l (4096 / fan) 0 (l + 1) ++ cutBags c rest fan (b + 1) (b + 1) 0 := by
  rw [cutBags, if_pos h]; rfl

theorem cutBags_full (l : Nat) (rest : List Nat) (h : ¬ 4096 < l * fan) :
    cutBags c (l :: rest) fan b first 63 = (first, 64, none) :: cutBags c rest fan (b + 1) (b + 1) 0 := by
  rw [cutBags, if_neg h, if_pos rfl]

theorem cutBags_short (l : Nat) (rest : List Nat) (h : ¬ 4096 < l * fan) (hc : count ≠ 63) (hb : first + count = b) :
    cutBags c (l :: rest) fan b first count = cutBags c rest fan (b + 1) first (count + 1) := by
  rw [cutBags, if_neg h, if_neg hc]
  split
  next h0 => subst h0 hb; rfl
  next => rfl

end CutBags

/-- The open chunk in front of bag `b`: up to 63 bags, none of them long. -/
def Gathered (f : Nat → Nat) (fan b first count : Nat) : Prop :=
  first + count = b ∧ count ≤ 63 ∧ ∀ x, first ≤ x → x < b → f x * fan ≤ 4096

theorem gathered_none (f : Nat → Nat) (fan b : Nat) : Gathered f fan b b 0 := ⟨rfl, Nat.zero_le _, fun x h1 h2 => by omega⟩

theorem Gathered.snoc {f : Nat → Nat} {fan b first count : Nat} (h : Gathered f fan b first count) (hc : count ≠ 63)
    (hb : ¬ 4096 < f b * fan) : Gathered f fan (b + 1) first (count + 1) := by
  obtain ⟨h1, h2, h3⟩ := h
  refine ⟨by omega, by omega, fun x hx hlt => ?_⟩
  rcases Nat.lt_succ_iff_lt_or_eq.mp hlt with h | rfl
  · exact h3 x hx h
  · omega

theorem Gathered.cutOk {f : Nat → Nat} {fan b first count n : Nat} (h : Gathered f fan b first count) (hn : b ≤ n)
    {e : Nat × Nat × Option (Nat × Nat)} (he : e ∈ openChunk first count) : CutOk f fan n e := by
  obtain ⟨h1, h2, h3⟩ := h
  obtain ⟨hc, rfl⟩ := mem_openChunk.1 he
  exact cutOk_chunk hc (by omega) (by omega) fun x hx hlt => h3 x hx (by omega)

/-- What a list of bags from bag `b` on gives as the entries of each. -/
def BagsFrom (f : Nat → Nat) (b : Nat) (lens : List Nat) : Prop := ∀ i, lens.getD i 0 = f (b + i)

theorem BagsFrom.head {f : Nat → Nat} {b l : Nat} {rest : List Nat} (h : BagsFrom f b (l :: rest)) : l = f b := h 0

theorem BagsFrom.tail {f : Nat → Nat} {b l : Nat} {rest : List Nat} (h : BagsFrom f b (l :: rest)) : BagsFrom f (b + 1) rest := fun i => by
  rw [Nat.add_right_comm]; exact h (i + 1)

/-- Every cut of a list of bags is an item. -/
theorem cutOk_cutBags {f : Nat → Nat} {fan : Nat} (c : CmdId) (h1 : 1 ≤ fan) (h2 : fan ≤ 4096) (lens : List Nat) (b first count : Nat)
    (hl : BagsFrom f b lens) (hg : Gathered f fan b first count) :
    ∀ e ∈ cutBags c lens fan b first count, CutOk f fan (b + lens.length) e := by
  induction lens generalizing b first count with
  | nil => intro e he; exact hg.cutOk (Nat.le_add_right ..) he
  | cons l rest ih =>
    have ih (first count : Nat) (hg : Gathered f fan (b + 1) first count) := ih (b + 1) first count hl.tail hg
    have hlen : b + 1 + rest.length = b + (l :: rest).length := by rw [List.length_cons]; omega
    rw [hlen] at ih
    have hb : b < b + (l :: rest).length := by rw [List.length_cons]; omega
    obtain rfl := hl.head
    intro e he
    by_cases hlong : 4096 < f b * fan
    · rw [cutBags_long _ _ _ _ _ _ _ hlong, List.mem_append, List.mem_append] at he
      rcases he with (he | he) | he
      · exact hg.cutOk (Nat.le_of_lt hb) he
      · exact cutOk_cutPieces c ((Nat.one_le_div_iff h1).mpr h2) hb _ _ e he
      · exact ih _ _ (gathered_none ..) e he
    · by_cases hc : count = 63
      · subst hc
        rw [cutBags_full _ _ _ _ _ _ hlong] at he
        rcases List.mem_cons.1 he with rfl | he
        · obtain ⟨hb', -, hs⟩ := hg
          refine cutOk_chunk (by decide) (Nat.le_refl _) (by omega) fun x hx hlt => ?_
          by_cases hxb : x = b
          · rw [hxb]; omega
          · exact hs x hx (by omega)
        · exact ih _ _ (gathered_none ..) e he
      · rw [cutBags_short _ _ _ _ _ _ _ hlong hc hg.1] at he
        exact ih _ _ (hg.snoc hc hlong) e he

/-- A cut names a bag. -/
def CutHolds (x : Nat) (e : Nat × Nat × Option (Nat × Nat)) : Prop := e.1 ≤ x ∧ x < e.1 + e.2.1

theorem openChunk_holds {first count x : Nat} (hx : first ≤ x) (h : x < first + count) : ∃ e ∈ openChunk first count, CutHolds x e :=
  ⟨_, mem_openChunk.2 ⟨by omega, rfl⟩, hx, h⟩

/-- Every bag of the list, and of the chunk in front of it, is in a cut. -/
theorem cutBags_covers {fan : Nat} (c : CmdId) (lens : List Nat) (b first count : Nat) (hg : first + count = b) (x : Nat) (hx : first ≤ x)
    (hlt : x < b + lens.length) : ∃ e ∈ cutBags c lens fan b first count, CutHolds x e := by
  induction lens generalizing b first count with
  | nil => exact openChunk_holds hx (by rw [hg]; exact hlt)
  | cons l rest ih =>
    have hlt' : x < b + 1 + rest.length := by rw [List.length_cons] at hlt; omega
    have later (h : b + 1 ≤ x) : ∃ e ∈ cutBags c rest fan (b + 1) (b + 1) 0, CutHolds x e := ih (b + 1) (b + 1) 0 rfl h hlt'
    by_cases hlong : 4096 < l * fan
    · rw [cutBags_long _ _ _ _ _ _ _ hlong]
      simp only [List.mem_append, or_and_right, exists_or]
      rcases Nat.lt_trichotomy x b with h | rfl | h
      · exact .inl (.inl (openChunk_holds hx (by omega)))
      · have hpos : 0 < l := Nat.pos_of_ne_zero fun h => by rw [h, Nat.zero_mul] at hlong; omega
        exact .inl (.inr ⟨_, mem_cutPieces_first c x l _ l hpos, Nat.le_refl _, Nat.lt_succ_self _⟩)
      · exact .inr (later h)
    · by_cases hc : count = 63
      · subst hc
        rw [cutBags_full _ _ _ _ _ _ hlong]
        by_cases h : x ≤ b
        · exact ⟨_, List.mem_cons_self, hx, by dsimp only; omega⟩
        · obtain ⟨e, he, hxe⟩ := later (by omega)
          exact ⟨e, List.mem_cons_of_mem _ he, hxe⟩
      · rw [cutBags_short _ _ _ _ _ _ _ hlong hc hg]
        exact ih (b + 1) first (count + 1) (by omega) hx hlt'

/-- The work item of a cut. -/
def cutItem (c : CmdId) (e : (Nat × Nat × Option (Nat × Nat)) × Nat) : WorkItem :=
  { id := e.2, cmd := c, firstBag := e.1.1, bags := e.1.2.1, piece := e.1.2.2 }

/-- The cuts of a command's bags (R118). -/
def Job.cuts (j : Job) : List (Nat × Nat × Option (Nat × Nat)) :=
  cutBags j.id ((List.range (j.offs.length - 1)).map fun b => j.offs.getD (b + 1) 0 - j.offs.getD b 0) j.fan 0 0 0

/-- The items enter the intake in order, each with the next number. -/
theorem makeItems_eq (s : State) (j : Job) :
    s.makeItems j = { s with items := s.items ++ (j.cuts.zipIdx s.nextItem).map (cutItem j.id), nextItem := s.nextItem + j.cuts.length } := by
  unfold State.makeItems
  change List.foldl _ s j.cuts = _
  generalize j.cuts = es
  induction es generalizing s with
  | nil => simp
  | cons e es ih =>
    rw [List.foldl_cons, ih]
    simp only [List.zipIdx_cons, List.map_cons, List.append_assoc, List.length_cons, Nat.add_assoc, Nat.add_comm 1]
    rfl

/-- Settles O34: the cuts of a list of bags by induction on the list, with the chunk gathered so far, and an item for each. -/
theorem itemsCoverTheBags : Obligations.ItemsCoverTheBags := by
  intro s j h1 h2 n lens t new
  have ht : t = _ := makeItems_eq s j
  have hnew : new = (j.cuts.zipIdx s.nextItem).map (cutItem j.id) := by
    simp only [new, ht, List.drop_left]
  have hlen : lens.length = n := by simp only [lens, List.length_map, List.length_range]
  have hl : BagsFrom (fun b => lens.getD b 0) 0 lens := fun i => by rw [Nat.zero_add]
  have hok : ∀ e ∈ j.cuts, CutOk (fun b => lens.getD b 0) j.fan n e := by
    have := cutOk_cutBags j.id h1 h2 lens 0 0 0 hl (gathered_none ..)
    rwa [Nat.zero_add, hlen] at this
  have hitem : ∀ w ∈ new, w.cmd = j.id ∧ w.place = .intake ∧ CutOk (fun b => lens.getD b 0) j.fan n (w.firstBag, w.bags, w.piece) := by
    intro w hw
    rw [hnew] at hw
    obtain ⟨e, he, rfl⟩ := List.mem_map.1 hw
    exact ⟨rfl, rfl, hok _ (List.fst_mem_of_mem_zipIdx he)⟩
  refine ⟨by rw [ht]; exact List.take_left, by rw [ht, hnew]; simp, by rw [ht], by rw [ht], by rw [ht], fun w hw => ?_, fun w hw => ?_,
    fun w hw => ?_, fun b hb => ?_⟩
  · obtain ⟨hc, hp, hbags, -⟩ := hitem w hw
    exact ⟨hc, hp, hbags⟩
  · obtain ⟨-, -, -, hshort, -⟩ := hitem w hw
    exact hshort
  · obtain ⟨-, -, -, -, hpiece⟩ := hitem w hw
    exact hpiece
  · obtain ⟨e, he, hbe⟩ := cutBags_covers (fan := j.fan) j.id lens 0 0 0 rfl b (Nat.zero_le b) (by omega)
    rw [← List.zipIdx_map_fst s.nextItem (cutBags j.id lens j.fan 0 0 0)] at he
    obtain ⟨p, hp, rfl⟩ := List.mem_map.1 he
    exact ⟨cutItem j.id p, by rw [hnew]; exact List.mem_map_of_mem hp, hbe⟩

end Sys2Proof.Machine

namespace Sys2Proof.Machine

/-! ## Rates of an interval (R121, R122) -/

/-- A fold of steps that each keep what `p` sees. -/
theorem foldl_keeps {σ α β : Type} (p : σ → β) (f : σ → α → σ) (h : ∀ s a, p (f s a) = p s) (l : List α) (s : σ) : p (l.foldl f s) = p s := by
  induction l generalizing s with
  | nil => rfl
  | cons a l ih => rw [List.foldl_cons, ih, h]

/-- Updates of slices leave everything else. -/
theorem foldl_updSlice_keeps {β : Type} (p : State → β) (hp : ∀ s k x, p (s.setSlice k x) = p s) (f : State → Nat → Slice → Slice)
    (l : List Nat) (s : State) : p (l.foldl (fun s i => s.updSlice i (f s i)) s) = p s := foldl_keeps p _ (fun s i => hp s i _) l s

/-- The length of a run that goes on for one more interval, or is broken. -/
def nextRun (goesOn : Bool) (n : Nat) : Nat := if goesOn then min 100 (n + 1) else 0

theorem judge_eq (x : Slice) (worked : Bool) (median : Nat) : x.judge worked median =
    { x with
      below := nextRun (worked && decide (2 * x.rate < median)) x.below
      above := nextRun (worked && !decide (2 * x.rate < median)) x.above
      flagged := if nextRun (worked && decide (2 * x.rate < median)) x.below = 100 then true
        else if nextRun (worked && !decide (2 * x.rate < median)) x.above = 100 then false else x.flagged } := rfl

/-- A slice that had no work keeps its flag, and both its runs are broken. -/
theorem judge_idle (x : Slice) (median : Nat) : x.judge false median = { x with below := 0, above := 0 } := judge_eq ..

/-- A slice below half the median: its low run goes on, and at 100 intervals it is flagged. -/
theorem judge_low (x : Slice) (median : Nat) (h : 2 * x.rate < median) : x.judge true median =
    { x with below := min 100 (x.below + 1), above := 0, flagged := if 99 ≤ x.below then true else x.flagged } := by
  have h100 : min 100 (x.below + 1) = 100 ↔ 99 ≤ x.below := by omega
  simp [judge_eq, nextRun, h, h100]

/-- A slice that is not below half the median: its high run goes on, and at 100 intervals its flag is cleared. -/
theorem judge_high (x : Slice) (median : Nat) (h : median ≤ 2 * x.rate) : x.judge true median =
    { x with below := 0, above := min 100 (x.above + 1), flagged := if 99 ≤ x.above then false else x.flagged } := by
  have h100 : min 100 (x.above + 1) = 100 ↔ 99 ≤ x.above := by omega
  simp [judge_eq, nextRun, Nat.not_lt.mpr h, h100]

theorem exec_rateIntervalEnd (s : State) : exec .rateIntervalEnd s = execRateIntervalEnd s := rfl

/-- Settles O42: an interval's end updates slices alone, and a slice is judged in one of three ways. -/
theorem ratesAreFormed : Obligations.RatesAreFormed := by
  refine ⟨?_, fun s h => ?_, fun x median _ _ => ⟨fun h => ?_, fun h => ?_, ?_⟩⟩
  · intro s ha hdue worked u median v w
    have keeps {β : Type} (p : State → β) (hp : ∀ s k x, p (s.setSlice k x) = p s) : p w = p s := by
      have hu : p u = p s := foldl_updSlice_keeps p hp ..
      have hv : p v = p s := by
        unfold v
        split
        · exact hu
        · rw [foldl_updSlice_keeps p hp, hu]
      exact (foldl_updSlice_keeps p hp ..).trans hv
    refine ⟨?_, keeps State.streams fun _ _ _ => rfl, keeps State.items fun _ _ _ => rfl,
      keeps State.jobs fun _ _ _ => rfl⟩
    rw [exec_rateIntervalEnd, execRateIntervalEnd, actWhen_of s _ _ ha (decide_eq_true hdue), ← keeps State.time fun _ _ _ => rfl]
  · rw [exec_rateIntervalEnd, execRateIntervalEnd, actWhen_of_not s _ _ (decide_eq_false (Nat.not_lt.mpr h))]
  · rw [judge_low x median h]
    exact ⟨rfl, rfl, fun h => if_pos h, fun h => if_neg (Nat.not_le.mpr h)⟩
  · rw [judge_high x median h]
    exact ⟨rfl, rfl, fun h => if_pos h, fun h => if_neg (Nat.not_le.mpr h)⟩
  · rw [judge_idle]
    exact ⟨rfl, rfl, rfl⟩

end Sys2Proof.Machine

namespace Sys2Proof.Machine

/-! ## Dealing and stealing work items (R119, R120) -/

/-- In a list in the order of `g`, what comes first by `g` comes first. -/
theorem idxOf_le_of_pairwise {g : Nat → Nat} {l : List Nat} (hl : l.Pairwise fun a b => g a < g b) {a b : Nat} (ha : a ∈ l) (hb : b ∈ l)
    (h : g a ≤ g b) : l.idxOf a ≤ l.idxOf b := by
  by_contra hlt
  have := List.pairwise_iff_getElem.1 hl _ _ (List.idxOf_lt_length_of_mem hb) (List.idxOf_lt_length_of_mem ha) (Nat.not_le.1 hlt)
  rw [List.getElem_idxOf, List.getElem_idxOf] at this
  omega

/-- The place of a slice in the round-robin order after slice `r`. -/
def turnAfter (r m : Nat) : Nat := (m + 16 - (r + 1) % 16) % 16

/-- The slices in the round-robin order after slice `r` (R119). -/
def roundRobin (r : Nat) : List Nat := (List.range 16).map fun i => (r + 1 + i) % 16

theorem mem_roundRobin {r m : Nat} : m ∈ roundRobin r ↔ m < 16 := by
  unfold roundRobin
  rw [List.mem_map]
  constructor
  · rintro ⟨i, -, rfl⟩; exact Nat.mod_lt _ (by decide)
  · intro h; exact ⟨turnAfter r m, List.mem_range.2 (Nat.mod_lt _ (by decide)), by unfold turnAfter; omega⟩

theorem roundRobin_pairwise (r : Nat) : (roundRobin r).Pairwise fun a b => turnAfter r a < turnAfter r b := by
  refine List.pairwise_map.2 (List.pairwise_lt_range.imp_of_mem fun {i k} hi hk hlt => ?_)
  have hi := List.mem_range.1 hi
  have hk := List.mem_range.1 hk
  unfold turnAfter; omega

/-- The least loaded is the first of the round-robin order that has the least load. -/
theorem leastLoaded_eq (s : State) (ok : Nat → Bool) : s.leastLoaded ok = ((roundRobin s.rr).filter ok).argmin s.sliceLoad := by
  unfold State.leastLoaded List.argmin
  change List.foldl _ none ((roundRobin s.rr).filter ok) = _
  congr 1
  funext m i
  cases m <;> rfl

theorem leastLoaded_some (s : State) (ok : Nat → Bool) (n : Nat) (hn : n < 16) (hok : ok n = true)
    (h : ∀ m, m < 16 → ok m = true →
      s.sliceLoad n ≤ s.sliceLoad m ∧ (s.sliceLoad m = s.sliceLoad n → turnAfter s.rr n ≤ turnAfter s.rr m)) :
    s.leastLoaded ok = some n := by
  have hmem {m : Nat} : m ∈ (roundRobin s.rr).filter ok ↔ m < 16 ∧ ok m = true := by rw [List.mem_filter, mem_roundRobin]
  rw [leastLoaded_eq]
  refine List.mem_argmin_iff.2 ⟨hmem.2 ⟨hn, hok⟩, fun m hm => ?_, fun m hm hle => ?_⟩
  · exact (h m (hmem.1 hm).1 (hmem.1 hm).2).1
  · obtain ⟨hlt, hokm⟩ := hmem.1 hm
    obtain ⟨hload, hturn⟩ := h m hlt hokm
    exact idxOf_le_of_pairwise ((roundRobin_pairwise _).filter _) (hmem.2 ⟨hn, hok⟩) hm (hturn (Nat.le_antisymm hle hload))

theorem leastLoaded_none (s : State) (ok : Nat → Bool) (h : ∀ m, m < 16 → ok m = false) : s.leastLoaded ok = none := by
  rw [leastLoaded_eq, List.argmin_eq_none, List.filter_eq_nil_iff]
  intro m hm
  rw [h m (mem_roundRobin.1 hm)]
  exact Bool.false_ne_true

/-- A slice in service that is not flagged (R119, R122). -/
def State.openSlice (s : State) (m : Nat) : Prop := m < 16 ∧ (s.slice m).lost = false ∧ (s.slice m).flagged = false

/-- While a slice in service is not flagged, items are dealt to such slices alone. -/
theorem dealSlice_open (s : State) (h : ∃ m, s.openSlice m) : s.dealSlice =
    s.leastLoaded fun i => !(s.slice i).lost && !(s.slice i).flagged && decide ((s.slice i).dispatch.length < 8) := by
  unfold State.dealSlice
  refine if_pos (List.any_eq_true.2 ?_)
  obtain ⟨m, hm, hl, hf⟩ := h
  exact ⟨m, List.mem_range.2 hm, by simp [hl, hf]⟩

theorem exec_workItemDeal (s : State) : exec .workItemDeal s = execWorkItemDeal s := rfl

/-- The item that may be dealt, of a command with nothing to begin, goes to the slice. -/
theorem exec_workItemDeal_begun (s : State) (w : WorkItem) (i : Nat) (j : Job) (ha : s.alive = true)
    (hw : s.items.find? (fun w => w.place == .intake && s.mayDeal w.cmd) = some w) (hi : s.dealSlice = some i) (hj : s.job? w.cmd = some j)
    (hn : s.nextSets j = none) : exec .workItemDeal s = .next (s.dealTo w.id i).settle := by
  have hg : s.gate j = .go := by unfold State.gate; rw [hn]
  rw [exec_workItemDeal, execWorkItemDeal, actS_alive s _ ha]
  simp only [hw, hi, hj, hg, hn]

/-- With no slice to take it an item waits in the intake. -/
theorem exec_workItemDeal_waits (s : State) (ha : s.alive = true) (hi : s.dealSlice = none) : exec .workItemDeal s = .next s.settle := by
  rw [exec_workItemDeal, execWorkItemDeal, actS_alive s _ ha]
  split
  next _ i _ h => rw [hi] at h; exact absurd h.symm (Option.some_ne_none i)
  next => rfl

theorem exec_workItemStart (s : State) (st : StreamId) : exec (.workItemStart st) s = execWorkItemStart st s := rfl

/-- A stream takes the first item of its slice's queue when it is free. -/
theorem exec_workItemStart_head (s : State) (st : StreamId) (i : Nat) (rest : List Nat) (ha : s.alive = true)
    (hq : (s.slice st.slice).dispatch = i :: rest) : exec (.workItemStart st) s =
      .next (if s.streamFree st.key then (s.updSlice st.slice fun x => { x with dispatch := rest }).startItem st.key i else s) := by
  rw [exec_workItemStart, execWorkItemStart, act_alive s _ ha]
  simp only [hq]

/-- Settles O40: the slice of least load as the least of the round-robin order, and a stream by whether it is free. -/
theorem workItemsAreDealt : Obligations.WorkItemsAreDealt := by
  intro s w n st rest ha open_ may turn
  have hmay (m : Nat) : m < 16 → (!(s.slice m).lost && !(s.slice m).flagged && decide ((s.slice m).dispatch.length < 8)) = true → may m := by
    intro hm h
    simp only [Bool.and_eq_true, Bool.not_eq_true', decide_eq_true_eq] at h
    exact ⟨⟨hm, h.1⟩, h.2⟩
  refine ⟨fun j hw hj hn hm hleast => ?_, fun hopen hfull => ?_, fun hq hfree => ?_, fun hq hfree => ?_⟩
  · obtain ⟨⟨hlt, hl, hf⟩, hroom⟩ := hm
    have hi : s.dealSlice = some n.val := by
      rw [dealSlice_open s ⟨n.val, hlt, hl, hf⟩]
      exact leastLoaded_some s _ n.val hlt (by simp [hl, hf, hroom]) fun m hm hok => hleast m (hmay m hm hok)
    exact exec_workItemDeal_begun s w n.val j ha hw hi hj hn
  · refine exec_workItemDeal_waits s ha ?_
    rw [dealSlice_open s hopen]
    refine leastLoaded_none s _ fun m hm => Bool.eq_false_iff.2 fun hok => ?_
    obtain ⟨ho, hroom⟩ := hmay m hm hok
    exact absurd (hfull m ho) (Nat.not_le.2 hroom)
  · rw [exec_workItemStart_head s st w.id rest ha hq, if_pos hfree]
  · rw [exec_workItemStart_head s st w.id rest ha hq, hfree, if_neg Bool.false_ne_true]

end Sys2Proof.Machine

namespace Sys2Proof.Machine

/-! ## Items stolen, started and migrated (R85, R112, R120, R122, R433) -/

/-- The first of the largest in a rising list is where a search from its head ends. -/
theorem foldl_firstLargest {f : Nat → Nat} (l : List Nat) (m k : Nat) (hk : k ∈ m :: l) (hmax : ∀ a ∈ m :: l, f a ≤ f k)
    (hfirst : ∀ a ∈ m :: l, a < k → f a < f k) (hup : (m :: l).Pairwise (· ≤ ·)) :
    l.foldl (fun m i => if f m < f i then i else m) m = k := by
  induction l generalizing m with
  | nil => exact (List.mem_singleton.1 hk).symm
  | cons i l ih =>
    have hall := hup
    obtain ⟨hm, hup⟩ := List.pairwise_cons.1 hup
    rw [List.foldl_cons]
    split
    next hlt =>
      have hne : k ≠ m := by
        rintro rfl
        exact absurd (hmax i (by simp)) (Nat.not_le.2 hlt)
      exact ih i (List.mem_of_ne_of_mem hne hk) (fun a ha => hmax a (List.mem_cons_of_mem _ ha))
        (fun a ha => hfirst a (List.mem_cons_of_mem _ ha)) hup
    next hle =>
      have hsub : (m :: l).Sublist (m :: i :: l) := (List.sublist_cons_self i l).cons_cons m
      have hk' : k ∈ m :: l := by
        rcases List.mem_cons.1 hk with rfl | hk
        · exact List.mem_cons_self
        · rcases List.mem_cons.1 hk with rfl | hk
          · rcases Nat.lt_or_eq_of_le (hm k List.mem_cons_self) with hlt | rfl
            · exact absurd (hfirst m List.mem_cons_self hlt) hle
            · exact List.mem_cons_self
          · exact List.mem_cons_of_mem _ hk
      exact ih m hk' (fun a ha => hmax a (hsub.subset ha)) (fun a ha => hfirst a (hsub.subset ha)) (hall.sublist hsub)

theorem longestQueue_eq (s : State) (but k : Nat) (hk : k < 16) (hne : k ≠ but)
    (hmax : ∀ m < 16, (s.slice m).dispatch.length ≤ (s.slice k).dispatch.length)
    (hfirst : ∀ m < k, (s.slice m).dispatch.length < (s.slice k).dispatch.length) : s.longestQueue but = k := by
  have hmem {a : Nat} : a ∈ (List.range 16).filter (· ≠ but) ↔ a < 16 ∧ a ≠ but := by simp
  have hlt : ∀ a ∈ (if but = 0 then 1 else 0) :: (List.range 16).filter (· ≠ but), a < 16 := by
    intro a ha
    rcases List.mem_cons.1 ha with rfl | ha
    · split <;> decide
    · exact (hmem.1 ha).1
  refine foldl_firstLargest (f := fun m => (s.slice m).dispatch.length) _ _ k (List.mem_cons_of_mem _ (hmem.2 ⟨hk, hne⟩))
    (fun a ha => hmax a (hlt a ha)) (fun a _ => hfirst a) (List.pairwise_cons.2 ⟨fun a ha => ?_, ?_⟩)
  · have := (hmem.1 ha).2
    split <;> omega
  · exact (List.pairwise_lt_range.imp Nat.le_of_lt).filter _

theorem exec_workItemSteal (s : State) (n : Fin 16) : exec (.workItemSteal n) s = execWorkItemSteal n s := rfl

/-- The slice with the longest queue gives its oldest item away. -/
theorem exec_workItemSteal_longest (s : State) (i : Nat) (n k : Fin 16) (rest : List Nat) (ha : s.alive = true)
    (hl : s.longestQueue n = k.val) (hq : (s.slice k.val).dispatch = i :: rest) (hlost : (s.slice n.val).lost = false)
    (hempty : (s.slice n.val).dispatch = []) (hfree : (List.range 8).any (fun m => s.streamFree (8 * n.val + m)) = true) :
    exec (.workItemSteal n) s = .next ((((s.updSlice k.val fun x => { x with dispatch := rest }).noteIdle k.val).updSlice n.val fun x =>
      { x with dispatch := [i], anyWork := true }).updItem i fun w => { w with place := .queued n.val }) := by
  rw [exec_workItemSteal, execWorkItemSteal, act_alive s _ ha]
  simp only [hl, hq, if_pos (And.intro hlost (And.intro hempty hfree))]

/-- The state at which an item starts or goes on (R85, R91, R112). -/
def WorkItem.archAt (w : WorkItem) (j : Job) (im : Image) : Arch :=
  match w.committed with
  | some a => { a with gen := w.gen }
  | none => startArch (j.env (2 ^ im.fanLog2) im.portUse.toNat ⟨w.cmd, w.id, w.gen⟩) w.cmd (pktHandle j.pkt) w.gen im.mode0 j.bag.sc w.firstBag
      w.bags w.piece

/-- A stream that has taken an item. -/
def WorkItem.onStream (w : WorkItem) (j : Job) (im : Image) : Stream :=
  { arch := w.archAt j im, st := .running, item := some w.id, prog := im.code, fanLog2 := im.fanLog2, portUse := im.portUse, affine := im.affine,
    stride := BitVec.ofNat 64 (j.bag.sc.getD (bitsOf im.affine.toNat 3 0 - 8) 0) }

theorem item?_id {s : State} {i : Nat} {w : WorkItem} (h : s.item? i = some w) : w.id = i := by simpa using List.find?_some h

theorem startItem_eq {s : State} {k i : Nat} {w : WorkItem} {j : Job} {im : Image} (hw : s.item? i = some w) (hj : s.job? w.cmd = some j)
    (hi : s.image? (pktHandle j.pkt) = some im) : s.startItem k i =
      (s.setStream k (w.onStream j im)).updItem i fun v => { v with place := .running k, committed := some (w.archAt j im), pending := none } := by
  obtain rfl := item?_id hw
  unfold State.startItem
  simp only [hw, hj, Option.bind_some, hi]
  rfl

/-- Writing one stream leaves the others. -/
theorem stream_setStream_ne (s : State) (k m : Nat) (x : Stream) (hx : x ≠ {}) (h : m ≠ k) : (s.setStream k x).stream m = s.stream m := by
  rw [State.stream, setStream_streams, sput, if_neg hx, sget_sinsert, if_neg h.symm, State.stream]

theorem exec_workItemMigrate (s : State) (i : Nat) (n : Fin 16) : exec (.workItemMigrate i n) s = execWorkItemMigrate i n s := rfl

/-- What a started item needs to be moved (R122, R433). -/
def State.movable (s : State) (w : WorkItem) (k n : Nat) : Bool :=
  s.mayMigrate w k && !(s.slice n).lost && !(s.slice n).flagged && decide ((s.slice n).dispatch.length < 8)

theorem slice_markMoves (s : State) (c : CmdId) (m : Nat) : (s.markMoves c).slice m = s.slice m := by
  unfold State.markMoves; split <;> rfl

/-- A started item that may not be moved stays; one that is moved is stopped first, unless its slice is lost. -/
theorem exec_workItemMigrate_running (s : State) (i k : Nat) (w : WorkItem) (n : Fin 16) (ha : s.alive = true) (hw : s.item? i = some w)
    (hp : w.place = .running k) : exec (.workItemMigrate i n) s = .next (
      if s.movable w k n then
        ((if (s.slice (k / 8)).lost then s.markMoves w.cmd else (s.markMoves w.cmd).stopItem k i).updItem i fun w =>
          { w with place := .queued n.val, toMove := false }).updSlice n.val fun x => { x with dispatch := x.dispatch ++ [i], anyWork := true }
      else s) := by
  rw [exec_workItemMigrate, execWorkItemMigrate, act_alive s _ ha]
  simp only [hw, hp, slice_markMoves]
  rfl

/-- Settles O41: the longest queue as the first of the largest, a started item by its stream, and a migration by what it needs. -/
theorem streamsTakeItems : Obligations.StreamsTakeItems := by
  refine ⟨fun s i n k rest ha hq hmax hfirst hlost hempty ⟨m, hm, hfree⟩ => ?_, ?_, ?_⟩
  · have hne : k.val ≠ n.val := fun h => by rw [h, hempty] at hq; exact List.cons_ne_nil _ _ hq.symm
    exact exec_workItemSteal_longest s i n k rest ha (longestQueue_eq s n.val k.val k.isLt hne hmax hfirst) hq hlost hempty
      (List.any_eq_true.2 ⟨m, List.mem_range.2 hm, hfree⟩)
  · intro s k i w j im hw hj hi t env
    have ht : t = _ := startItem_eq hw hj hi
    have hx : w.onStream j im ≠ {} := fun h => StreamState.noConfusion (congrArg Stream.st h)
    have hk : t.stream k = w.onStream j im := by rw [ht]; exact stream_setStream s k _ hx
    obtain rfl := item?_id hw
    rw [hk]
    refine ⟨rfl, rfl, rfl, rfl, rfl, fun a h => ?_, fun h => ?_, by rw [ht]; rfl, by rw [ht]; rfl, by rw [ht]; rfl, fun m hm => ?_⟩
    · unfold WorkItem.onStream WorkItem.archAt; rw [h]
    · unfold WorkItem.onStream WorkItem.archAt; rw [h]
    · rw [ht]; exact stream_setStream_ne s k m _ hx hm
  · intro s i k w n ha hw hp go v
    rw [exec_workItemMigrate_running s i k w n ha hw hp]
    refine ⟨fun hmay hl hf hroom => ?_, fun h => ?_⟩
    · have hmove : s.movable w k n = true := by simp [State.movable, hmay, hl, hf, hroom]
      rw [if_pos hmove]
      exact ⟨fun hlost => by rw [if_pos hlost], fun hlost => by rw [hlost, if_neg Bool.false_ne_true]⟩
    · have hstay : s.movable w k n = false := by
        rcases h with h | h | h | h <;> simp [State.movable, h]
      rw [hstay, if_neg Bool.false_ne_true]

end Sys2Proof.Machine

namespace Sys2Proof.Machine

/-! ## Off the memory path: what accesses to memory and the trace ring leave of the state, and of every command all but the count of its
acknowledgements -/

/-- A command without the count of its acknowledgements. -/
def Job.plain (j : Job) : Job := { j with acks := 0 }

/-- The state without the memory path, the ports, the units that record, and the commands' counts of acknowledgements. An access to memory
leaves it: what `s.offPath` shows of commands, table sets, slices or arrays is what `s` does. -/
def State.offPath (s : State) : State :=
  { s with
    fresh := 0, mem := [], poison := [], rc := {}, wc := [], tokens := [], grantCache := [], pkg := [], fab := {}, err := {}, trace := {}
    counters := [], jobs := s.jobs.map Job.plain }

@[simp] theorem offPath_countEngine (s : State) (i n : Nat) : (s.countEngine i n).offPath = s.offPath := rfl
@[simp] theorem offPath_countCtx (s : State) (o i n : Nat) : (s.countCtx o i n).offPath = s.offPath := rfl
@[simp] theorem offPath_unitWork (s : State) (u n : Nat) : (s.unitWork u n).offPath = s.offPath := rfl
@[simp] theorem offPath_moved (s : State) (t : Target) (n : Nat) : (s.moved t n).offPath = s.offPath := by cases t <;> rfl
@[simp] theorem offPath_took (s : State) : s.took.offPath = s.offPath := rfl
@[simp] theorem offPath_send (s : State) (m : PkgMsg) : (s.send m).offPath = s.offPath := rfl
@[simp] theorem offPath_queueFrame (s : State) (p : Fin 8) (f : Frame) : (s.queueFrame p f).offPath = s.offPath := rfl
@[simp] theorem offPath_setWay (s : State) (set w : Nat) (x : Way) : (s.setWay set w x).offPath = s.offPath := rfl
@[simp] theorem offPath_touch (s : State) (set w : Nat) : (s.touch set w).offPath = s.offPath := rfl
@[simp] theorem offPath_traceDrop (s : State) (t : Nat) : (s.traceDrop t).offPath = s.offPath := rfl
@[simp] theorem offPath_wc (s : State) (w : List WcEntry) : ({ s with wc := w } : State).offPath = s.offPath := rfl
@[simp] theorem offPath_err (s : State) (w : Errors) : ({ s with err := w } : State).offPath = s.offPath := rfl
@[simp] theorem offPath_trace (s : State) (w : Trace) : ({ s with trace := w } : State).offPath = s.offPath := rfl
@[simp] theorem offPath_rc (s : State) (w : RowCache) : ({ s with rc := w } : State).offPath = s.offPath := rfl
@[simp] theorem offPath_fab (s : State) (w : Fabric) : ({ s with fab := w } : State).offPath = s.offPath := rfl

/-- A change of a command's count of acknowledgements alone. -/
theorem offPath_updJob (s : State) (c : CmdId) (f : Job → Job) (hf : ∀ j, (f j).plain = j.plain) : (s.updJob c f).offPath = s.offPath := by
  have hj : (s.updJob c f).jobs.map Job.plain = s.jobs.map Job.plain := by
    rw [updJob_jobs, List.map_map]
    refine List.map_congr_left fun j _ => ?_
    rw [Function.comp_apply, apply_ite Job.plain, hf, ite_self]
  unfold State.offPath
  rw [hj]
  rfl

@[simp] theorem offPath_chargeTo (s : State) (p d n : Nat) : (s.chargeTo p d n).offPath = s.offPath := by
  unfold State.chargeTo; dsimp only; split
  · rfl
  · split
    · rfl
    · split <;> rfl

@[simp] theorem offPath_notifyWrite (s : State) (w : Waiter) : (s.notifyWrite w).offPath = s.offPath := by
  cases w with
  | none => rfl
  | job c _ => exact offPath_updJob s c _ fun _ => rfl
  | remote p f => unfold State.notifyWrite; dsimp only; split <;> simp

@[simp] theorem offPath_notifyAll (s : State) (ws : List Waiter) : (s.notifyAll ws).offPath = s.offPath :=
  foldl_keeps State.offPath _ offPath_notifyWrite ws s

@[simp] theorem offPath_putSector (s : State) (w : SectorWrite) : (s.putSector w).1.offPath = s.offPath := by
  obtain ⟨p, n, h | h⟩ := putSector_cases s w <;> rw [h] <;> rfl

@[simp] theorem offPath_putSectors (ws : List SectorWrite) (s : State) : (s.putSectors ws).1.offPath = s.offPath := by
  induction ws generalizing s with
  | nil => rfl
  | cons w l ih => simp [State.putSectors, ih]

@[simp] theorem offPath_startDrain (s : State) (line : Nat) : (s.startDrain line).1.offPath = s.offPath := by
  unfold State.startDrain; split
  · rfl
  · dsimp only; split <;> simp

@[simp] theorem offPath_wcMerge (s : State) (w : LineWrite) : (s.wcMerge w).offPath = s.offPath := by
  unfold State.wcMerge; dsimp only
  generalize hc : s.chargeTo _ _ _ = t
  have h : t.offPath = s.offPath := by rw [← hc, offPath_chargeTo]
  split <;> exact h

@[simp] theorem offPath_wcPressure (q fuel : Nat) (s : State) : (s.wcPressure q fuel).1.offPath = s.offPath := by
  induction fuel generalizing s with
  | zero => rfl
  | succ n ih =>
    unfold State.wcPressure; split
    · split
      · dsimp only; rw [ih]; simp
      · rfl
    · rfl

@[simp] theorem offPath_wcEnter (s : State) (w : LineWrite) : (s.wcEnter w).1.offPath = s.offPath := by
  unfold State.wcEnter; dsimp only; split <;> simp

@[simp] theorem offPath_wcPut (s : State) (w : LineWrite) : (s.wcPut w).1.offPath = s.offPath := by
  unfold State.wcPut; split <;> simp

@[simp] theorem offPath_recordWrite (s : State) (a : Nat) (bs : List Byte) : (s.recordWrite a bs).1.offPath = s.offPath := by
  unfold State.recordWrite; dsimp only; split
  · rfl
  · split <;> simp

@[simp] theorem offPath_recorded (s : State) (e : ErrInfo) (t slot next : Nat) (bs : List Byte) : (s.recorded e t slot next bs).offPath = s.offPath := by
  unfold State.recorded; exact offPath_err s _

@[simp] theorem offPath_recordOne (s : State) (e : ErrInfo) : (s.recordOne e).1.offPath = s.offPath := by
  unfold State.recordOne; dsimp only; split
  · rw [offPath_recordWrite, offPath_err]
  · split
    · rw [offPath_countEngine, offPath_err]
    · rw [offPath_recorded, offPath_recordWrite]

@[simp] theorem offPath_errorChain (fuel : Nat) (s : State) (e : ErrInfo) : (s.errorChain e fuel).offPath = s.offPath := by
  induction fuel generalizing s e with
  | zero => unfold State.errorChain; simp
  | succ n ih =>
    unfold State.errorChain; dsimp only
    rw [foldl_keeps State.offPath _ fun s a => ih s (s.lossInfo a), offPath_recordOne]

@[simp] theorem offPath_errorRecord (s : State) (e : ErrInfo) : (s.errorRecord e).offPath = s.offPath := by
  unfold State.errorRecord; exact offPath_errorChain _ s e

@[simp] theorem offPath_lossRecords (s : State) (bad : List Nat) : (s.lossRecords bad).offPath = s.offPath :=
  foldl_keeps State.offPath _ (fun s _ => offPath_errorRecord s _) bad s

@[simp] theorem offPath_drain (s : State) (line : Nat) : (s.drain line).offPath = s.offPath := by
  unfold State.drain; dsimp only; simp

@[simp] theorem offPath_wcWrite (s : State) (w : LineWrite) : (s.wcWrite w).offPath = s.offPath := by
  unfold State.wcWrite; dsimp only; simp

@[simp] theorem offPath_unpark (es : List WcEntry) (s : State) : (s.unpark es).offPath = s.offPath := by
  induction es generalizing s with
  | nil => rfl
  | cons e l ih => unfold State.unpark; dsimp only; split <;> simp [ih]

@[simp] theorem offPath_unparkAll (s : State) : s.unparkAll.offPath = s.offPath := offPath_unpark _ s

@[simp] theorem offPath_wcBytes (s : State) (pa : Nat) (bs : List Byte) (part : Nat) (ws : List Waiter) (h : Option Nat) :
    (s.wcBytes pa bs part ws h).offPath = s.offPath := by
  unfold State.wcBytes; simp

@[simp] theorem offPath_wcAck (s : State) (line : Nat) : (s.wcAck line).offPath = s.offPath := by
  unfold State.wcAck; split
  · rfl
  · rename_i e _
    dsimp only; rw [offPath_unparkAll]
    generalize hu : ({ s with wc := s.wc.erase e } : State).notifyAll e.waiters = u
    have h : u.offPath = s.offPath := by rw [← hu, offPath_notifyAll, offPath_wc]
    clear hu
    rw [apply_ite State.offPath, offPath_send, ite_self, h]

@[simp] theorem offPath_settleLine (s : State) (line : Nat) : (s.settleLine line).offPath = s.offPath := by
  have h (n : Nat) (s : State) : (foldN n s fun s _ => s.wcAck line).offPath = s.offPath := by
    induction n with
    | zero => rfl
    | succ n ih => unfold foldN; rw [offPath_wcAck, ih]
  unfold State.settleLine; dsimp only; rw [h]; split <;> simp

@[simp] theorem offPath_replace (s : State) (set a : Nat) : (s.replace set a).1.offPath = s.offPath := by
  unfold State.replace; split
  · dsimp only; split <;> simp
  · rfl

@[simp] theorem offPath_victim (s : State) (set a : Nat) : (s.victim set a).1.offPath = s.offPath := by
  unfold State.victim; dsimp only; split
  · rfl
  · split
    · rfl
    · exact offPath_replace _ _ _

@[simp] theorem offPath_freeMirror (s : State) (set w : Nat) : (s.freeMirror set w).offPath = s.offPath := by
  unfold State.freeMirror; split <;> simp

@[simp] theorem offPath_cleanWay (s : State) (set w part : Nat) : (s.cleanWay set w part).offPath = s.offPath := by
  unfold State.cleanWay; dsimp only; split <;> simp

@[simp] theorem offPath_evict (s : State) (set w part : Nat) : (s.evict set w part).offPath = s.offPath := by
  unfold State.evict; dsimp only; rw [offPath_setWay]; split <;> simp

@[simp] theorem offPath_cleanPrimaryOf (s : State) (set m part : Nat) : (s.cleanPrimaryOf set m part).offPath = s.offPath := by
  unfold State.cleanPrimaryOf; simp

@[simp] theorem offPath_mirrorPlace (s : State) (set part : Nat) : (s.mirrorPlace set part).1.offPath = s.offPath := by
  unfold State.mirrorPlace; dsimp only
  split
  · simp
  · split
    · simp
    · split
      · simp
      · split <;> simp

@[simp] theorem offPath_mirrorWay (s : State) (set w part : Nat) : (s.mirrorWay set w part).offPath = s.offPath := by
  unfold State.mirrorWay; dsimp only
  split
  · simp
  · split <;> simp

@[simp] theorem offPath_allocRead (s : State) (pa mask : Nat) (acc : Access) : (s.allocRead pa mask acc).offPath = s.offPath := by
  unfold State.allocRead; dsimp only
  split
  · simp
  · split
    · simp
    · split
      · simp
      · split <;> simp

@[simp] theorem offPath_readMem (s : State) (pa n part : Nat) : (s.readMem pa n part).offPath = s.offPath := by unfold State.readMem; simp

@[simp] theorem offPath_fillMissing (s : State) (set w line mask : Nat) : (s.fillMissing set w line mask).offPath = s.offPath := by
  unfold State.fillMissing; split <;> simp

@[simp] theorem offPath_noteRead (s : State) (pa mask : Nat) (acc : Access) : (s.noteRead pa mask acc).offPath = s.offPath := by
  unfold State.noteRead; dsimp only
  generalize hu : (if s.noWays (setOf (lineNo (localOf pa))) (s.classMask acc.cls) then s.countEngine acc.cls 1 else s) = u
  have h : u.offPath = s.offPath := by rw [← hu]; split <;> simp
  split
  · rw [offPath_unitWork, offPath_touch]; split <;> simp [h]
  · split <;> simp [h]

@[simp] theorem offPath_readError (s : State) (e : ErrInfo) (pa : Nat) : (s.readError e pa).offPath = s.offPath := by
  unfold State.readError; split <;> simp

@[simp] theorem offPath_updatePresent (s : State) (a : Nat) (bs : List Byte) (part : Nat) : (s.updatePresent a bs part).offPath = s.offPath := by
  unfold State.updatePresent; dsimp only
  split
  · rfl
  · split <;> simp

@[simp] theorem offPath_writeThrough (s : State) (pa : Nat) (bs : List Byte) (acc : Access) : (s.writeThrough pa bs acc).offPath = s.offPath := by
  unfold State.writeThrough; simp

@[simp] theorem offPath_tellWriter (s : State) (line : Nat) (w : Waiter) : (s.tellWriter line w).offPath = s.offPath := by
  unfold State.tellWriter; split <;> simp

@[simp] theorem offPath_registerWay (s : State) (set w line : Nat) : (s.registerWay set w line).offPath = s.offPath := by
  unfold State.registerWay; dsimp only; split
  · rw [offPath_rc, offPath_send, offPath_setWay]
  · rfl

@[simp] theorem offPath_writeWay (s : State) (set w pa : Nat) (bs : List Byte) (acc : Access) : (s.writeWay set w pa bs acc).1.offPath = s.offPath := by
  unfold State.writeWay; dsimp only
  generalize hu : (if fillsFor (s.way set w) (pa % 256) bs.length = 0 then s
    else s.readMem pa (64 * popCount (fillsFor (s.way set w) (pa % 256) bs.length) 4) acc.part) = u
  have h : u.offPath = s.offPath := by rw [← hu]; split <;> simp
  split
  · simp [h]
  · rw [offPath_tellWriter, offPath_registerWay]; split <;> simp [h]

@[simp] theorem offPath_block (s : State) (b : Blocked) : (s.block b).offPath = s.offPath := rfl

@[simp] theorem offPath_writeBack (s : State) (pa : Nat) (bs : List Byte) (acc : Access) : (s.writeBack pa bs acc).1.offPath = s.offPath := by
  unfold State.writeBack; dsimp only
  split
  · simp
  · split
    · simp
    · split <;> simp

@[simp] theorem offPath_storeLine (s : State) (pa : Nat) (bs : List Byte) (acc : Access) : (s.storeLine pa bs acc).1.offPath = s.offPath := by
  unfold State.storeLine; split
  · simp
  · split <;> simp

@[simp] theorem offPath_store (s : State) (pa : Nat) (bs : List Byte) (acc : Access) : (s.store pa bs acc).1.offPath = s.offPath := by
  unfold State.store
  generalize pieces pa bs = l
  generalize true = ok
  induction l generalizing s ok with
  | nil => rfl
  | cons p l ih => rw [List.foldl_cons]; exact (ih _ _).trans (offPath_storeLine s _ _ _)

@[simp] theorem offPath_undecoded (s : State) (pa : Nat) : (s.undecoded pa).offPath = s.offPath := by unfold State.undecoded; simp

@[simp] theorem offPath_storeFirmware (s : State) (pa : Nat) (bs : List Byte) : (s.storeFirmware pa bs).offPath = s.offPath := by
  unfold State.storeFirmware; split <;> simp

@[simp] theorem offPath_grantCache (s : State) (g : Sparse (List (Nat × Nat))) : ({ s with grantCache := g } : State).offPath = s.offPath := rfl

@[simp] theorem offPath_dropGrants (s : State) : s.dropGrants.offPath = s.offPath := rfl

@[simp] theorem offPath_fetchGrant (s : State) (ctx a : Nat) : (s.fetchGrant ctx a).offPath = s.offPath := by
  unfold State.fetchGrant; split
  · rfl
  · split
    · simp
    · split
      · rfl
      · dsimp only; rw [offPath_grantCache, offPath_took, offPath_noteRead]

@[simp] theorem offPath_repairGrant (s : State) (a : Nat) : (s.repairGrant a).offPath = s.offPath := by
  unfold State.repairGrant; dsimp only; split
  · rw [offPath_dropGrants, offPath_storeFirmware, offPath_readError]
  · rfl

@[simp] theorem offPath_denied (s : State) (c a : Nat) : (s.denied c a).offPath = s.offPath :=
  (offPath_countCtx (s.repairGrant a) c 11 1).trans (offPath_repairGrant s a)

/-! ### The wait table and the trace ring -/

@[simp] theorem offPath_traceNext (s : State) (n : Nat) : (s.traceNext n).offPath = s.offPath := rfl

@[simp] theorem offPath_tracePut (s : State) (w : Wait) (t : Bool) (d : Nat) : (s.tracePut w t d).offPath = s.offPath := by
  unfold State.tracePut; dsimp only
  split
  · rw [offPath_traceDrop]
  · split
    · rw [offPath_traceDrop, offPath_denied, offPath_fetchGrant]
    · rw [offPath_traceNext, offPath_store, offPath_fetchGrant]

@[simp] theorem offPath_traceLoss (s : State) : s.traceLoss.offPath = s.offPath := by
  unfold State.traceLoss; split
  · rfl
  · rw [offPath_trace, offPath_tracePut]

@[simp] theorem offPath_traceWrite (s : State) (w : Wait) (t : Bool) (d : Nat) : (s.traceWrite w t d).offPath = s.offPath := by
  unfold State.traceWrite; dsimp only; split <;> simp

@[simp] theorem offPath_openWait (s : State) (a b c d e : Nat) : (s.openWait a b c d e).offPath = s.offPath := by
  unfold State.openWait; split <;> rfl

@[simp] theorem offPath_closeWait (s : State) (typ w : Nat) (t : Bool) (h d : Option Nat) : (s.closeWait typ w t h d).offPath = s.offPath := by
  unfold State.closeWait; split
  · rfl
  · dsimp only; split <;> simp

end Sys2Proof.Machine

namespace Sys2Proof.Machine

/-! ## Commands through updates and waits -/

theorem job?_jobs {s t : State} (h : t.jobs = s.jobs) (c : CmdId) : t.job? c = s.job? c := by rw [State.job?, h, State.job?]

/-- An update of a command's fields other than its number. -/
theorem job?_updJob (s : State) (c : CmdId) (f : Job → Job) (hf : ∀ j, (f j).id = j.id) : (s.updJob c f).job? c = (s.job? c).map f := by
  have hid : ((fun j : Job => decide (j.id = c)) ∘ fun j => if j.id = c then f j else j) = fun j => decide (j.id = c) := by
    funext j
    rw [Function.comp_apply, apply_ite Job.id, hf, ite_self]
  rw [State.job?, updJob_jobs, List.find?_map, hid]
  change (s.job? c).map _ = _
  cases h : s.job? c with
  | none => rfl
  | some j => rw [Option.map_some, Option.map_some, if_pos (job_id s c j h)]

theorem job?_updJob_some {s : State} {c : CmdId} {j : Job} (f : Job → Job) (hj : s.job? c = some j) (hf : ∀ j, (f j).id = j.id) :
    (s.updJob c f).job? c = some (f j) := by rw [job?_updJob s c f hf, hj, Option.map_some]

/-- Off the memory path a command keeps all but its count of acknowledgements. -/
theorem job?_of_offPath {s t : State} (h : t.offPath = s.offPath) {c : CmdId} {j : Job} (hj : s.job? c = some j) :
    ∃ n, t.job? c = some { j with acks := n } := by
  have find (u : State) : (u.offPath.jobs.find? fun j => decide (j.id = c)) = (u.job? c).map Job.plain := List.find?_map ..
  have hp : (t.job? c).map Job.plain = some j.plain := by rw [← find, h, find, hj, Option.map_some]
  obtain ⟨k, hk, hkj⟩ := Option.map_eq_some_iff.1 hp
  exact ⟨k.acks, hk.trans (congrArg some (congrArg (fun i : Job => { i with acks := k.acks }) hkj))⟩

theorem job?_closeWait {s : State} {c : CmdId} {j : Job} (hj : s.job? c = some j) (typ w : Nat) (t : Bool) (h d : Option Nat) :
    ∃ n, (s.closeWait typ w t h d).job? c = some { j with acks := n } := job?_of_offPath (offPath_closeWait s typ w t h d) hj

theorem job?_begin {s : State} {c : CmdId} {j : Job} (hj : s.job? c = some j) :
    ∃ n, (s.begin c).job? c = some { j with acks := n, began := true, phase := .running } := by
  obtain ⟨n, hn⟩ := job?_closeWait hj 4 (agentCmd c) false none none
  exact ⟨n, job?_updJob_some _ hn fun _ => rfl⟩

/-! ## GATHER, GATHER_SEQ and SNAPSHOT (R118, R192, R197, R212) -/

theorem exec_gather {s : State} {c : CmdId} {j : Job} (h : ReadyOp s c j opGather) :
    exec (.gather c) s = .next (((s.begin c).notStarted c .running).makeItems j).settle := by
  have := cmdRow_ready s c j opGather (fun j s => s.cutGather j) h
  rwa [State.cutGather, job_id s c j h.1.2.1] at this

theorem exec_gatherSeq {s : State} {c : CmdId} {j : Job} (h : ReadyOp s c j opGatherSeq) :
    exec (.gatherSeq c) s = .next (((s.begin c).notStarted c .running).makeItems j).settle := by
  have := cmdRow_ready s c j opGatherSeq (fun j s => s.cutGather j) h
  rwa [State.cutGather, job_id s c j h.1.2.1] at this

/-- A SNAPSHOT that reads at the epoch in force. -/
def State.readsSet (s : State) (c : CmdId) (h : Nat) : State := s.updJob c fun j => { j with epochs := [(h, s.epochOf h)] }

/-- What a SNAPSHOT that has begun nothing does, by its gate (R192, R197, R212). -/
def State.gateSnapshot (s : State) (c : CmdId) (j : Job) : State :=
  match s.gate j with
  | .torn => s.fail c stAborted
  | .held => s.notStarted c .accepted
  | .full => s.notStarted c .accepted
  | .go =>
    match (s.readsSet c (pktObj j.pkt)).job? c with
    | some k => (s.readsSet c (pktObj j.pkt)).runSnapshot k
    | none => s.readsSet c (pktObj j.pkt)

theorem exec_snapshot {s : State} {c : CmdId} {j : Job} (h : ReadyOp s c j opSnapshot) (he : j.epochs = []) :
    exec (.snapshot c) s = .next ((s.begin c).gateSnapshot c j).settle := by
  refine (cmdRow_ready s c j opSnapshot _ h).trans ?_
  dsimp only
  rw [if_neg (not_not_intro he)]
  rfl

theorem gateSnapshot_go {s : State} {c : CmdId} {j k : Job} (hg : s.gate j = .go) (hk : (s.readsSet c (pktObj j.pkt)).job? c = some k) :
    s.gateSnapshot c j = (s.readsSet c (pktObj j.pkt)).runSnapshot k := by
  unfold State.gateSnapshot
  simp only [hg, hk]

/-- A command that starts to read keeps its packet. -/
theorem readsSet_begin_pkt {s : State} {c : CmdId} {j k : Job} {h : Nat} (hj : s.job? c = some j)
    (hk : ((s.begin c).readsSet c h).job? c = some k) : k.pkt = j.pkt := by
  obtain ⟨n, hn⟩ := job?_begin hj
  obtain rfl := Option.some.inj (hk.symm.trans (job?_updJob_some _ hn fun _ => rfl))
  rfl

/-- An image that is read whole is written, and the SNAPSHOT ends (R212, R350). -/
theorem runSnapshot_read {s v x : State} {k : Job} {bs : List Byte} (hf : s.flushSketch k.id (s.whoJob k.id) (pktObj k.pkt) = (v, true))
    (hr : readImage k.id (v.whoJob k.id) (v.sections (pktObj k.pkt)) [] v = (x, .ok bs)) :
    s.runSnapshot k =
      let y := (x.updJob k.id fun j => { j with phase := .running, value0 := x.epochOf (pktObj k.pkt), value1 := bs.length }).endReads k.id
      (y.writeVa k.id (y.cmdSpace k.id) (imageVa k.pkt) bs).complete k.id := by
  unfold State.runSnapshot
  simp only [hf, hr]

/-! ## The first item of a gather (R119, R192, R198, R215) -/

theorem beginGather_plain (s : State) (j : Job) (sets : List Nat) (h : flFused j.pkt = false) : s.beginGather j sets =
    (s.begin j.id).updJob j.id fun k => { k with epochs := s.epochsOf sets, proj := none } := by
  unfold State.beginGather
  rw [h]
  rfl

section Deal
variable {s : State} {w : WorkItem} {i : Nat} {j : Job} (ha : s.alive = true)
  (hw : s.items.find? (fun w => w.place == .intake && s.mayDeal w.cmd) = some w) (hi : s.dealSlice = some i) (hj : s.job? w.cmd = some j)
include ha hw hi hj

/-- The first item that is dealt of a gather begins it at the epochs in force. -/
theorem exec_workItemDeal_begins {sets : List Nat} (hs : s.nextSets j = some sets) (hg : s.gate j = .go) (hf : flFused j.pkt = false)
    (hne : sets ≠ []) : exec .workItemDeal s = .next
      (((s.begin w.cmd).updJob w.cmd fun k => { k with epochs := s.epochsOf sets, proj := none }).dealTo w.id i).settle := by
  have hb := beginGather_plain s j sets hf
  rw [job_id s w.cmd j hj] at hb
  obtain ⟨n, hn⟩ := job?_begin hj
  have hany : (((s.beginGather j sets).job? w.cmd).any fun k => k.epochs != []) = true := by
    rw [hb, job?_updJob_some (hj := hn), Option.any_some, bne_iff_ne]
    · exact fun h => hne (List.map_eq_nil_iff.1 h)
    · exact fun _ => rfl
  rw [exec_workItemDeal, execWorkItemDeal, actS_alive s _ ha]
  simp only [hw, hi, hj, hg, hs, hany, if_true]
  rw [hb]

/-- A command that would begin with a TORN set ends. -/
theorem exec_workItemDeal_torn (hg : s.gate j = .torn) : exec .workItemDeal s = .next (s.fail w.cmd stAborted).settle := by
  rw [exec_workItemDeal, execWorkItemDeal, actS_alive s _ ha]
  simp only [hw, hi, hj, hg]

end Deal

/-! ## Holds (R202, R203) -/

/-- The sets that hold a command, each since when, once these do. -/
def Job.heldNow (j : Job) (now : List Nat) (t : Nat) : List (Nat × Nat) :=
  (j.heldBy.filter fun e => now.contains e.1) ++ (now.filter fun h => !(j.heldBy.any fun e => e.1 == h)).map fun h => (h, t)

theorem mem_heldNow (j : Job) (now : List Nat) (t h : Nat) : h ∈ (j.heldNow now t).map (·.1) ↔ h ∈ now := by
  simp only [Job.heldNow, List.map_append, List.mem_append, List.mem_map, List.mem_filter, List.contains_iff_mem]
  constructor
  · rintro (⟨e, ⟨-, he⟩, rfl⟩ | ⟨e, ⟨x, ⟨hx, -⟩, rfl⟩, rfl⟩)
    · exact he
    · exact hx
  · intro hn
    by_cases hh : ∃ e ∈ j.heldBy, e.1 = h
    · obtain ⟨e, he, rfl⟩ := hh
      exact .inl ⟨e, ⟨he, hn⟩, rfl⟩
    · refine .inr ⟨_, ⟨h, ⟨hn, ?_⟩, rfl⟩, rfl⟩
      simpa using fun a b hab (hah : a = h) => hh ⟨(a, b), hab, hah⟩

theorem heldNow_none (j : Job) (t : Nat) : j.heldNow [] t = [] := by simp [Job.heldNow]

/-- The state once the sets that let a command go count the time, and those that hold it anew the suspension (R203). -/
def State.countHolds (s : State) (j : Job) (now : List Nat) : State :=
  (now.filter fun h => !(j.heldBy.any fun e => e.1 == h)).foldl (fun s h => s.countSet h 3 1)
    ((j.heldBy.filter fun e => !now.contains e.1).foldl (fun s e => s.countSet e.1 4 (s.time - e.2)) s)

theorem countHolds_keeps {β : Type} (p : State → β) (hp : ∀ u h i n, p (u.countSet h i n) = p u) (s : State) (j : Job) (now : List Nat) :
    p (s.countHolds j now) = p s := by
  rw [State.countHolds, foldl_keeps p _ fun u h => hp u h 3 1, foldl_keeps p _ fun u (e : Nat × Nat) => hp u e.1 4 (u.time - e.2)]

theorem holdSets_eq (s : State) (j : Job) (now : List Nat) : s.holdSets j now =
    (s.countHolds j now).updJob j.id fun k => { k with
      heldBy := (k.heldBy.filter fun e => now.contains e.1) ++
        (now.filter fun h => !(j.heldBy.any fun e => e.1 == h)).map fun h => (h, (s.countHolds j now).time) } := rfl

theorem job?_holdSets {s : State} {c : CmdId} {j : Job} (hj : s.job? c = some j) (now : List Nat) :
    (s.holdSets j now).job? c = some { j with heldBy := j.heldNow now s.time } := by
  obtain rfl := job_id s c j hj
  have hcount : (s.countHolds j now).job? j.id = some j := (job?_jobs (countHolds_keeps State.jobs (fun _ _ _ _ => rfl) ..) _).trans hj
  have htime : (s.countHolds j now).time = s.time := countHolds_keeps State.time (fun _ _ _ _ => rfl) ..
  rw [holdSets_eq, htime]
  exact job?_updJob_some _ hcount fun _ => rfl

/-- A hold that starts: from that time on, by the sets that hold the command. -/
theorem job?_startHold {s : State} {c : CmdId} {j : Job} (hj : s.job? c = some j) (k : Job) (hk : k.id = c) (h : Nat) :
    (s.startHold k h).job? c = some { j with heldSince := some s.time, wasHeld := true } := by
  subst hk
  have open_ (u : State) (a b c d e : Nat) : (u.openWait a b c d e).jobs = u.jobs := by unfold State.openWait; split <;> rfl
  exact (job?_jobs (open_ ..) _).trans (job?_updJob_some _ hj fun _ => rfl)

/-- A hold that ends counts its time. -/
theorem job?_endHold {s : State} {c : CmdId} {j : Job} {since : Nat} (hj : s.job? c = some j) (hs : j.heldSince = some since) (timeout : Bool) :
    ∃ n, (s.endHold j timeout).job? c = some { j with acks := n, heldBy := [], heldSince := none, holdNs := j.holdNs + (s.time - since) } := by
  have hset := job?_holdSets hj []
  rw [heldNow_none] at hset
  obtain rfl := job_id s c j hj
  unfold State.endHold
  simp only [hs]
  refine job?_closeWait (j := { j with heldBy := [], heldSince := none, holdNs := j.holdNs + (s.time - since) }) ?_ ..
  exact job?_updJob_some _ hset fun _ => rfl

section Rehold
variable {s : State} {c : CmdId} {j : Job} (hj : s.job? c = some j)
include hj

theorem rehold_free (hs : j.heldSince = none) (hh : s.holders j = []) : s.rehold c = s := by
  unfold State.rehold
  simp only [hj, hs, hh]

theorem job?_rehold_starts (hs : j.heldSince = none) (hh : s.holders j ≠ []) : (s.rehold c).job? c =
    some { j with heldBy := j.heldNow (s.holders j) s.time, heldSince := some s.time, wasHeld := true } := by
  obtain ⟨h, rest, hl⟩ := List.exists_cons_of_ne_nil hh
  have htime : (s.holdSets j (h :: rest)).time = s.time := congrArg Kept.time (kept_holdSets ..)
  have hset := job?_startHold (job?_holdSets hj (h :: rest)) j (job_id s c j hj) h
  rw [htime] at hset
  unfold State.rehold
  simp only [hj, hs, hl]
  exact hset

theorem job?_rehold_ends {since : Nat} (hs : j.heldSince = some since) (hh : s.holders j = []) : ∃ n, (s.rehold c).job? c =
    some { j with acks := n, heldBy := [], heldSince := none, holdNs := j.holdNs + (s.time - since), promised := s.promise j } := by
  obtain ⟨n, hn⟩ := job?_endHold hj hs false
  refine ⟨n, ?_⟩
  unfold State.rehold
  simp only [hj, hs, hh]
  exact job?_updJob_some _ hn fun _ => rfl

end Rehold

/-! ## The timeout of a minimum epoch (R200, R362) -/

/-- What a held command that would begin next awaits a minimum epoch for. -/
theorem minExpired_iff {s : State} {j : Job} {since : Nat} (hs : j.heldSince = some since) : s.minExpired j = true ↔
    (s.nextSets j).isSome = true ∧ j.epochs = [] ∧ (∃ e ∈ s.minEpochs j, epochReached (s.epochOf e.1) e.2 = false) ∧
      since + ((s.context? j.id.ctx).map (·.timeoutMs)).getD 0 * 1000000 ≤ s.time := by
  unfold State.minExpired
  simp only [hs, Bool.and_eq_true, beq_iff_eq, List.any_eq_true, Bool.not_eq_true', decide_eq_true_eq, and_assoc]

theorem exec_commandTimeout_eq (s : State) (c : CmdId) : exec (.commandTimeout c) s = execCommandTimeout c s := rfl

theorem exec_commandTimeout {s : State} {c : CmdId} {j : Job} (ha : s.alive = true) (hj : s.job? c = some j) :
    exec (.commandTimeout c) s = .next (if s.minExpired j then (s.endHold j true).fail c stAborted else s).settle := by
  rw [exec_commandTimeout_eq, execCommandTimeout, actS_alive s _ ha]
  simp only [hj]

theorem exec_commandTimeout_stays {s : State} {c : CmdId} {j : Job} (ha : s.alive = true) (hj : s.job? c = some j)
    (h : ¬ s.minExpired j = true) : exec (.commandTimeout c) s = .next s.settle := by
  rw [exec_commandTimeout ha hj, if_neg h]

/-- Settles O33: a gather is cut and begun by its first item, a SNAPSHOT goes by its gate, a hold by the sets that hold, and a minimum epoch's
timeout by what it tests. -/
theorem gathersBeginOrAreHeld : Obligations.GathersBeginOrAreHeld := by
  refine ⟨fun s c j => ⟨exec_gather, exec_gatherSeq, ?_, ?_, ?_⟩, ?_, ?_, ?_⟩
  · intro k v x bs hr he hg w hk hf hread y
    have hpkt : k.pkt = j.pkt := readsSet_begin_pkt hr.1.2.1 hk
    obtain rfl := job_id w c k hk
    rw [← hpkt] at hf hread
    have hrun : (s.begin k.id).gateSnapshot k.id j = w.runSnapshot k := gateSnapshot_go hg hk
    rw [exec_snapshot hr he, hrun, runSnapshot_read hf hread, ← hpkt]
  · intro hr he hg
    rw [exec_snapshot hr he, State.gateSnapshot]
    rcases hg with hg | hg <;> rw [hg]
  · intro hr he hg
    rw [exec_snapshot hr he, State.gateSnapshot, hg]
  · intro s w i j ha hw hi hj
    exact ⟨fun sets hs hg hf hne => exec_workItemDeal_begins ha hw hi hj hs hg hf hne, exec_workItemDeal_torn ha hw hi hj⟩
  · intro s c j hj t
    refine ⟨kept_rehold s c, rehold_free hj, fun hs hh => ?_, fun since hs hh => ?_⟩
    · exact ⟨_, job?_rehold_starts hj hs hh, rfl, rfl, mem_heldNow j _ _⟩
    · obtain ⟨n, hn⟩ := job?_rehold_ends hj hs hh
      exact ⟨_, hn, rfl, rfl, rfl⟩
  · intro s c j since ha hj hs ms short
    have hexp := minExpired_iff (s := s) hs
    rw [job_id s c j hj] at hexp
    refine ⟨fun hn he hsh ht => ?_, fun ht => ?_, fun hsh => ?_⟩
    · rw [exec_commandTimeout ha hj, if_pos (hexp.2 ⟨hn, he, hsh, ht⟩)]
    · exact exec_commandTimeout_stays ha hj fun h => absurd (hexp.1 h).2.2.2 (Nat.not_le.2 ht)
    · exact exec_commandTimeout_stays ha hj fun h => hsh (hexp.1 h).2.2.1

end Sys2Proof.Machine

namespace Sys2Proof.Machine

/-! ## Pass 1 of a scatter (R155, R156, R165) -/

theorem exec_scatterGrad {s : State} {c : CmdId} {j : Job} (h : ReadyOp s c j opScatter) :
    exec (.scatterGrad c) s = .next ((s.begin c).startScatter j).settle :=
  cmdRow_ready s c j opScatter (fun j s => s.startScatter j) h

/-- A scatter of the step in force, or of a set that is open again, does not wait for the next step (R155). -/
theorem nextWaits_eq_false {x : ScatterJob} {st : TsState} (h : x.next = false ∨ st = .opened) : (x.next && st != .opened) = false := by
  rcases h with h | h <;> simp [h]

section StartScatter
variable {s : State} {j : Job} {x : ScatterJob} {st : TsState} (hx : j.scatter = some x) (h1 : x.pass1 = false)
  (hst : ((s.tset? x.tset).map (·.st)).getD .torn = st)
include hx h1 hst

theorem startScatter_torn (ht : st = .torn) : s.startScatter j = s.fail j.id stAborted := by
  unfold State.startScatter
  simp only [hx, h1, hst, ht, Bool.false_eq_true, if_true, if_false]

theorem startScatter_waits (ht : st ≠ .torn) (hn : x.next = true) (ho : st ≠ .opened) : s.startScatter j = s.notStarted j.id .waiting := by
  have hwait : (x.next && st != .opened) = true := by simp [hn, ho]
  unfold State.startScatter
  simp only [hx, h1, hst, if_neg ht, hwait, Bool.false_eq_true, if_true, if_false]

theorem startScatter_closed (ht : st ≠ .torn) (ho : x.next = false ∨ st = .opened) (hc : s.fixedConflict j = true) :
    s.startScatter j = (s.countSet x.tset 10 1).complete j.id stStepClosed { object := x.tset } := by
  unfold State.startScatter
  simp only [hx, h1, hst, if_neg ht, nextWaits_eq_false ho, hc, Bool.false_eq_true, if_true, if_false]

/-- Pass 1 ends over the references and bags read, its FIXED tables with the command's T. -/
theorem startScatter_pass1 {v : State} {d : ScatterData} (ht : st ≠ .torn) (ho : x.next = false ∨ st = .opened) (hc : s.fixedConflict j = false)
    (hd : s.scatterData j = (v, .ok d)) : s.startScatter j = (v.takeFixedT j).endPass1 j x d := by
  unfold State.startScatter
  simp only [hx, h1, hst, if_neg ht, nextWaits_eq_false ho, hc, hd, Bool.false_eq_true, if_false]

end StartScatter

/-! ## Pass 2, the adds and the flush (R157, R168, R171, R175) -/

theorem exec_pass2Start (s : State) (c : CmdId) : exec (.pass2Start c) s = execPass2Start c s := rfl
theorem exec_stagingAdd (s : State) (c : CmdId) : exec (.stagingAdd c) s = execStagingAdd c s := rfl
theorem exec_heavyRowFlush (s : State) (c : CmdId) : exec (.heavyRowFlush c) s = execHeavyRowFlush c s := rfl

section Running
variable {s : State} {c : CmdId} {j : Job} {x : ScatterJob} (ha : s.alive = true) (hj : s.job? c = some j) (hx : j.scatter = some x)
include ha hj hx

theorem exec_pass2Start_running (hf : s.faultWait (.job c) = false) (hp : j.phase = .running) : exec (.pass2Start c) s =
    .next (if s.mayPass2 x then ((if x.group then s.findT x.tset else s).runPass2 j x).checkScatter c else s.groupWait c x).settle := by
  rw [exec_pass2Start, execPass2Start, actS_alive s _ ha]
  simp only [hj, hx, hp, hf, and_self, if_true]

theorem exec_stagingAdd_oldest {a : StageAdd} {rest : List StageAdd} (hf : s.faultWait (.job c) = false) (hadds : x.adds = a :: rest) :
    exec (.stagingAdd c) s = .next (s.stageOneAdd c x a).settle := by
  rw [exec_stagingAdd, execStagingAdd, actSWhen_of s _ _ ha (by rw [hf]; rfl)]
  simp only [hj, hx, hadds, Option.bind_some]

theorem exec_heavyRowFlush_due (h2 : x.pass2 = true) (hr : x.rolling = false) (hacc : s.accumulators c x ≠ [])
    (hall : ((s.heavyShare c x).all (·.pass2Ended)) = true) : exec (.heavyRowFlush c) s =
      .next (s.updScatter c fun y => { y with adds := y.adds ++ s.accumulators c x }).settle := by
  have hdue : (x.pass2 && !x.rolling && decide (s.accumulators c x ≠ []) && (s.heavyShare c x).all (·.pass2Ended)) = true := by
    rw [h2, hr, hall, decide_eq_true hacc]; rfl
  rw [exec_heavyRowFlush, execHeavyRowFlush, actS_alive s _ ha]
  simp only [hj, hx, Option.bind_some, hdue, if_true]

end Running

section StageOneAdd
variable {s v : State} {c : CmdId} {x : ScatterJob} {a : StageAdd} {t : Table} (ht : s.table? a.table = some t)
include ht

/-- An add of the command's own takes a slot. -/
theorem stageOneAdd_slot {n : Nat} (hown : (a.heavy && !x.rolling) = false)
    (hadd : s.addToSlot c (s.whoJob c) t (t.opt.getD {}) a = (v, .slot n)) :
    s.stageOneAdd c x a = (v.updScatter c (·.madeOne a)).checkScatter c := by
  unfold State.stageOneAdd
  simp only [ht, hown, hadd, Bool.false_eq_true, if_false]

/-- An add of the command's own finds the slots of its table taken. -/
theorem stageOneAdd_full (hh : a.heavy = false) (hr : x.rolling = false)
    (hadd : s.addToSlot c (s.whoJob c) t (t.opt.getD {}) a = (v, .full)) :
    s.stageOneAdd c x a = v.fail c stStaging { object := a.table, value := t.slots, limit := (t.opt.getD {}).maxTouched } := by
  unfold State.stageOneAdd
  simp only [ht, hh, Bool.false_and, hr, hadd, Bool.false_eq_true, if_false]

/-- An add of a flush carries the sum in the accumulators, not the command's own part. -/
theorem stageOneAdd_flush {b : StageAdd} {n : Nat} (hflush : (a.heavy && !x.rolling) = true)
    (hb : (s.accumulators c x).find? a.sameSeg = some b) (hadd : s.addToSlot c (s.whoJob c) t (t.opt.getD {}) b = (v, .slot n)) :
    s.stageOneAdd c x a = v.madeFlush c x a := by
  unfold State.stageOneAdd
  simp only [ht, hflush, hb, hadd, if_true]

/-- An add of a flush that no scatter has a part of any more is made at once. -/
theorem stageOneAdd_flush_none (hflush : (a.heavy && !x.rolling) = true) (hb : (s.accumulators c x).find? a.sameSeg = none) :
    s.stageOneAdd c x a = s.madeFlush c x a := by
  unfold State.stageOneAdd
  simp only [ht, hflush, hb, if_true]

end StageOneAdd

/-! ## The end of a scatter (R160, R177, R356) -/

/-- The window exponents and the counts in the words of a scatter's status record (R356). -/
def State.scatterWords (s : State) (c : CmdId) (x : ScatterJob) : State :=
  s.updJob c fun k => { k with words := [leNat (x.usedT.map fun (v : Int) => BitVec.ofInt 8 v), k.drops, k.trunc, k.clamp, k.mismatch] }

/-- A running scatter with no add left ends, with a cause for drops and mismatches and one for clamped elements. -/
theorem checkScatter_ends {s : State} {c : CmdId} {j : Job} {x : ScatterJob} (hj : s.job? c = some j) (hx : j.scatter = some x)
    (hp : j.phase = .running) (h2 : x.pass2 = true) (hr : x.rolling = false) (hadds : x.adds = []) (hheavy : x.heavyAdds = []) :
    s.checkScatter c =
      let u := s.scatterWords c x
      let v := if j.drops = 0 ∧ j.empty = 0 ∧ j.mismatch = 0 then u else u.cause c stDrops
      (if j.clamp = 0 then v else v.cause c stClamped).finish c := by
  unfold State.checkScatter
  simp only [hj, hx, hp, h2, hr, hadds, hheavy, and_self, if_true]
  rfl

/-- Settles O35: pass 1 by the state of its set, an add by the slot that it finds, and the end by the counts of the scatter. -/
theorem scattersRunInPasses : Obligations.ScattersRunInPasses := by
  refine ⟨?_, ?_, ?_⟩
  · intro s c j x hr hx h1 u st
    obtain rfl := hr.1.id_eq
    rw [exec_scatterGrad hr]
    refine ⟨fun hst => ?_, fun hst hn ho => ?_, fun hst ho hc => ?_, fun v d hst ho hc hd => ?_⟩
    · rw [startScatter_torn hx h1 rfl hst]
    · rw [startScatter_waits hx h1 rfl hst hn ho]
    · rw [startScatter_closed hx h1 rfl hst ho hc]
    · rw [startScatter_pass1 hx h1 rfl hst ho hc hd]
  · intro s c j x ha hj hx hf
    refine ⟨fun hp hm => ?_, fun hp hm => ?_, ?_, exec_heavyRowFlush_due ha hj hx⟩
    · rw [exec_pass2Start_running ha hj hx hf hp, if_pos hm]
    · rw [exec_pass2Start_running ha hj hx hf hp, if_neg (Bool.eq_false_iff.1 hm)]
    · intro a rest t hadds ht full
      rw [exec_stagingAdd_oldest ha hj hx hf hadds]
      refine ⟨fun v n hown hadd => ?_, fun v hh hr hadd => ?_, fun v n b hh hr hb hadd => ?_, fun hh hr hb => ?_⟩
      · rw [stageOneAdd_slot ht (by rcases hown with h | h <;> simp [h]) hadd]
      · rw [stageOneAdd_full ht hh hr hadd]
      · rw [stageOneAdd_flush ht (by simp [hh, hr]) hb hadd]
      · rw [stageOneAdd_flush_none ht (by simp [hh, hr]) hb]
  · intro s c j x hj hx hp h2 hr hadds hheavy u
    rw [checkScatter_ends hj hx hp h2 hr hadds hheavy]
    dsimp only
    have hsome (h : 0 < j.drops ∨ 0 < j.empty ∨ 0 < j.mismatch) : ¬(j.drops = 0 ∧ j.empty = 0 ∧ j.mismatch = 0) := by omega
    refine ⟨fun hd he hm hc => ?_, fun h hc => ?_, fun hd he hm hc => ?_, fun h hc => ?_⟩
    · rw [if_pos hc, if_pos ⟨hd, he, hm⟩]; rfl
    · rw [if_pos hc, if_neg (hsome h)]; rfl
    · rw [if_neg (Nat.ne_of_gt hc), if_pos ⟨hd, he, hm⟩]; rfl
    · rw [if_neg (Nat.ne_of_gt hc), if_neg (hsome h)]; rfl

end Sys2Proof.Machine

namespace Sys2Proof.Machine

/-! ## Table sets through updates and waits -/

/-- An update of the entries of one key. -/
theorem kget_map_key {α : Type} (m : List (Nat × α)) (k : Nat) (f : α → α) :
    kget (m.map fun e => if e.1 = k then (e.1, f e.2) else e) k = (kget m k).map f := by
  induction m with
  | nil => rfl
  | cons e m ih =>
    rw [List.map_cons]
    by_cases he : e.1 = k
    · simp [kget, he]
    · simp [kget, he, ih]

theorem tset?_updTset (s : State) (h : Nat) (f : TableSet → TableSet) : (s.updTset h f).tset? h = (s.tset? h).map f := kget_map_key s.tsets h f

theorem tset?_tsets {s t : State} (h : t.tsets = s.tsets) (k : Nat) : t.tset? k = s.tset? k := by rw [State.tset?, h, State.tset?]

@[simp] theorem openWait_tsets (s : State) (a b c d e : Nat) : (s.openWait a b c d e).tsets = s.tsets := by
  have h := congrArg State.tsets (offPath_openWait s a b c d e)
  exact h

@[simp] theorem closeWait_tsets (s : State) (typ w : Nat) (t : Bool) (h d : Option Nat) : (s.closeWait typ w t h d).tsets = s.tsets := by
  have hp := congrArg State.tsets (offPath_closeWait s typ w t h d)
  exact hp

@[simp] theorem begin_tsets (s : State) (c : CmdId) : (s.begin c).tsets = s.tsets := closeWait_tsets ..

@[simp] theorem isTorn_begin (s : State) (c : CmdId) (h : Nat) : (s.begin c).isTorn h = s.isTorn h := by
  rw [State.isTorn, tset?_tsets (begin_tsets s c), State.isTorn]

/-! ## Rules of a block that its fields keep (R477) -/

theorem firstBroken_cons_ok (r : FieldRule) (rules : List FieldRule) (h : r.ok = true) : firstBroken (r :: rules) = firstBroken rules :=
  List.find?_cons_of_neg (by simp [h])

theorem firstBroken_reserved (b : List Byte) (off n : Nat) (h : zeroRange b off n = true) : firstBroken [reservedRule b off n] = none := by
  rw [reservedRule_of_zeroRange b off n h]
  rfl

/-! ## How a command that has started ends or waits -/

/-- A command that fails without work items of its own leaves what records leave. -/
theorem kept_fail (s : State) (c : CmdId) (st : Nat) (d : ErrDetail) (h : (s.items.all fun w => w.cmd != c) = true) :
    (s.fail c st d).kept = s.kept := kept_finish (s.cause c st d) c h

section Ends
variable {s : State} {c : CmdId} {j : Job} {i : Instr}

theorem endsAs_malformed {why index value : Nat} (h : Ready s c j) (he : exec i s = .next ((s.begin c).malformed j why index value).settle) :
    EndsAs i s ((s.begin c).malformed j why index value) s.kept := by
  unfold State.malformed at he ⊢
  rw [h.id_eq] at he ⊢
  exact endsAs_complete h he rfl (kept_begin s c)

theorem endsAs_fail {st : Nat} {d : ErrDetail} (h : Ready s c j) (he : exec i s = .next ((s.begin c).fail c st d).settle) :
    EndsAs i s ((s.begin c).fail c st d) s.kept :=
  ⟨he, by rw [kept_settle, kept_fail _ _ _ _ h.noItems, kept_begin]⟩

theorem endsAs_await (he : exec i s = .next ((s.begin c).await c).settle) : EndsAs i s ((s.begin c).await c) s.kept :=
  ⟨he, by rw [kept_settle, State.await, kept_updJob, kept_begin]⟩

end Ends

end Sys2Proof.Machine

namespace Sys2Proof.Machine

/-! ## The gate of a reading command (R187, R192, R197, R199, R200, R204, R215) -/

/-- The minimum epoch that a command names for a set, which the set has not reached (R200). -/
def State.awaitsMin (s : State) (j : Job) (h : Nat) : Prop :=
  j.epochs = [] ∧ ∃ e ∈ s.minEpochs j, e.1 = h ∧ epochReached (s.epochOf h) e.2 = false

/-- A set lets a command begin: it is open or pending, or it drains and the command was accepted before; and the command awaits no minimum
epoch of it (R187, R192, R197, R200). -/
def State.lets (s : State) (j : Job) (h : Nat) : Prop :=
  (s.setState h = .opened ∨ s.setState h = .pending ∨ (s.setState h = .draining ∧ h ∈ j.promised)) ∧ ¬s.awaitsMin j h

theorem ne_torn_of_lets {s : State} {j : Job} {h : Nat} (hl : s.lets j h) : s.setState h ≠ .torn := by
  intro ht
  obtain ⟨h1 | h1 | ⟨h1, -⟩, -⟩ := hl <;> exact TsState.noConfusion (h1.symm.trans ht)

/-- A set that is not TORN either holds a command or lets it begin. -/
theorem holds_eq_false_iff {s : State} {j : Job} {h : Nat} (ht : s.setState h ≠ .torn) : s.holds j h = false ↔ s.lets j h := by
  have hmin : (j.epochs == [] && (s.minEpochs j).any fun e => e.1 == h && !epochReached (s.epochOf h) e.2) = false ↔ ¬s.awaitsMin j h := by
    rw [← Bool.not_eq_true, Bool.and_eq_true, List.any_eq_true, beq_iff_eq]
    simp only [Bool.and_eq_true, beq_iff_eq, Bool.not_eq_true', State.awaitsMin]
  unfold State.holds State.lets
  rw [Bool.or_eq_false_iff, hmin]
  refine and_congr_left' ?_
  cases hst : s.setState h with
  | torn => exact absurd hst ht
  | draining => simp [TsState.open]
  | opened | pending | writing | committing => simp [TsState.open]

theorem holders_eq {s : State} {j : Job} {sets : List Nat} (hs : s.nextSets j = some sets) : s.holders j = sets.filter (s.holds j) := by
  unfold State.holders
  rw [hs]

section Gate
variable {s : State} {j : Job} {sets : List Nat} (hs : s.nextSets j = some sets)
include hs

/-- The gate by its three tests: a TORN set, a set that holds, a set with sixteen readers. -/
theorem gate_eq : s.gate j =
    if ∃ h ∈ sets, s.setState h = .torn then .torn
    else if ∃ h ∈ sets, s.holds j h = true then .held
    else if ∃ h ∈ sets, 16 ≤ (s.reading h).length then .full
    else .go := by
  have hheld : sets.filter (s.holds j) ≠ [] ↔ ∃ h ∈ sets, s.holds j h = true := by simp
  unfold State.gate
  rw [hs, holders_eq hs]
  simp only [hheld, List.any_eq_true, beq_iff_eq, decide_eq_true_eq]

theorem gate_torn (ht : ∃ h ∈ sets, s.setState h = .torn) : s.gate j = .torn := by rw [gate_eq hs, if_pos ht]

theorem gate_held (ht : ∀ h ∈ sets, s.setState h ≠ .torn) (hn : ∃ h ∈ sets, ¬s.lets j h) : s.gate j = .held := by
  obtain ⟨h, hm, hl⟩ := hn
  have hh : s.holds j h = true := by
    rw [← Bool.not_eq_false, holds_eq_false_iff (ht h hm)]
    exact hl
  rw [gate_eq hs, if_neg (by push Not; exact ht), if_pos ⟨h, hm, hh⟩]

/-- Sets that all let the command begin leave the gate to the number of their readers. -/
theorem gate_of_lets (hl : ∀ h ∈ sets, s.lets j h) : s.gate j = if ∃ h ∈ sets, 16 ≤ (s.reading h).length then .full else .go := by
  have hfree : ¬∃ h ∈ sets, s.holds j h = true := by
    rintro ⟨h, hm, hh⟩
    rw [(holds_eq_false_iff (ne_torn_of_lets (hl h hm))).2 (hl h hm)] at hh
    exact Bool.noConfusion hh
  have htorn : ¬∃ h ∈ sets, s.setState h = .torn := fun ⟨h, hm, ht⟩ => ne_torn_of_lets (hl h hm) ht
  rw [gate_eq hs, if_neg htorn, if_neg hfree]

end Gate

/-- Settles O32: a set that is not TORN holds or lets, and the gate asks in the order torn, held, full. -/
theorem readersGate : Obligations.ReadersGate := by
  intro s j sets hs awaits lets
  refine ⟨gate_torn hs, gate_held hs, fun hl hfull => ?_, fun hl hroom => ?_⟩
  · rw [gate_of_lets hs hl, if_pos hfull]
  · rw [gate_of_lets hs hl, if_neg (by push Not; exact hroom)]

end Sys2Proof.Machine

namespace Sys2Proof.Machine

/-! ## The end of a step: PENDING (R157, R171, R188, R189) -/

/-- A group that has closed before, or that has no scatter, has no heavy rows to choose (R157, R171). -/
theorem closeGroup_plain {s : State} {h : Nat} {t : TableSet} (ht : s.tset? h = some t)
    (hg : (∀ d ∈ t.members, (s.job? d).bind (·.scatter) = none) ∨ t.groupClosed = true) :
    s.closeGroup h = s.updTset h fun t => { t with groupClosed := true } := by
  unfold State.closeGroup
  simp only [ht, Option.getD_some]
  rcases hg with hg | hg
  · have hnone : (t.members.findSome? fun c => (((s.updTset h fun t => { t with groupClosed := true }).job? c).bind (·.scatter)).map fun x =>
        (c, x)) = none := List.findSome?_eq_none_iff.2 fun d hd => Option.map_eq_none_iff.2 (hg d hd)
    rw [hnone]
    cases t.groupClosed <;> rfl
  · rw [hg]

/-- A set that closes its step without heavy rows to choose is PENDING under its command. -/
theorem tset?_enterPending {s : State} {h : Nat} {t : TableSet} (c : CmdId) (a : ApplyJob) (ht : s.tset? h = some t) (ho : t.st = .opened)
    (hg : (∀ d ∈ t.members, (s.job? d).bind (·.scatter) = none) ∨ t.groupClosed = true) :
    (s.enterPending c h a).tset? h = some { t with st := .pending, groupClosed := true, apply := some a } := by
  unfold State.enterPending
  dsimp only
  rw [tset?_tsets (openWait_tsets ..), tset?_tsets (updJob_tsets ..), tset?_updTset, closeGroup_plain ht hg, tset?_updTset, ht]
  simp [ho]

/-! ## APPLY_EPOCH and RESTORE (R189, R190, R213, R215) -/

section Steps
variable {s : State} {c : CmdId} {j : Job} {t : TableSet}

theorem exec_applyEpoch (h : ReadyOp s c j opApply) : exec (.applyEpoch c) s = .next ((s.begin c).tryApply j).settle :=
  cmdRow_ready s c j opApply (fun j s => s.tryApply j) h

theorem exec_restore (h : ReadyOp s c j opRestore) : exec (.restore c) s = .next ((s.begin c).tryRestore j).settle :=
  cmdRow_ready s c j opRestore (fun j s => s.tryRestore j) h

/-- A set in which a RESTORE is accepted (R213). -/
theorem accepts_restore (ho : t.st = .opened ∨ t.st = .torn) (ha : t.apply = none) :
    ¬((t.st ≠ .opened ∧ t.st ≠ .torn) ∨ t.apply.isSome = true) := by
  rw [ha]
  rcases ho with h | h <;> simp [h]

section Try
variable (ht : s.tset? (pktObj j.pkt) = some t)
include ht

theorem tryApply_torn (hs : t.st = .torn) : s.tryApply j = s.fail j.id stAborted := by
  unfold State.tryApply
  simp only [ht, hs, if_true]

theorem tryApply_waits (ho : t.st ≠ .opened) (hs : t.st ≠ .torn) : s.tryApply j = s.await j.id := by
  unfold State.tryApply
  simp only [ht, if_neg hs, if_pos (Or.inl ho)]

/-- An open set with no window in progress compares the epoch that it expects (R190). -/
theorem tryApply_open (ho : t.st = .opened) (ha : t.apply = none) : s.tryApply j =
    if pktCount j.pkt = t.epoch then s.enterPending j.id (pktObj j.pkt) { cmd := j.id, isRestore := false, mu := muOf j.pkt }
    else s.complete j.id stEpochMismatch { value := pktCount j.pkt, limit := t.epoch } := by
  unfold State.tryApply
  simp only [ht, ho, ha, reduceCtorEq, ne_eq, not_true_eq_false, Option.isSome_none, Bool.false_eq_true, or_self, if_false, ite_not]

theorem tryRestore_pending (hs : t.st = .pending) : s.tryRestore j = s.await j.id := by
  unfold State.tryRestore
  simp only [ht, hs, reduceCtorEq, ne_eq, not_false_eq_true, and_self, true_or, if_true]

/-- An image that passes the checks has its window entered (R213, R351). -/
theorem tryRestore_enters {v : State} {x : List (Nat × Nat × ImgSec)} (ho : t.st = .opened ∨ t.st = .torn) (ha : t.apply = none)
    (hk : checkSections (pktObj j.pkt) j.id (s.whoJob j.id) (imageVa j.pkt) (s.sections (pktObj j.pkt)) 0 [] s = (v, .ok x)) :
    s.tryRestore j = v.enterPending j.id (pktObj j.pkt) { cmd := j.id, isRestore := true, image := imageVa j.pkt } := by
  unfold State.tryRestore
  simp only [ht, if_neg (accepts_restore ho ha), hk]

/-- An image that a check refuses ends the RESTORE with what the check says. -/
theorem tryRestore_refused {v : State} {st : Nat} {d : ErrDetail} (ho : t.st = .opened ∨ t.st = .torn) (ha : t.apply = none)
    (hk : checkSections (pktObj j.pkt) j.id (s.whoJob j.id) (imageVa j.pkt) (s.sections (pktObj j.pkt)) 0 [] s = (v, .stop st d)) :
    s.tryRestore j = v.complete j.id st d := by
  unfold State.tryRestore
  simp only [ht, if_neg (accepts_restore ho ha), hk]

end Try

end Steps

/-- Settles O36: APPLY_EPOCH and RESTORE by the state of their set, and a step that closes by what it makes of the set. -/
theorem stepsClose : Obligations.StepsClose := by
  intro s c j t u h ht
  refine ⟨fun hr ho ha he => ⟨?_, tset?_enterPending c _ ht ho⟩, fun hr ho ha he => ?_, fun hr ho hs => ?_, fun hr hs => ?_, fun hr ho ha => ?_,
    fun hr hs => ?_⟩
  · rw [exec_applyEpoch hr, tryApply_open ht ho ha, if_pos he, hr.1.id_eq]
  · refine endsAs_complete hr.1 ?_ rfl (kept_begin s c)
    rw [exec_applyEpoch hr, tryApply_open ht ho ha, if_neg he, hr.1.id_eq]
  · refine endsAs_await ?_
    rw [exec_applyEpoch hr, tryApply_waits ht ho hs, hr.1.id_eq]
  · refine endsAs_fail hr.1 ?_
    rw [exec_applyEpoch hr, tryApply_torn ht hs, hr.1.id_eq]
  · intro k
    obtain rfl := hr.1.id_eq
    rw [exec_restore hr]
    refine ⟨fun x hx => ?_, fun st d hx => ?_⟩
    · rw [tryRestore_enters ht ho ha (Prod.ext rfl hx)]
    · rw [tryRestore_refused ht ho ha (Prod.ext rfl hx)]
  · refine endsAs_await ?_
    rw [exec_restore hr, tryRestore_pending ht hs, hr.1.id_eq]

end Sys2Proof.Machine

namespace Sys2Proof.Machine

/-! ## The apply window: DRAINING, WRITING, COMMITTING (R191, R192, R194, R195, R197, R208, R209) -/

theorem exec_enterDraining_eq (s : State) (h : Nat) : exec (.enterDraining h) s = execEnterDraining h s := rfl
theorem exec_enterWriting_eq (s : State) (h : Nat) : exec (.enterWriting h) s = execEnterWriting h s := rfl
theorem exec_enterCommitting_eq (s : State) (h : Nat) : exec (.enterCommitting h) s = execEnterCommitting h s := rfl

section Window
variable {s : State} {h : Nat} {t : TableSet} {a : ApplyJob} (hs : s.alive = true) (hf : s.faultWait (.apply h) = false)
  (ht : s.tset? h = some t) (ha : t.apply = some a)
include hs hf ht ha

/-- A pending set drains, or ends its failed step, once the conditions of R191 hold (R188, R191, R195). -/
theorem exec_enterDraining : exec (.enterDraining h) s = .next (if t.st = .pending ∧ s.mayDrain h a.cmd = true then
    (if t.failed ∧ a.isRestore = false then s.failStep h a t.seq else s.startWindow h a) else s).settle := by
  rw [exec_enterDraining_eq, execEnterDraining, actSWhen_of s _ _ hs (by rw [hf]; rfl)]
  simp only [ht, ha]

/-- A draining set goes on to its writes once no reader is left or to come (R192, R197). -/
theorem exec_enterWriting : exec (.enterWriting h) s = .next (if t.st = .draining ∧ s.reading h = [] ∧ s.dueReaders h = [] then
    s.sketchFirst h a.cmd fun s => s.startWriting h t a else s).settle := by
  rw [exec_enterWriting_eq, execEnterWriting, actSWhen_of s _ _ hs (by rw [hf]; rfl)]
  simp only [ht, ha]

/-- A window whose writes have begun goes on, and commits when it may (R194). -/
theorem exec_enterCommitting (hw : t.st = .writing ∨ t.st = .committing) : exec (.enterCommitting h) s = .next (s.tryCommit h).settle := by
  have hst : ¬(t.st = .torn ∧ a.listed = false) := by rcases hw with hw | hw <;> simp [hw]
  rw [exec_enterCommitting_eq, execEnterCommitting, actSWhen_of s _ _ hs (by rw [hf]; rfl)]
  simp only [ht, ha, if_neg hst]
  rw [if_pos (hw.imp_right Or.inl)]

end Window

/-- The set that a window begins for is DRAINING, its window's start noted (R192). -/
theorem tset?_startWindow {s : State} {h : Nat} {a : ApplyJob} {y : TableSet}
    (hy : (s.closeWait 4 (agentCmd a.cmd) false none none).tset? h = some y) : (s.startWindow h a).tset? h =
      some { y with st := .draining, apply := some { a with start := (s.closeWait 4 (agentCmd a.cmd) false none none).now .core } } := by
  unfold State.startWindow
  dsimp only
  rw [tset?_tsets (openWait_tsets ..), tset?_tsets (openWait_tsets ..), tset?_updTset, hy, Option.map_some]

/-! ## The commit (R194, R208, R209) -/

/-- Whether writes of a window are not acknowledged yet, or not yet sent. -/
def State.awaitsAcks (s : State) (c : CmdId) : Bool :=
  match s.job? c with
  | some j => j.acks != 0 || !j.outs.isEmpty
  | none => s.unacked c

section Commit
variable {s : State} {h : Nat} {t : TableSet} {a : ApplyJob} (ht : (s.runWindow h).tset? h = some t) (ha : t.apply = some a)
include ht ha

/-- A window with rows or other writes left does not commit. -/
theorem tryCommit_left (hl : a.todo ≠ [] ∨ a.work ≠ [] ∨ a.listed = false) : s.tryCommit h = s.runWindow h := by
  unfold State.tryCommit
  simp only [ht, ha]
  rw [if_pos hl]

/-- A window with no write left commits unless some are not acknowledged (R194, R209). -/
theorem tryCommit_done (htodo : a.todo = []) (hwork : a.work = []) (hlisted : a.listed = true) (hl : t.st ≠ .torn ∨ a.lost = false) :
    s.tryCommit h = if (s.runWindow h).awaitsAcks a.cmd then
      (s.runWindow h).updTset h fun t => { t with st := if t.st = TsState.torn then t.st else .committing } else (s.runWindow h).commit h t a := by
  have hleft : ¬(a.todo ≠ [] ∨ a.work ≠ [] ∨ a.listed = false) := by simp [htodo, hwork, hlisted]
  have hlost : ¬(t.st = .torn ∧ a.lost = true) := by
    rintro ⟨h1, h2⟩
    rcases hl with h | h
    · exact h h1
    · exact Bool.noConfusion (h.symm.trans h2)
  unfold State.tryCommit
  simp only [ht, ha]
  rw [if_neg hleft, if_neg hlost]
  rfl

end Commit

theorem seqEven_even (n : Nat) : seqEven n % 2 = 0 := by
  unfold seqEven
  split <;> omega

/-- Settles O37: each of the three rows by the test that it makes, and the set of a commit by `TableSet.committed`. -/
theorem stepsCommit : Obligations.StepsCommit := by
  refine ⟨fun s h t a hs hf ht ha => ⟨fun hp hd hno => ⟨?_, fun _ hy => tset?_startWindow hy⟩, fun hp hd hfail hr => ?_, fun hd => ?_,
    fun hd hr hdue => ?_, fun hd hr => ?_⟩, ?_⟩
  · have hgo : ¬(t.failed = true ∧ a.isRestore = false) := by
      rintro ⟨h1, h2⟩
      rcases hno with h | h
      · exact Bool.noConfusion (h.symm.trans h1)
      · exact Bool.noConfusion (h2.symm.trans h)
    rw [exec_enterDraining hs hf ht ha, if_pos ⟨hp, hd⟩, if_neg hgo]
  · rw [exec_enterDraining hs hf ht ha, if_pos ⟨hp, hd⟩, if_pos ⟨hfail, hr⟩]
  · rw [exec_enterDraining hs hf ht ha, if_neg (by simp [hd])]
  · rw [exec_enterWriting hs hf ht ha, if_pos ⟨hd, hr, hdue⟩]
  · rw [exec_enterWriting hs hf ht ha, if_neg fun ⟨_, h1, h2⟩ => hr.elim (· h1) (· h2)]
  · intro s h t a hs hf ⟨t0, a0, ht0, ha0, hw⟩ u unacked ht ha
    have hacks : unacked ↔ u.awaitsAcks a.cmd = true := by
      unfold unacked State.awaitsAcks
      cases u.job? a.cmd <;> simp
    rw [hacks, exec_enterCommitting hs hf ht0 ha0 hw]
    refine ⟨fun h1 h2 h3 h4 hn => ⟨?_, rfl, rfl, seqEven_even t.seq, rfl, rfl, rfl⟩, fun hl => ?_, fun h1 h2 h3 h4 hn => ?_⟩
    · rw [tryCommit_done ht ha h1 h2 h3 h4, if_neg hn]
    · rw [tryCommit_left ht ha hl]
    · rw [tryCommit_done ht ha h1 h2 h3 h4, if_pos hn]

end Sys2Proof.Machine

namespace Sys2Proof.Machine

/-! ## PROMO_LIST (R215, R354, R477) -/

section PromoList
variable {s : State} {c : CmdId} {j : Job} (h : ReadySub s c j subPromoList)
include h

/-- A PROMO_LIST that names a TORN set is not served (R215). -/
theorem exec_promoList_torn (ht : s.isTorn (field j.block 0 2) = true) :
    exec (.promoList c) s = .next ((s.begin c).complete c stAborted).settle := by
  refine (subRow_ready s c j subPromoList _ h).trans ?_
  dsimp only
  rw [isTorn_begin, if_pos ht]

variable (ht : s.isTorn (field j.block 0 2) = false)
include ht

theorem exec_promoList_broken {x : FieldRule} (hr : firstBroken [reservedRule j.block 2 2, reservedRule j.block 12 4] = some x) :
    exec (.promoList c) s = .next ((s.begin c).malformed j 0x47 x.index x.value).settle := by
  refine (subRow_ready s c j subPromoList _ h).trans ?_
  dsimp only
  rw [isTorn_begin, if_neg (by rw [ht]; exact Bool.false_ne_true), hr]

/-- A list that has been read waits for its commit, unless an entry breaks a rule (R354). -/
theorem exec_promoList_read {v : State} {es : List Byte} (hr : firstBroken [reservedRule j.block 2 2, reservedRule j.block 12 4] = none)
    (hl : (s.begin c).listBytes j = (v, .ok es)) : exec (.promoList c) s = .next
      ((firstBroken ((List.range (field j.block 8 4)).map (v.entryRules (field j.block 0 2) es)).flatten).elim
        ((v.updTset (field j.block 0 2) fun t =>
          { t with lists := t.lists ++ [{ epoch := field j.block 4 4, entries := promoEntries es (field j.block 8 4) }] }).complete c)
        fun x => v.malformed j 0x47 (x.index % 2 ^ 16) x.value).settle := by
  refine (subRow_ready s c j subPromoList _ h).trans ?_
  dsimp only
  rw [isTorn_begin, if_neg (by rw [ht]; exact Bool.false_ne_true), hr, hl]
  dsimp only
  cases firstBroken ((List.range (field j.block 8 4)).map (v.entryRules (field j.block 0 2) es)).flatten <;> rfl

end PromoList

/-! ## Poisoned rows and the checkpoint staging service (R214, R429) -/

theorem asked_iff {p : PoisonedRow} {table row : Nat} : p.asked table row = true ↔
    p.table = table ∧ p.row = row ∧ p.requestedAt.isSome = true ∧ p.bytes = none ∧ p.stuck = false := by
  unfold PoisonedRow.asked
  simp only [Bool.and_eq_true, beq_iff_eq, Bool.not_eq_true', Option.isNone_iff_eq_none, and_assoc]

theorem exec_checkpointServiceReply_eq (table row : Nat) (cold promoted side state : List Byte) (s : State) :
    exec (.checkpointServiceReply table row cold promoted side state) s = execCheckpointServiceReply table row cold promoted side state s := rfl

/-- A poisoned row that was asked for RESTORE_MS ago, and has neither been answered nor given up (R429). -/
def State.rowLate (s : State) (table row : Nat) (p : PoisonedRow) : Bool :=
  p.asked table row && p.requestedAt.any fun t => decide (t + 1000000 * s.restoreMs ≤ s.time)

theorem rowLate_iff {s : State} {table row : Nat} {p : PoisonedRow} : s.rowLate table row p = true ↔
    p.table = table ∧ p.row = row ∧ p.bytes = none ∧ p.stuck = false ∧ ∃ t ∈ p.requestedAt, t + 1000000 * s.restoreMs ≤ s.time := by
  unfold State.rowLate
  rw [Bool.and_eq_true, asked_iff]
  cases p.requestedAt with
  | none => simp
  | some t => simp [and_assoc]

/-- The late rows of a table are stuck (R429). -/
def State.stickRows (s : State) (table row : Nat) : State :=
  { s with poisoned := s.poisoned.map fun (p : PoisonedRow) => if s.rowLate table row p then { p with stuck := true } else p }

section Timeout
variable {s : State} (ha : s.alive = true) (table row : Nat)
include ha

/-- Late rows are stuck, with an error record (R429). -/
theorem exec_restoreTimeout : ∃ e, exec (.restoreTimeout table row) s =
    .next (if s.poisoned.any (s.rowLate table row) then (s.stickRows table row).errorRecord e else s) := ⟨_, act_alive s _ ha⟩

theorem exec_restoreTimeout_due (h : ∃ p ∈ s.poisoned, s.rowLate table row p = true) :
    ∃ e, exec (.restoreTimeout table row) s = .next ((s.stickRows table row).errorRecord e) := by
  obtain ⟨e, he⟩ := exec_restoreTimeout ha table row
  exact ⟨e, by rw [he, if_pos (List.any_eq_true.2 h)]⟩

theorem exec_restoreTimeout_none (h : ∀ p ∈ s.poisoned, ¬s.rowLate table row p = true) : exec (.restoreTimeout table row) s = .next s := by
  obtain ⟨e, he⟩ := exec_restoreTimeout ha table row
  rw [he, if_neg fun hany => (List.any_eq_true.1 hany).elim fun p hp => h p hp.1 hp.2]

end Timeout

/-- Settles O38: a PROMO_LIST by what breaks its rules first, the service's reply by the rows that were asked for, and a timeout by the rows
that are late. -/
theorem listsAndPoisonedRows : Obligations.ListsAndPoisonedRows := by
  refine ⟨fun s c j h => ⟨fun ht => ?_, fun x ht hr => ?_, fun v es ht hr hl => ⟨fun he => ?_, fun x he => ?_⟩⟩, ?_⟩
  · exact endsAs_complete h.1 (exec_promoList_torn h ht) rfl (kept_begin s c)
  · exact endsAs_malformed h.1 (exec_promoList_broken h ht hr)
  · rw [exec_promoList_read h ht hr hl, he, Option.elim_none]
  · rw [exec_promoList_read h ht hr hl, he, Option.elim_some]
  · intro s table row cold promoted side state ha
    refine ⟨?_, ?_⟩
    · rw [exec_checkpointServiceReply_eq, execCheckpointServiceReply, act_alive s _ ha]
      simp only [asked_iff]
    · intro late
      have hlate (p : PoisonedRow) : s.rowLate table row p = true ↔ late p := rowLate_iff
      simp only [← hlate]
      refine ⟨fun hp => ?_, fun hp => exec_restoreTimeout_none ha table row hp⟩
      obtain ⟨e, he⟩ := exec_restoreTimeout_due ha table row hp
      refine ⟨_, (s.stickRows table row).poisoned, he, kept_errorRecord .., List.length_map _, fun p hm hl => ?_, fun p hm hl => ?_⟩
      · exact List.mem_map.2 ⟨p, hm, if_pos hl⟩
      · exact List.mem_map.2 ⟨p, hm, if_neg hl⟩

end Sys2Proof.Machine

namespace Sys2Proof.Machine

/-! ## PROJECT and the layers of its chain (R201, R215, R232, R233) -/

theorem exec_project {s : State} {c : CmdId} {j : Job} (h : ReadyOp s c j opProject) (hp : j.proj = none) :
    exec (.project c) s = .next (((s.begin c).notStarted c .running).updJob c fun j => { j with proj := some {} }).settle := by
  refine (cmdRow_ready s c j opProject _ h).trans ?_
  rw [hp]

theorem exec_layerStart_eq (s : State) (c : CmdId) : exec (.layerStart c) s = execLayerStart c s := rfl
theorem exec_tileEnd_eq (s : State) (u : TileUser) (es : List ArrayEvent) : exec (.tileEnd u es) s = execTileEnd u es s := rfl

/-- The layer of a chain that has none in progress is tried (R233). -/
theorem exec_layerStart {s : State} {c : CmdId} {j : Job} {p : ProjJob} (ha : s.alive = true) (hj : s.job? c = some j)
    (hf : s.faultWait (.job c) = false) (hp : j.proj = some p) (hl : p.inLayer = false) (ho : j.outs = [])
    (hph : j.phase = .running ∨ j.phase = .waiting) : exec (.layerStart c) s = .next (s.startLayer j p).settle := by
  rw [exec_layerStart_eq, execLayerStart, actSWhen_of s _ _ ha (by rw [hf]; rfl)]
  simp only [hj, hp]
  rw [if_pos ⟨hl, ho, hph⟩]

section StartLayer
variable {s : State} {j : Job} {p : ProjJob}

theorem startLayer_held (hg : s.gate j = .held ∨ s.gate j = .full) : s.startLayer j p = s := by
  unfold State.startLayer
  rcases hg with hg | hg <;> simp only [hg]

theorem startLayer_torn (hg : s.gate j = .torn) : s.startLayer j p = s.fail j.id stAborted := by
  unfold State.startLayer
  simp only [hg]

/-- A layer that may begin does so once its weights are loaded, at the epoch in force (R201, R232). -/
theorem startLayer_go {g : StageDesc} {v : State} {x : Unit} (hg : s.gate j = .go) (hc : j.chain[p.layer]? = some g)
    (hw : (preload j (s.newLayer j p (((s.stageSets j p.layer).head?).map s.epochOf)) g).whole s = (v, .ok x)) :
    s.startLayer j p = (v.begin j.id).updJob j.id fun k =>
      { k with
        readsEnded := false, epochs := v.epochsOf (s.stageSets j p.layer)
        proj := some (s.newLayer j p (((s.stageSets j p.layer).head?).map s.epochOf)) } := by
  unfold State.startLayer
  simp only [hg, hc, hw]

end StartLayer

/-! ## The dealing of the arrays and the end of a tile (R231, R241, R243, R244) -/

/-- With no tile in progress the arrays go to the one user that has a tile to run (R243). -/
theorem deals_dealTiles_single {s : State} {k : Nat} {u : TileUser} {t : NextTile} (hd : s.feeder.deals = []) (hu : s.tileUsers = [(k, u, t)]) :
    s.dealTiles.feeder.deals = [⟨u, s.onArrays.take t.need, s.onArrays.drop t.need⟩] := by
  have hkept : s.keptDeals = [] := by
    unfold State.keptDeals
    rw [hd, List.filter_nil]
  have hnext (last : Nat) : nextUser last [(k, u, t)] = some (k, u, t) := by
    unfold nextUser
    by_cases h : last < k <;> simp [h]
  have hmates (f : Nat × TileUser × NextTile → Bool) (hf : f (k, u, t) = false) : nextUser k ([(k, u, t)].filter f) = none := by
    rw [List.filter_cons_of_neg (by simp [hf])]
    rfl
  unfold State.dealTiles
  simp only [hkept, hu, hnext, ne_eq, not_true_eq_false, if_false]
  rw [hmates _ (by simp)]

theorem deal?_dealTiles_single {s : State} {k : Nat} {u : TileUser} {t : NextTile} (hd : s.feeder.deals = []) (hu : s.tileUsers = [(k, u, t)]) :
    s.dealTiles.deal? u = some ⟨u, s.onArrays.take t.need, s.onArrays.drop t.need⟩ := by
  rw [State.deal?, deals_dealTiles_single hd hu]
  exact List.find?_cons_of_pos (by simp)

theorem deal_user {s : State} {u : TileUser} {d : Deal} (h : s.deal? u = some d) : d.user = u := by
  simpa using List.find?_some h

section TileEnd
variable {s : State} {d : Deal}

/-- The tile of a command that has a deal runs to its end. -/
theorem exec_tileEnd_cmd {c : CmdId} {j : Job} {p : ProjJob} {g : StageDesc} {es : List ArrayEvent} (ha : s.alive = true)
    (hj : s.job? c = some j) (hf : s.faultWait (.job c) = false) (hp : j.proj = some p) (hc : j.chain[p.layer]? = some g)
    (hd : s.deal? (.cmd c) = some d) (hes : eventsFit d.arrays es = true) :
    exec (.tileEnd (.cmd c) es) s = .next (s.runTile j p g d es).settle := by
  rw [exec_tileEnd_eq, execTileEnd, actS_alive s _ ha]
  unfold State.cmdTileEnd
  simp only [hd, hes, hj, hp, hc, hf, Bool.true_eq_false, Bool.false_eq_true, if_false]

/-- A tile whose work is done has its events take effect; then its results follow, unless a reload has failed (R231, R244). -/
theorem runTile_ok {j : Job} {p : ProjJob} {g : StageDesc} {es : List ArrayEvent} {v : State} {o : TileOut}
    (hw : (tileWork j p g (j.tileRows p d.arrays.length) d.arrays p.pass).whole (s.loseTiles (j.tag p) es) = (v, .ok o)) :
    s.runTile j p g d es =
      let w := es.foldl (fun s e => s.arrayEvent d.arrays e) ((v.countTile d o).endDeal d.user)
      if reloadFails es then w.fail j.id stAborted
      else w.tileDone j p g (j.tileRows p d.arrays.length) (min (p.pass + d.arrays.length) (ceilDiv (s.stageCols j p.layer) 128))
        (s.stageCols j p.layer) o := by
  unfold State.runTile
  simp only [hw]

theorem eventsFit_nil (used : List (Fin 4)) : eventsFit used [] = true := rfl

theorem exec_tileEnd_lr (ha : s.alive = true) (hd : s.deal? .lr = some d) : exec (.tileEnd .lr []) s = .next (s.runLr d []).settle := by
  rw [exec_tileEnd_eq, execTileEnd, actS_alive s _ ha]
  simp only [hd, eventsFit_nil, Bool.true_eq_false, if_false]

/-- The elements of the rows of an LR tile once a pass has ended (R241). -/
def LrTile.outWith (x : LrTile) (o : TileOut) : List (List (F32 × Bool)) :=
  o.out.zipIdx.map fun r => x.out.getD r.2 [] ++ r.1.map fun c => (c.val, c.big)

/-- The last pass of an LR tile hands its rows to the lanes (R241). -/
theorem runLr_last {x : LrTile} {t : Table} {w : WeightSet} {e : Nat × Fetch × List Byte} {rest : List (Nat × Fetch × List Byte)} {v : State}
    {o : TileOut} (hx : s.feeder.lr = some x) (hrows : s.lrRows x = e :: rest) (ht : s.table? x.table = some t)
    (hb : s.wset? t.desc.lrBasis = some w)
    (hw : (lrWork e.2.1.ref.src.cmd t.desc w ((e :: rest).map (·.2.2)) d.arrays x.pass).whole (s.loseTiles ⟨none, t.desc.lrBasis⟩ []) =
      (v, .ok o))
    (hlast : ((v.countTile d o).endDeal .lr).lrTiles x.table ≤ x.pass + d.arrays.length) :
    let u := (v.countTile d o).endDeal .lr
    s.runLr d [] = ((e :: rest).zip (x.outWith o)).foldl (fun (s : State) r => s.lrLand t r.1.1 r.1.2.1 r.2)
      { u with feeder := { u.feeder with lr := none } } := by
  have hend : ¬x.pass + d.arrays.length < ((v.countTile d o).endDeal .lr).lrTiles x.table := Nat.not_lt.2 hlast
  have hfails : reloadFails [] = false := rfl
  unfold State.runLr
  simp only [hx, hrows, ht, hb, hw, List.foldl_nil, hfails, Bool.false_eq_true, if_false, if_neg hend]
  rfl

end TileEnd

/-! ## ARRAY_EN (R246, R250) -/

/-- Bits [7:4] of a number, masked in place and as a field. -/
theorem and_0xF0 (x : Nat) : x &&& 0xF0 = bitsOf x 7 4 * 2 ^ 4 := by
  refine Nat.eq_of_testBit_eq fun i => ?_
  rw [show (0xF0 : Nat) = (2 ^ 4 - 1) * 2 ^ 4 from rfl, Nat.testBit_and, Nat.testBit_mul_two_pow, Nat.testBit_two_pow_sub_one, bitsOf,
    Nat.testBit_mul_two_pow, Nat.testBit_mod_two_pow, Nat.testBit_div_two_pow]
  by_cases h : 4 ≤ i
  · simp [h, Bool.and_comm]
  · simp [h]

theorem and_0xF0_eq_zero_iff (v : BitVec 32) : v &&& 0xF0 = 0 ↔ bitsOf v.toNat 7 4 = 0 := by
  rw [← BitVec.toNat_inj, BitVec.toNat_and]
  change v.toNat &&& 0xF0 = 0 ↔ _
  rw [and_0xF0]
  omega

/-- An array whose enable is written 0 is disabled (R246). -/
def State.writeEnable (s : State) (v : BitVec 32) (n : Fin 4) : State :=
  if bitOf v.toNat (4 + n.val) then s else s.updArray n fun x => { x with disabled := true }

theorem writePaCtl_eq (s : State) (v : BitVec 32) (h : bitsOf v.toNat 7 4 ≠ 0) :
    s.writePaCtl v = allArrays.foldl (fun s n => s.writeEnable v n) (s.setReg 0xA0100 (v &&& 0xF4)) := if_neg h

theorem array_updArray (s : State) (n m : Fin 4) (f : ArrayUnit → ArrayUnit) :
    (s.updArray n f).array m = if n = m then f (s.array n) else s.array m := by
  change (s.arrays.set n (f (s.array n)))[m.val] = if n = m then f (s.array n) else s.arrays[m.val]
  rw [Vector.getElem_set]
  simp only [Fin.ext_iff]

/-- A written enable leaves every other array, and keeps a disabled one disabled. -/
theorem array_writeEnable (s : State) (v : BitVec 32) (n m : Fin 4) : (s.writeEnable v n).array m =
    if n = m then { s.array m with disabled := (s.array m).disabled || !bitOf v.toNat (4 + m.val) } else s.array m := by
  unfold State.writeEnable
  by_cases h : n = m
  · subst h
    cases hb : bitOf v.toNat (4 + n.val) <;> simp [array_updArray]
  · cases hb : bitOf v.toNat (4 + n.val) <;> simp [array_updArray, h]

theorem array_foldl_writeEnable (v : BitVec 32) (m : Fin 4) (l : List (Fin 4)) (hl : l.Nodup) (s : State) :
    (l.foldl (fun s n => s.writeEnable v n) s).array m =
      if m ∈ l then { s.array m with disabled := (s.array m).disabled || !bitOf v.toNat (4 + m.val) } else s.array m := by
  induction l generalizing s with
  | nil => rfl
  | cons n l ih =>
    obtain ⟨hn, hl⟩ := List.nodup_cons.1 hl
    rw [List.foldl_cons, ih hl, array_writeEnable]
    by_cases h : n = m
    · subst h; simp [hn]
    · simp [h, Ne.symm h]

theorem array_writePaCtl (s : State) (v : BitVec 32) (h : bitsOf v.toNat 7 4 ≠ 0) (n : Fin 4) : (s.writePaCtl v).array n =
    { s.array n with disabled := (s.array n).disabled || !bitOf v.toNat (4 + n.val) } := by
  rw [writePaCtl_eq s v h, array_foldl_writeEnable v n allArrays (by decide), if_pos (by revert n; decide)]
  rfl

/-- A write of PA_CTL touches the register and the arrays alone. -/
theorem writePaCtl_keeps {β : Type} (p : State → β) (hp : ∀ u a, p ({ u with arrays := a } : State) = p u) (s : State) (v : BitVec 32)
    (h : bitsOf v.toNat 7 4 ≠ 0) : p (s.writePaCtl v) = p (s.setReg 0xA0100 (v &&& 0xF4)) := by
  rw [writePaCtl_eq s v h]
  refine foldl_keeps p _ (fun u n => ?_) _ _
  unfold State.writeEnable
  split
  · rfl
  · exact hp u _

/-- Settles O39: a chain by its gate, a deal by the one user there is, a tile by its work, and PA_CTL by the arrays that it clears. -/
theorem chainsRunLayerByLayer : Obligations.ChainsRunLayerByLayer := by
  refine ⟨fun s c j => ⟨fun h hp => ⟨exec_project h hp, ?_⟩, ?_, ?_⟩, fun s k u t => deal?_dealTiles_single, ?_, ?_⟩
  · rw [kept_settle, kept_updJob, State.notStarted, kept_updJob, kept_begin]
  · intro p ha hj hf hp hl ho hph sets layer
    have he := exec_layerStart ha hj hf hp hl ho hph
    obtain rfl := job_id s c j hj
    rw [he]
    refine ⟨fun g v x hg hc hw => ?_, fun hg => ?_, fun hg => ?_⟩
    · rw [startLayer_go hg hc hw]
    · rw [startLayer_held hg]
    · rw [startLayer_torn hg]
  · intro p g d v o es ha hj hf hp hc hd hes rows n t1 hw w
    have he := exec_tileEnd_cmd ha hj hf hp hc hd hes
    rw [runTile_ok hw, deal_user hd] at he
    obtain rfl := job_id s c j hj
    refine ⟨fun hr => ?_, fun hr => ?_⟩
    · rw [he, hr]; rfl
    · rw [he, hr]; rfl
  · intro s v d x t w o e rest ha hd hx hrows ht hb hw u out free hlast
    rw [exec_tileEnd_lr ha hd, runLr_last hx hrows ht hb hw hlast]
    rfl
  · intro s r v hw
    rw [ne_eq, and_0xF0_eq_zero_iff, show exec (.arrayEn r v) s = _ from actReg_written s 0xA0100 r (·.writePaCtl v) hw]
    refine ⟨fun h => ?_, fun h => ⟨_, rfl, ?_, ?_, ?_, array_writePaCtl s v h⟩⟩
    · rw [State.writePaCtl, if_pos h]
    · exact writePaCtl_keeps State.regs (fun _ _ => rfl) s v h
    · exact writePaCtl_keeps State.jobs (fun _ _ => rfl) s v h
    · exact writePaCtl_keeps State.mem (fun _ _ => rfl) s v h

end Sys2Proof.Machine

namespace Sys2Proof.Machine

/-! ## CONFIG sub-ops of the fabric (R215, R387, R389) -/

section Fabric
variable {s : State} {c : CmdId} {j : Job}

theorem exec_setNode (h : ReadySub s c j subSetNode)
    (hr : firstBroken [nodeRule j.block 0, nodeRule j.block 2, reservedRule j.block 4 4] = none) (hj : (s.begin c).joined = false) :
    let v := (s.begin c).takeNode (field j.block 0 2)
    exec (.setNode c) s = .next (({ v with fab := { v.fab with
      mgr := field j.block 2 2, st := if v.fab.st = EngState.isolated then v.fab.st else .configuring } } : State).complete c).settle := by
  refine (subRow_ready s c j subSetNode _ h).trans ?_
  dsimp only
  rw [checked_ok _ _ _ _ hr, if_neg (by rw [hj]; exact Bool.false_ne_true)]

/-- SET_NODE of an engine that has joined is refused (R389). -/
theorem exec_setNode_joined (h : ReadySub s c j subSetNode)
    (hr : firstBroken [nodeRule j.block 0, nodeRule j.block 2, reservedRule j.block 4 4] = none) (hj : (s.begin c).joined = true) :
    exec (.setNode c) s = .next ((s.begin c).malformed j 0x45 0x8000 (field j.block 0 2)).settle := by
  refine (subRow_ready s c j subSetNode _ h).trans ?_
  dsimp only
  rw [checked_ok _ _ _ _ hr, if_pos hj]
  rfl

theorem exec_routeSet (h : ReadySub s c j subRouteSet)
    (hr : firstBroken ([nodeRule j.block 0, reservedRule j.block 2 6] ++ ([8, 16, 24, 32].map (routeRules j.block)).flatten) = none) :
    exec (.routeSet c) s =
      .next (((s.begin c).setRoutes (field j.block 0 2) { routes := [8, 16, 24, 32].map (routeOf j.block) }).complete c).settle := by
  refine (subRow_ready s c j subRouteSet _ h).trans ?_
  dsimp only
  rw [checked_ok _ _ _ _ hr]

theorem exec_routeClear (h : ReadySub s c j subRouteClear) (hr : firstBroken [nodeRule j.block 0, reservedRule j.block 2 6] = none) :
    exec (.routeClear c) s = .next (((s.begin c).setRoutes (field j.block 0 2) {}).complete c).settle := by
  refine (subRow_ready s c j subRouteClear _ h).trans ?_
  dsimp only
  rw [checked_ok _ _ _ _ hr]

/-- The successors of table sets once a SHARD_SET has changed them (R389). -/
def State.withShard (s : State) (b : List Byte) : State :=
  let shards := if field b 2 2 = 0xFFFF then serase s.fab.shards (field b 0 2) else sinsert s.fab.shards (field b 0 2) (field b 2 2, field b 8 8)
  { s with fab := { s.fab with shards := shards } }

/-- SHARD_SET by the state of its set (R215, R389). -/
theorem exec_shardSet (h : ReadySub s c j subShardSet) (hs : field j.block 2 2 < 2 ^ 14 ∨ field j.block 2 2 = 0xFFFF)
    (hz : zeroRange j.block 4 4 = true) :
    exec (.shardSet c) s = .next (if s.isTorn (field j.block 0 2) then (s.begin c).complete c stAborted
      else ((s.begin c).withShard j.block).complete c).settle := by
  refine (subRow_ready s c j subShardSet _ h).trans ?_
  dsimp only
  rw [checked_ok _ _ _ _ ((firstBroken_cons_ok _ _ (by simpa [blockRule] using hs)).trans (firstBroken_reserved _ _ _ hz)), isTorn_begin]
  rfl

theorem exec_neighbours (h : ReadySub s c j subNeighbours) :
    let u := s.begin c
    exec (.neighbours c) s =
      .next (((u.tookN 96).writeVa c ((u.tookN 96).cmdSpace c) (field j.block 0 8) u.neighbourBytes).complete c).settle :=
  subRow_ready s c j subNeighbours _ h

/-- What PORT does to a port, by its action (R389, R397). -/
def State.portAction (s : State) (p : Fin 8) (action : Nat) : State :=
  if action = 0 then s.enablePort p false
  else if action = 1 then s.enablePort p true
  else if action = 2 then s.retrainPort p
  else s.acceptPort p

theorem exec_port {p : Fin 8} (h : ReadySub s c j subPort) (hp : field j.block 0 1 = p.val) (ha : field j.block 1 1 ≤ 3)
    (hz : zeroRange j.block 2 6 = true) :
    exec (.port c) s = .next (((s.begin c).portAction p (field j.block 1 1)).complete c).settle := by
  have hrule : firstBroken [blockRule j.block 0 1 (fun v => decide (v < 8)), blockRule j.block 1 1 (fun v => decide (v ≤ 3)),
      reservedRule j.block 2 6] = none := by
    rw [firstBroken_cons_ok _ _ (by simp [blockRule, hp]), firstBroken_cons_ok _ _ (by simpa [blockRule] using ha), firstBroken_reserved _ _ _ hz]
  refine (subRow_ready s c j subPort _ h).trans ?_
  dsimp only
  rw [checked_ok _ _ _ _ hrule, dif_pos (hp ▸ p.isLt)]
  simp only [hp]
  rfl

end Fabric

/-- Settles O53: each sub-op by its own row, once the rules of its block hold. -/
theorem fabricConfiguration : Obligations.FabricConfiguration := by
  intro s c j b u
  refine ⟨fun h hr hj => ⟨exec_setNode h hr hj, rfl, rfl, rfl, rfl⟩, fun h hr hj => endsAs_malformed h.1 (exec_setNode_joined h hr hj),
    fun h hr => endsAs_complete h.1 (exec_routeSet h hr) rfl (kept_begin s c),
    fun h hr => endsAs_complete h.1 (exec_routeClear h hr) rfl (kept_begin s c), fun h hs hz ht => ?_, fun h hs hz ht => ?_, exec_neighbours,
    fun p h hp hz => ?_⟩
  · have he := exec_shardSet h hs hz
    rw [ht, if_pos rfl] at he
    exact endsAs_complete h.1 he rfl (kept_begin s c)
  · have he := exec_shardSet h hs hz
    rw [ht, if_neg Bool.false_ne_true] at he
    exact endsAs_complete h.1 he rfl (kept_begin s c)
  · have hport (n : Nat) (hn : n ≤ 3) (ha : field b 1 1 = n) : exec (.port c) s = .next ((u.portAction p n).complete c).settle := by
      rw [exec_port h hp (ha ▸ hn) hz, ha]
    exact ⟨hport 0 (by decide), hport 1 (by decide), hport 2 (by decide), hport 3 (by decide)⟩

end Sys2Proof.Machine

namespace Sys2Proof.Machine

/-! ## Map-out (R277, R285) -/

@[simp] theorem kept_detachFill (s : State) (set w : Nat) : (s.detachFill set w).kept = s.kept := rfl

@[simp] theorem kept_retryBlocked (bs : List Blocked) (s : State) : (s.retryBlocked bs).kept = s.kept := by
  induction bs generalizing s with
  | nil => rfl
  | cons b bs ih =>
    cases b with
    | write pa d acc => rw [State.retryBlocked, ih, kept_storeLine]
    | alloc pa mask acc => rw [State.retryBlocked, ih]; split <;> simp

@[simp] theorem kept_wayFreed (s : State) : s.wayFreed.kept = s.kept := by
  unfold State.wayFreed; split
  · rfl
  · rw [kept_retryBlocked, kept_rc]

/-- Of what accesses to memory leave, the map-out of a bank in service changes RC_STAT alone: its bit 6 is set (R277, R285). -/
theorem kept_mapOut (s : State) (b : Nat) (h : bitOf s.rc.out.toNat b = false) : (s.mapOut b).kept = (s.rcStat 6).kept := by
  unfold State.mapOut
  rw [if_neg (by simp [h])]
  dsimp only
  rw [kept_wayFreed, kept_foldl, kept_errorRecord]
  · rfl
  · rintro s ⟨set, w⟩
    dsimp only
    split
    · rfl
    · split <;> simp

/-- Refutes O47: a bank that times out sets RC_STAT bit 6 as it is mapped out, so the registers, which the statement has kept, change. The engine is
the reset state with RESET_N released, its RC_STAT clear, and the bank is 0. -/
theorem not_banksAndSnoops : ¬ Obligations.BanksAndSnoops := by
  intro h
  let s : State := { State.reset with boot := { State.reset.boot with held := false } }
  have hin : bitOf s.rc.out.toNat 0 = false := by decide
  obtain ⟨-, hout, -⟩ := h.1 s 0 .plinth 0 rfl
  obtain ⟨-, hkept, -⟩ := hout hin
  have hregs : (s.rcStat 6).regs = s.regs := congrArg Kept.regs ((kept_mapOut s 0 hin).symm.trans hkept)
  have hbefore : s.reg 0x20018 = 0 := by decide
  have hafter : (s.rcStat 6).reg 0x20018 = 64 := by decide
  rw [State.reg, hregs] at hafter
  exact absurd (hafter.symm.trans hbefore) (by decide)

end Sys2Proof.Machine

namespace Sys2Proof.Machine

/-! ## A memory request returns (R256, R306, R326) -/

theorem exec_memoryReadComplete (tag : Nat) (ue : BitVec 4) (load : BitVec 2) (s : State) :
    exec (.memoryReadComplete tag ue load) s = execMemoryReadComplete tag ue load s := rfl

/-- What memory holds of the sectors of a request. -/
def State.reqSectors (s : State) (m : MemReq) : List (Nat × Option Sector) :=
  ((List.range (m.hi + 1 - m.lo)).map (· + m.lo)).map fun k => (k, s.memSector (localOf m.line + 64 * k))

/-- A request without an uncorrectable error brings what memory holds. -/
theorem readBack_zero (s : State) (m : MemReq) : s.readBack m 0 = s.reqSectors m := by
  simp [State.readBack, State.readSector, State.reqSectors, bitOf]

theorem isSome_of_mem_reqSectors {s : State} {m : MemReq} (h : ∀ k, m.lo ≤ k → k ≤ m.hi → (s.memSector (localOf m.line + 64 * k)).isSome = true) :
    ∀ e ∈ s.reqSectors m, e.2.isSome = true := by
  intro e he
  obtain ⟨k, hk, rfl⟩ := List.mem_map.mp he
  obtain ⟨i, hi, rfl⟩ := List.mem_map.mp hk
  have := List.mem_range.mp hi
  exact h _ (by omega) (by omega)

/-- Sectors none of which is lost leave no record (R426, R427). -/
theorem readErrors_of_isSome (s : State) (m : MemReq) (got : List (Nat × Option Sector)) (h : ∀ e ∈ got, e.2.isSome = true) :
    s.readErrors m got = s := by
  unfold State.readErrors
  induction got with
  | nil => rfl
  | cons e got ih =>
    obtain ⟨d, hd⟩ := Option.isSome_iff_exists.mp (h e List.mem_cons_self)
    rw [List.foldl_cons, hd]
    exact ih fun x hx => h x (List.mem_cons_of_mem e hx)

/-- A request returned without an error is no longer in flight, and its sectors have reached those who wait for them (R256). -/
def State.readLanded (s : State) (m : MemReq) : State :=
  (({ s with memReqs := s.memReqs.erase m } : State).moved m.target (64 * (m.hi + 1 - m.lo))).landSectors m (s.reqSectors m)

/-- What a request's return does at its port: a capacity port takes its DevLoad, counts the access and tries the writes that wait again (R306,
R326). -/
def State.portReturned (s : State) (m : MemReq) (load : Nat) : State :=
  match m.target with
  | .capacity n => ((s.devLoad n load).countAccess (localOf m.line)).unparkAll
  | _ => s

theorem portReturned_channel (s : State) {m : MemReq} {n : Nat} (load : Nat) (h : m.target = .channel n) : s.portReturned m load = s := by
  rw [State.portReturned, h]

theorem portReturned_capacity (s : State) {m : MemReq} {n : Nat} (load : Nat) (h : m.target = .capacity n) :
    s.portReturned m load = ((s.devLoad n load).countAccess (localOf m.line)).unparkAll := by
  rw [State.portReturned, h]

theorem exec_memoryReadComplete_sound {s : State} {tag : Nat} {m : MemReq} (load : BitVec 2) (ha : s.alive = true)
    (hm : s.memReqs.find? (·.tag == tag) = some m)
    (hs : ∀ k, m.lo ≤ k → k ≤ m.hi → (s.memSector (localOf m.line + 64 * k)).isSome = true) :
    exec (.memoryReadComplete tag 0 load) s = .next ((s.readLanded m).portReturned m load.toNat).settle := by
  rw [exec_memoryReadComplete, execMemoryReadComplete, actS_alive _ _ ha, hm]
  dsimp only
  rw [show (0 : BitVec 4).toNat = 0 from rfl, readBack_zero, readErrors_of_isSome _ _ _ (isSome_of_mem_reqSectors hs)]
  rfl

/-! ## Write-combining entries and regulators (R297, R298, R300, R326) -/

theorem exec_memoryWriteAck (line : Nat) (load : BitVec 2) (s : State) :
    exec (.memoryWriteAck line load) s = execMemoryWriteAck line load s := rfl
theorem exec_wcEntryAge (line : Nat) (s : State) : exec (.wcEntryAge line) s = execWcEntryAge line s := rfl
theorem exec_refill (s : State) : exec .refill s = execRefill s := rfl

theorem exec_memoryWriteAck_channel {s : State} {line ch : Nat} (load : BitVec 2) (ha : s.alive = true)
    (ht : (s.wcAck line).targetOf line = .channel ch) : exec (.memoryWriteAck line load) s = .next (s.wcAck line).settle := by
  rw [exec_memoryWriteAck, execMemoryWriteAck, actS_alive _ _ ha]
  dsimp only
  rw [ht]

theorem exec_wcEntryAge_aged {s : State} {line : Nat} {e : WcEntry} (ha : s.alive = true) (he : e ∈ s.wc) (hw : e.waits line = true)
    (hp : isPoolLine line = true) (ht : e.born + s.wcAgeNs ≤ s.time) : exec (.wcEntryAge line) s = .next (s.drain line).settle := by
  rw [exec_wcEntryAge, execWcEntryAge, actSWhen_of _ _ _ ha (List.any_eq_true.mpr ⟨e, he, by simp [hw, hp, ht]⟩)]

theorem exec_wcEntryAge_young {s : State} {line : Nat} (h : ∀ e ∈ s.wc, e.waits line = true → s.time < e.born + s.wcAgeNs) :
    exec (.wcEntryAge line) s = .next s := by
  rw [exec_wcEntryAge, execWcEntryAge]
  refine actSWhen_of_not s _ _ (List.any_eq_false.mpr fun e he hdue => ?_)
  simp only [Bool.and_eq_true, decide_eq_true_eq] at hdue
  exact absurd (h e he hdue.1.1) (Nat.not_lt.mpr hdue.2)

theorem exec_refill_due {s : State} (ha : s.alive = true) (ht : s.refillAt + 10 ≤ s.time) :
    exec .refill s = .next ({ s.refillAll with refillAt := s.time } : State).unparkAll.settle := by
  rw [exec_refill, execRefill, actSWhen_of _ _ _ ha (decide_eq_true ht)]

theorem exec_refill_early {s : State} (ht : s.time < s.refillAt + 10) : exec .refill s = .next s := by
  rw [exec_refill, execRefill, actSWhen_of_not _ _ _ (decide_eq_false (Nat.not_le.mpr ht))]

/-! ## Capacity ports (R303, R306, R307) -/

theorem exec_capacityLinkUp (p : Fin 8) (wide : Bool) (s : State) : exec (.capacityLinkUp p wide) s = execCapacityLinkUp p wide s := rfl
theorem exec_tagLimitRaise (p : Fin 8) (s : State) : exec (.tagLimitRaise p) s = execTagLimitRaise p s := rfl

/-- A state with one capacity port set. -/
def State.setCap (s : State) (p : Fin 8) (y : CapPort) : State := { s with cap := s.cap.set p.val y }

theorem updCap_eq_setCap (s : State) (p : Fin 8) (f : CapPort → CapPort) : s.updCap p f = s.setCap p (f (s.cap.get p)) := dif_pos p.isLt

/-- A write that a lost port had in flight. -/
def State.lostInFlight (s : State) (e : WcEntry) : Bool := !e.parked && s.isLocal e.line && s.onLostPort (localOf e.line)

/-- The writes that a lost port had in flight are lost, with their records (R307, R427). -/
def State.loseWrites (s : State) (p : Fin 8) : State :=
  (s.wc.filter s.lostInFlight).foldl (fun s e =>
    let s := s.errorRecord { code := 0x0009, unit := 4, index := p.val, action := 12, addr := e.line }
    if e.draining then s.wcAck e.line
    else ({ s with wc := s.wc.map fun x => if x = e then { x with draining := true } else x } : State).wcAck e.line) s

/-- The reads of a port are no longer in flight (R307). -/
def State.dropPortReads (s : State) (p : Fin 8) : State :=
  { s with memReqs := s.memReqs.filter fun (m : MemReq) => m.target != Target.capacity p.val }

/-- What a lost port had in flight: its reads are failed back, its writes are lost, and the writes that wait are tried again (R307). -/
def State.failInFlight (s : State) (p : Fin 8) : State :=
  (((s.memReqs.filter fun (m : MemReq) => m.target == Target.capacity p.val).foldl (fun s m => s.failBack m.ctx m.line m.stream m.direct)
    (s.dropPortReads p)).loseWrites p).unparkAll

theorem exec_capacityPortLost (p : Fin 8) (s : State) : exec (.capacityPortLost p) s = actSWhen s ((s.cap.get p).st == 1) fun s =>
    ((s.updCap p fun x => { x with st := 2 }).errorRecord { code := 0x0009, unit := 4, index := p.val, action := 8 }).failInFlight p := rfl

theorem lostInFlight_dropPortReads (s : State) (p : Fin 8) : (s.dropPortReads p).lostInFlight = s.lostInFlight := rfl

theorem loseWrites_none (s : State) (p : Fin 8) (h : s.wc.filter s.lostInFlight = []) : s.loseWrites p = s := by
  rw [State.loseWrites, h, List.foldl_nil]

theorem failInFlight_none (s : State) (p : Fin 8) (hw : s.wc.filter s.lostInFlight = [])
    (hr : s.memReqs.filter (fun m => m.target == Target.capacity p.val) = []) : s.failInFlight p = (s.dropPortReads p).unparkAll := by
  rw [State.failInFlight, hr, List.foldl_nil, loseWrites_none]
  rw [lostInFlight_dropPortReads]
  exact hw

section Port

variable {s : State} {p : Fin 8}

theorem exec_capacityLinkUp_trains (wide : Bool) (ha : s.alive = true) (hm : s.boot.memLocked = true) (hp : (s.cap.get p).noPll = false)
    (hst : (s.cap.get p).st = 0) :
    exec (.capacityLinkUp p wide) s = .next (s.setCap p { s.cap.get p with st := 1, bifurcated := wide }).unparkAll.settle := by
  rw [exec_capacityLinkUp, execCapacityLinkUp, actSWhen_of _ _ _ ha (by simp [hm, hp, hst])]
  dsimp only
  rw [updCap_eq_setCap]

theorem exec_capacityLinkUp_stays (wide : Bool) (h : s.boot.memLocked = false ∨ (s.cap.get p).noPll = true ∨ (s.cap.get p).st ≠ 0) :
    exec (.capacityLinkUp p wide) s = .next s := by
  rw [exec_capacityLinkUp, execCapacityLinkUp]
  exact actSWhen_of_not s _ _ (by rcases h with h | h | h <;> simp [h])

theorem exec_tagLimitRaise_due {t : Nat} (ha : s.alive = true) (hl : (s.cap.get p).lightSince = some t) (ht : t + 10000 ≤ s.time)
    (hn : (s.cap.get p).limit < 512) :
    exec (.tagLimitRaise p) s =
      .next (s.setCap p { s.cap.get p with limit := min 512 ((s.cap.get p).limit * 2), lightSince := some s.time }).unparkAll.settle := by
  rw [exec_tagLimitRaise, execTagLimitRaise, actSWhen_of _ _ _ ha (by simp [hl, ht, hn])]
  dsimp only
  rw [updCap_eq_setCap]

theorem exec_tagLimitRaise_stays (h : (s.cap.get p).lightSince = none ∨ 512 ≤ (s.cap.get p).limit) : exec (.tagLimitRaise p) s = .next s := by
  rw [exec_tagLimitRaise, execTagLimitRaise]
  exact actSWhen_of_not s _ _ (by rcases h with h | h <;> simp [h])

/-- A port that fails with nothing in flight: it shows LOST, with its record, and the writes that wait are tried again (R307). -/
theorem exec_capacityPortLost_idle (ha : s.alive = true) (hst : (s.cap.get p).st = 1) :
    let u := (s.setCap p { s.cap.get p with st := 2 }).errorRecord { code := 0x0009, unit := 4, index := p.val, action := 8 }
    (u.wc.filter fun e => !e.parked && u.isLocal e.line && u.onLostPort (localOf e.line)) = [] →
    u.memReqs.filter (fun m => m.target == Target.capacity p.val) = [] →
    exec (.capacityPortLost p) s =
      .next ({ u with memReqs := u.memReqs.filter fun m => !(m.target == Target.capacity p.val) } : State).unparkAll.settle := by
  intro u hwc hreq
  rw [exec_capacityPortLost, actSWhen_of _ _ _ ha (by simp [hst]), updCap_eq_setCap, failInFlight_none u p hwc hreq]
  rfl

theorem exec_capacityPortLost_stays (hst : (s.cap.get p).st ≠ 1) : exec (.capacityPortLost p) s = .next s := by
  rw [exec_capacityPortLost, actSWhen_of_not _ _ _ (by simp [hst])]

end Port

/-! ## The sweep of the access counters (R327) -/

@[simp] theorem kept_hotPage (s : State) (frame n : Nat) : (s.hotPage frame n).kept = s.kept := by
  have hp := kept_freePick s (s.faults.map (·.slot)) 1024
  unfold State.hotPage; dsimp only
  split
  · next h => rw [h] at hp; exact hp
  · next h => rw [h] at hp; exact hp

@[simp] theorem kept_countCache (s : State) (c : Sparse (List (Nat × Nat))) : ({ s with countCache := c } : State).kept = s.kept := rfl

@[simp] theorem kept_flushCounts (s : State) : s.flushCounts.kept = s.kept := by
  unfold State.flushCounts
  dsimp only
  rw [kept_countCache, kept_foldl _ _ fun s _ => kept_storeFirmware s _ _]

theorem kept_foldN (n : Nat) (f : State → Nat → State) (h : ∀ s i, (f s i).kept = s.kept) (s : State) : (foldN n s f).kept = s.kept := by
  induction n with
  | zero => rfl
  | succ n ih => rw [foldN, h, ih]

/-- The sweep of a sector leaves what no access to memory changes. Its definition is unfolded as a function, and the read taken out of it at once:
otherwise the kernel evaluates the read to compare the two sides. -/
@[simp] theorem kept_sweepCounts (s : State) (k : Nat) : (s.sweepCounts k).kept = s.kept := by
  generalize hf : State.sweepCounts = f
  delta State.sweepCounts at hf
  subst hf
  beta_reduce
  extract_lets +onlyGivenNames pa
  generalize hr : s.loadFirmware pa 64 _ = r
  have hl : r.1.kept = s.kept := hr ▸ kept_loadFirmware ..
  obtain ⟨u, _ | b⟩ := r
  · exact (kept_storeFirmware u _ _).trans hl
  · refine (kept_storeFirmware _ _ _).trans ((kept_foldN _ _ (fun v i => ?_) u).trans hl)
    dsimp only
    split
    · exact kept_hotPage v _ _
    · rfl

theorem exec_accessCountDecay (s : State) : exec .accessCountDecay s = execAccessCountDecay s := rfl

/-- The counts merged at the ports have been written, and every sector of the count array that may hold a count has been swept (R326, R327). -/
def State.swept (s : State) : State := s.flushCounts.countSectors.foldl State.sweepCounts s.flushCounts

@[simp] theorem kept_swept (s : State) : s.swept.kept = s.kept := (kept_foldl _ _ kept_sweepCounts _).trans (kept_flushCounts s)

theorem exec_accessCountDecay_due {s : State} (ha : s.alive = true) (he : s.hotEn = true) (hd : s.decayMs ≠ 0)
    (ht : s.decayAt + 1000000 * s.decayMs ≤ s.time) :
    exec .accessCountDecay s = .next { s.swept with decayAt := s.time } := by
  rw [exec_accessCountDecay, execAccessCountDecay, actWhen_of _ _ _ ha (by simp [he, hd, ht])]
  dsimp only
  rw [show s.flushCounts.time = s.time from congrArg Kept.time (kept_flushCounts s)]
  rfl

theorem exec_accessCountDecay_stays {s : State} (h : s.hotEn = false ∨ s.decayMs = 0 ∨ s.time < s.decayAt + 1000000 * s.decayMs) :
    exec .accessCountDecay s = .next s := by
  rw [exec_accessCountDecay, execAccessCountDecay]
  exact actWhen_of_not s _ _ (by rcases h with h | h | h <;> simp [h])

/-- Settles O48: one lemma for each row, and the sweep leaves what no access to memory changes. -/
theorem memoryAndCapacityPorts : Obligations.MemoryAndCapacityPorts := by
  refine ⟨fun s tag line ch m load ha => ?_, fun s p wide ha => ?_⟩
  · refine ⟨fun hm hs => ?_, fun hm => ?_, exec_memoryWriteAck_channel load ha, fun e he => exec_wcEntryAge_aged ha he,
      exec_wcEntryAge_young, exec_refill_due ha, exec_refill_early⟩
    · intro got u
      have he : exec (.memoryReadComplete tag 0 load) s = .next (u.portReturned m load.toNat).settle := exec_memoryReadComplete_sound load ha hm hs
      rw [he]
      exact ⟨fun ht => by rw [portReturned_channel _ _ ht], fun n ht => by rw [portReturned_capacity _ _ ht]⟩
    · rw [exec_memoryReadComplete, execMemoryReadComplete, actS_alive _ _ ha, hm]
  · exact ⟨exec_capacityLinkUp_trains wide ha, exec_capacityLinkUp_stays wide, fun t => exec_tagLimitRaise_due ha,
      exec_tagLimitRaise_stays, exec_capacityPortLost_idle ha, exec_capacityPortLost_stays,
      fun he hd ht => ⟨_, exec_accessCountDecay_due ha he hd ht, rfl, kept_swept s⟩, exec_accessCountDecay_stays⟩

end Sys2Proof.Machine

namespace Sys2Proof.Machine

/-! ## INVALIDATE (R322) -/

/-- The scope that an INVALIDATE names (R322). -/
def Job.scope (j : Job) : Scope :=
  { ctx := pktCount j.pkt, seg := if bitsOf (pktOparam j.pkt) 1 0 = 1 then some (bitsOf (pktOparam j.pkt) 5 2) else none
    range := if bitsOf (pktOparam j.pkt) 1 0 = 0 then some (field j.block 0 8, field j.block 8 8) else none }

/-- INVALIDATE without a flush ends, or waits, by the accesses of its context (R322). -/
theorem exec_invalidate {s : State} {c : CmdId} {j : Job} (h : ReadyOp s c j opInvalidate) (ho : pktOparam j.pkt < 2 ^ 6)
    (hs : bitsOf (pktOparam j.pkt) 1 0 ≠ 3) :
    let u := (s.begin c).invalidateScope j.scope
    exec (.invalidate c) s = .next (if u.ctxBusy c (pktCount j.pkt) then u.await c else u.complete c).settle := by
  have hflush : bitOf (pktOparam j.pkt) 6 = false := (bitOf_eq_testBit _ _).trans (Nat.testBit_lt_two_pow ho)
  have hlow : pktOparam j.pkt < 128 := by omega
  refine (cmdRow_ready s c j opInvalidate _ h).trans ?_
  dsimp only
  rw [checked_ok _ _ _ _ (by simp [firstBroken, hflush, hlow, hs])]
  simp only [hflush, Bool.false_and, Bool.or_false, Bool.false_eq_true, if_false]
  rfl

/-- Whether a scope leaves a translation where it is (R322). -/
def State.outOfScope (s : State) (x : Scope) (e : TlbEntry) : Bool := !x.covers e.ctx e.seg (s.segAt e.ctx e.seg) e.page (2 ^ e.runLog2)

/-- The translations left in sets that are filtered, the empty sets dropped. -/
theorem mem_filtered_sets {α : Type} (m : List (Nat × List α)) (keep : α → Bool) (e : α) :
    (∃ k l, (k, l) ∈ (m.map fun x => (x.1, x.2.filter keep)).filter (fun x => x.2 ≠ []) ∧ e ∈ l) ↔
      (∃ k l, (k, l) ∈ m ∧ e ∈ l) ∧ keep e = true := by
  constructor
  · rintro ⟨k, l, hl, he⟩
    obtain ⟨⟨k', l'⟩, hm, heq⟩ := List.mem_map.mp (List.mem_of_mem_filter hl)
    obtain ⟨rfl, rfl⟩ := Prod.mk.inj heq
    obtain ⟨he, hk⟩ := List.mem_filter.mp he
    exact ⟨⟨k', l', hm, he⟩, hk⟩
  · rintro ⟨⟨k, l, hm, he⟩, hk⟩
    have hf : e ∈ l.filter keep := List.mem_filter.mpr ⟨he, hk⟩
    exact ⟨k, l.filter keep, List.mem_filter.mpr ⟨List.mem_map.mpr ⟨(k, l), hm, rfl⟩, decide_eq_true (List.ne_nil_of_mem hf)⟩, hf⟩

/-- The translations left in slices whose TLBs are filtered. -/
theorem mem_filtered_slices (m : Sparse Slice) (keep : TlbEntry → Bool) (e : TlbEntry) :
    (∃ k y, (k, y) ∈ m.map (fun x => (x.1, { x.2 with tlb := x.2.tlb.filter keep })) ∧ e ∈ y.tlb) ↔
      (∃ k y, (k, y) ∈ m ∧ e ∈ y.tlb) ∧ keep e = true := by
  constructor
  · rintro ⟨k, y, hy, he⟩
    obtain ⟨⟨k', y'⟩, hm, heq⟩ := List.mem_map.mp hy
    obtain ⟨rfl, rfl⟩ := Prod.mk.inj heq
    obtain ⟨he, hk⟩ := List.mem_filter.mp he
    exact ⟨⟨k', y', hm, he⟩, hk⟩
  · rintro ⟨⟨k, y, hm, he⟩, hk⟩
    exact ⟨k, _, List.mem_map.mpr ⟨(k, y), hm, rfl⟩, List.mem_filter.mpr ⟨he, hk⟩⟩

theorem outOfScope_iff (s : State) (x : Scope) (e : TlbEntry) :
    s.outOfScope x e = true ↔ x.covers e.ctx e.seg (s.segAt e.ctx e.seg) e.page (2 ^ e.runLog2) = false := by
  rw [State.outOfScope, Bool.not_eq_true']

/-- The second level holds, after a scope is invalidated, what it held out of the scope (R322). -/
theorem mem_tlb2_invalidateScope (s : State) (x : Scope) (e : TlbEntry) :
    (∃ k l, (k, l) ∈ (s.invalidateScope x).tlb2 ∧ e ∈ l) ↔ (∃ k l, (k, l) ∈ s.tlb2 ∧ e ∈ l) ∧ s.outOfScope x e = true :=
  mem_filtered_sets s.tlb2 (s.outOfScope x) e

/-- The slices hold, after a scope is invalidated, what they held out of the scope (R322). -/
theorem mem_tlb_invalidateScope (s : State) (x : Scope) (e : TlbEntry) :
    (∃ k y, (k, y) ∈ (s.invalidateScope x).slices ∧ e ∈ y.tlb) ↔ (∃ k y, (k, y) ∈ s.slices ∧ e ∈ y.tlb) ∧ s.outOfScope x e = true :=
  mem_filtered_slices s.slices (s.outOfScope x) e

/-- Settles O28: the command by whether its context is busy, and each level of TLB as a filter by the scope. -/
theorem invalidationRemovesTheScope : Obligations.InvalidationRemovesTheScope := by
  refine ⟨fun s c j h => ?_, fun s x e => ?_⟩
  · intro ctx scope x u ho hs
    have he : exec (.invalidate c) s = .next (if u.ctxBusy c ctx then u.await c else u.complete c).settle := exec_invalidate h ho hs
    exact ⟨fun hb => by rw [he, hb, if_neg Bool.false_ne_true], fun hb => by rw [he, hb, if_pos rfl]⟩
  · intro inScope
    rw [← outOfScope_iff s x e]
    exact ⟨mem_tlb2_invalidateScope s x e, mem_tlb_invalidateScope s x e⟩

end Sys2Proof.Machine

namespace Sys2Proof.Machine

/-! ## GRANT (R308, R353) -/

theorem begin_contexts (s : State) (c : CmdId) : (s.begin c).contexts = s.contexts := congrArg Kept.contexts (kept_begin s c)
theorem begin_grants (s : State) (c : CmdId) : (s.begin c).grants = s.grants := congrArg Kept.grants (kept_begin s c)
theorem begin_wsets (s : State) (c : CmdId) : (s.begin c).wsets = s.wsets := congrArg Kept.wsets (kept_begin s c)

@[simp] theorem context?_begin (s : State) (c : CmdId) (ctx : Nat) : (s.begin c).context? ctx = s.context? ctx := by
  rw [State.context?, begin_contexts, State.context?]

theorem kept_writeGrant (s : State) (i v : Nat) : (s.writeGrant i v).kept = { s.kept with grants := sput 0 s.grants i v } := by
  rw [State.writeGrant, kept_dropGrants, kept_storeFirmware]
  rfl

/-- Plinth writes `n` consecutive entries (R308, R353). -/
def State.writeGrants (s : State) (first n v : Nat) : State := foldN n s fun s k => s.writeGrant (first + k) v

/-- The table once `n` consecutive entries are written. -/
def grantsWith (g : Sparse Nat) (first n v : Nat) : Sparse Nat := foldN n g fun g k => sput 0 g (first + k) v

theorem kept_writeGrants (s : State) (first n v : Nat) :
    (s.writeGrants first n v).kept = { s.kept with grants := grantsWith s.grants first n v } := by
  induction n with
  | zero => rfl
  | succ n ih =>
    have hg : (s.writeGrants first n v).grants = grantsWith s.grants first n v := congrArg Kept.grants ih
    have hs : s.writeGrants first (n + 1) v = (s.writeGrants first n v).writeGrant (first + n) v := rfl
    rw [hs, kept_writeGrant, ih, hg]
    rfl

/-- GRANT's effect: the entries are written, and the translations into their frames leave both levels of TLB (R308, R353, R366). -/
def State.grantFrames (s : State) (first n v : Nat) : State :=
  let u := s.writeGrants first n v
  u.dropTlbTo fun e len => u.isLocal e.addr && decide (first ≤ grantIndex (localOf (e.addr + len - 1))) && decide (grantIndex (localOf e.addr) < first + n)

/-- The slices' TLBs apart, GRANT changes the table alone. -/
theorem kept_grantFrames (s : State) (first n v : Nat) : (s.grantFrames first n v).kept =
    { s.kept with grants := grantsWith s.grants first n v, slices := (s.grantFrames first n v).slices } := by
  calc (s.grantFrames first n v).kept = { (s.writeGrants first n v).kept with slices := (s.grantFrames first n v).slices } := rfl
    _ = _ := by rw [kept_writeGrants]

section Commands
variable {s : State} {c : CmdId} {j : Job}

theorem exec_grant (h : ReadySub s c j subGrant) (hn : field j.block 0 4 + field j.block 4 4 ≤ 8912896) (hc : field j.block 8 2 < 2 ^ 12)
    (hz : zeroRange j.block 11 5 = true) (hw : s.allowed j = true) :
    exec (.grant c) s = .next (((s.begin c).grantFrames (field j.block 0 4) (field j.block 4 4)
      (field j.block 8 2 + field j.block 10 1 * 2 ^ 12)).complete c).settle := by
  have hrules : firstBroken [⟨decide (field j.block 0 4 + field j.block 4 4 ≤ 8912896), 0x8004, field j.block 4 4⟩,
      blockRule j.block 8 2 (fun v => decide (v < 2 ^ 12)), reservedRule j.block 11 5] = none := by
    rw [firstBroken_cons_ok _ _ (decide_eq_true hn), firstBroken_cons_ok _ _ (decide_eq_true hc), firstBroken_reserved _ _ _ hz]
  refine (subRow_ready s c j subGrant _ h).trans ?_
  dsimp only
  rw [checked_ok _ _ _ _ hrules, plinth_of_allowed _ _ _ (by simpa using hw), h.1.id_eq]
  rfl

/-- GRANT ends with its entries written, and leaves what records leave but the slices' TLBs (R308, R353). -/
theorem endsAs_grant (h : ReadySub s c j subGrant) (hn : field j.block 0 4 + field j.block 4 4 ≤ 8912896) (hc : field j.block 8 2 < 2 ^ 12)
    (hz : zeroRange j.block 11 5 = true) (hw : s.allowed j = true) :
    ∃ sl : Sparse Slice, EndsAs (.grant c) s
      (((s.begin c).grantFrames (field j.block 0 4) (field j.block 4 4) (field j.block 8 2 + field j.block 10 1 * 2 ^ 12)).complete c)
      { s.kept with
        grants := grantsWith s.grants (field j.block 0 4) (field j.block 4 4) (field j.block 8 2 + field j.block 10 1 * 2 ^ 12), slices := sl } := by
  have hk := kept_grantFrames (s.begin c) (field j.block 0 4) (field j.block 4 4) (field j.block 8 2 + field j.block 10 1 * 2 ^ 12)
  rw [kept_begin, begin_grants] at hk
  have hi := (congrArg Kept.items hk).trans (begin_items s c).symm
  exact ⟨_, endsAs_complete h.1 (exec_grant h hn hc hz hw) hi hk⟩

/-! ## MAP_SEGMENT (R291, R310, R366, R409) -/

/-- The segments of a context but one. -/
def Context.otherSegs (x : Context) (i : Nat) : List Segment := (x.segs.toList.zipIdx.filter fun e => e.2 ≠ i).map (·.1)

/-- A state whose quadrant count is locked, and a segment of a context written (R291, R310). -/
def State.withSegment (s : State) (ctx : Nat) (x : Context) (i : Nat) (g : Segment) : State :=
  { s.setContext ctx { x with segs := x.segs.setIfInBounds i g } with qlocked := true }

/-- MAP_SEGMENT's effect: a valid segment that it changes is invalidated, and the command waits for the accesses of its context (R310, R366). -/
def State.mapSegment (s : State) (c : CmdId) (ctx : Nat) (x : Context) (i : Nat) (g : Segment) : State :=
  let v := s.withSegment ctx x i g
  let w := v.invalidateScope { ctx := ctx, seg := some i }
  if (x.segs.toList.getD i {}).valid ∧ x.segs.toList.getD i {} ≠ g then (if w.ctxBusy c ctx then w.await c else w.complete c) else v.complete c

/-- MAP_SEGMENT whose block keeps the rules is checked again by Plinth (R310, R409). -/
theorem exec_mapSegment_checked {x : Context} {i : Nat} (h : ReadyOp s c j opMapSegment) (hi : bitsOf (pktOparam j.pkt) 3 0 = i)
    (hx : (s.context? (pktCount j.pkt)).getD {} = x) (hr : firstBroken (segmentRules j.block (x.otherSegs i)) = none) :
    exec (.mapSegment c) s = .next ((s.begin c).plinth j (s.context? (pktCount j.pkt)).isSome fun s =>
      s.mapSegment c (pktCount j.pkt) x i (segmentOf j.block)).settle := by
  obtain ⟨-, -, -, hphase, -⟩ := h.1
  refine (cmdRow_ready s c j opMapSegment _ h).trans ?_
  dsimp only
  unfold Context.otherSegs at hr
  rw [if_neg (by rw [hphase]; decide), context?_begin, hx, hi, checked_ok _ _ _ _ hr, context?_begin]
  rfl

theorem exec_mapSegment {x : Context} {i : Nat} (h : ReadyOp s c j opMapSegment) (hw : s.allowed j = true)
    (hi : bitsOf (pktOparam j.pkt) 3 0 = i) (hx : s.context? (pktCount j.pkt) = some x)
    (hr : firstBroken (segmentRules j.block (x.otherSegs i)) = none) :
    exec (.mapSegment c) s = .next ((s.begin c).mapSegment c (pktCount j.pkt) x i (segmentOf j.block)).settle := by
  rw [exec_mapSegment_checked h hi (by rw [hx]; rfl) hr, hx, Option.isSome_some, plinth_of_allowed _ _ _ (by simpa using hw)]

/-- The rules of a segment among segments that are not valid are its own. -/
theorem segmentRules_of_invalid (b : List Byte) (others : List Segment) (h : ∀ o ∈ others, o.valid = false) :
    segmentRules b others = segmentRules b [] := by
  have ho : (others.all fun o => !o.valid || !o.overlaps (segmentOf b)) = true := List.all_eq_true.mpr fun o hm => by rw [h o hm]; rfl
  simp only [segmentRules, ho, List.all_nil]

/-- A context not installed yet has no valid segment. -/
theorem valid_of_mem_otherSegs_default (i : Nat) (o : Segment) (h : o ∈ ({} : Context).otherSegs i) : o.valid = false := by
  obtain ⟨⟨o', k⟩, he, rfl⟩ := List.mem_map.mp h
  have hm : o' ∈ List.replicate 16 ({} : Segment) := List.fst_mem_of_mem_zipIdx (List.mem_of_mem_filter he)
  rw [List.eq_of_mem_replicate hm]

/-- MAP_SEGMENT of a context that is not there is refused by Plinth (R409). -/
theorem exec_mapSegment_absent (h : ReadyOp s c j opMapSegment) (hr : firstBroken (segmentRules j.block []) = none)
    (hx : s.context? (pktCount j.pkt) = none) :
    exec (.mapSegment c) s = .next ((s.begin c).complete c stProtection (reason 0x52)).settle := by
  have hrules : firstBroken (segmentRules j.block (({} : Context).otherSegs (bitsOf (pktOparam j.pkt) 3 0))) = none := by
    rw [segmentRules_of_invalid _ _ (valid_of_mem_otherSegs_default _), hr]
  rw [exec_mapSegment_checked h rfl (by rw [hx]; rfl) hrules, hx, State.plinth, if_neg (by simp), h.1.id_eq]

/-! ## EXPANDER, POOL_SHARE, ARM_WEIGHTS (R222, R305, R353) -/

/-- A reserved byte that is zero. -/
theorem reservedRule_byte (b : List Byte) (off : Nat) (h : field b off 1 = 0) : reservedRule b off 1 = ⟨true, 0x8000 + off, 0⟩ := by
  simp [reservedRule, h]

theorem exec_expander (h : ReadySub s c j subExpander) (he : field j.block 0 1 ≤ 15) (h1 : field j.block 1 1 = 0) (hg : field j.block 2 2 ≤ 1024)
    (hz : zeroRange j.block 4 4 = true) :
    exec (.expander c) s = .next ((((s.begin c).setReg (0x90000 + 4 * field j.block 0 1) (BitVec.ofNat 32 (2 ^ 31 + field j.block 2 2))).noteExp
      (field j.block 0 1)).complete c).settle := by
  have hrules : firstBroken [blockRule j.block 0 1 (fun v => decide (v ≤ 15)), reservedRule j.block 1 1,
      blockRule j.block 2 2 (fun v => decide (v ≤ 1024)), reservedRule j.block 4 4] = none := by
    rw [firstBroken_cons_ok _ _ (decide_eq_true he), reservedRule_byte _ _ h1, firstBroken_cons_ok _ _ rfl,
      firstBroken_cons_ok _ _ (decide_eq_true hg), firstBroken_reserved _ _ _ hz]
  refine (subRow_ready s c j subExpander _ h).trans ?_
  dsimp only
  rw [checked_ok _ _ _ _ hrules, h.1.id_eq]

theorem exec_poolShare (h : ReadySub s c j subPoolShare) :
    exec (.poolShare c) s = .next (({ s.begin c with poolShare := field j.block 0 8 } : State).complete c).settle := by
  refine (subRow_ready s c j subPoolShare _ h).trans ?_
  dsimp only
  rw [h.1.id_eq]

theorem exec_armWeights {w : WeightSet} (h : ReadySub s c j subArmWeights) (hw : s.wset? (field j.block 0 2) = some w) (hb : w.bound = true)
    (hz : zeroRange j.block 2 6 = true) :
    exec (.armWeights c) s = .next (((s.begin c).updWset (field j.block 0 2) fun w => { w with armed := true }).complete c).settle := by
  have hset : (s.begin c).wset? (field j.block 0 2) = some w := by rw [State.wset?, begin_wsets]; exact hw
  refine (subRow_ready s c j subArmWeights _ h).trans ?_
  dsimp only
  rw [hset, checked_ok _ _ _ _ ((firstBroken_cons_ok _ _ hb).trans (firstBroken_reserved _ _ _ hz)), h.1.id_eq]

/-! ## ATTEST (R411, R412) -/

/-- ATTEST whose request can be read: Plinth's response is written, or refused as longer than its area (R411, R412). -/
theorem exec_attest {t : State} {req : List Byte} (h : ReadySub s c j subAttest) (hz : zeroRange j.block 12 4 = true) (hw : s.allowed j = true)
    (hq : (s.begin c).readVa c ((s.begin c).cmdSpace c) ((s.begin c).whoJob c) (field j.block 0 8) (field j.block 8 2) = (t, .ok req)) :
    let rsp := t.spdm req
    exec (.attest c) s = .next (if field j.block 10 2 < rsp.length then t.took.malformed j 0x46 0x800A rsp.length
      else ((t.took.updJob c fun j => { j with value0 := rsp.length }).writeVa c (t.took.cmdSpace c) (field j.block 16 8) rsp).complete c).settle := by
  refine (subRow_ready s c j subAttest _ h).trans ?_
  dsimp only
  rw [checked_ok _ _ _ _ (firstBroken_reserved _ _ _ hz), plinth_of_allowed _ _ _ (by simpa using hw), hq]

end Commands

/-- Settles O27: each command by its own row, once the rules of its block hold. -/
theorem configurationCommands : Obligations.ConfigurationCommands := by
  refine ⟨fun s c j => ?_, fun s c j => ?_, fun s c j t req => ?_⟩
  · refine ⟨fun h hn hc hz hw => ?_, fun x h hw => ?_, fun h hr hx => ?_⟩
    · obtain ⟨sl, he, hk⟩ := endsAs_grant h hn hc hz hw
      refine ⟨_, he, ?_⟩
      -- only what `hk` says of the final state matters; with the state itself in view, projections would unfold it
      revert hk
      generalize State.settle _ = t
      intro hk
      exact ⟨congrArg Kept.grants hk, congrArg Kept.contexts hk, congrArg Kept.regs hk, congrArg Kept.plans hk, congrArg Kept.streams hk,
        congrArg Kept.items hk, congrArg Kept.boot hk⟩
    · intro ctx i old y v w hx hr
      have he : exec (.mapSegment c) s = .next (if old.valid ∧ old ≠ segmentOf j.block then (if w.ctxBusy c ctx then w.await c else w.complete c)
        else v.complete c).settle := exec_mapSegment h hw rfl hx hr
      refine ⟨fun ho => ?_, fun hv hne hb => ?_, fun hv hne hb => ?_⟩
      · rw [if_neg (by rcases ho with ho | ho <;> simp [ho])] at he
        refine endsAs_complete h.1 he rfl ?_
        rw [← kept_begin s c, ← begin_contexts s c]
        rfl
      · rw [he, if_pos ⟨hv, hne⟩, hb, if_neg Bool.false_ne_true]
      · rw [he, if_pos ⟨hv, hne⟩, hb, if_pos rfl]
    · exact endsAs_complete h.1 (exec_mapSegment_absent h hr hx) rfl (kept_begin s c)
  · intro b reg
    refine ⟨fun h h0 h1 h2 hz => ?_, fun h => ?_, fun w h hw hb hz => ?_⟩
    · exact endsAs_complete h.1 (exec_expander h h0 h1 h2 hz) rfl (by rw [← kept_begin s c]; rfl)
    · exact endsAs_complete h.1 (exec_poolShare h) rfl (by rw [← kept_begin s c]; rfl)
    · exact endsAs_complete h.1 (exec_armWeights h hw hb hz) rfl (by rw [← kept_begin s c, ← begin_wsets s c]; rfl)
  · intro b u rsp h hz hw hq
    have he := exec_attest h hz hw hq
    refine ⟨fun hl => ?_, fun hl => ?_⟩
    · rw [he, if_pos hl, State.malformed, h.1.id_eq]
    · rw [he, if_neg (Nat.not_lt.mpr hl)]

end Sys2Proof.Machine

namespace Sys2Proof.Machine

/-! ## Walks (R311, R316, R318, R319) -/

theorem exec_walkComplete (ctx : Nat) (seg : Fin 16) (page : Nat) (s : State) :
    exec (.walkComplete ctx seg page) s = execWalkComplete ctx seg page s := rfl

/-- A walk has left its walker (R318). -/
def State.dropWalk (s : State) (x : Walk) : State := { s with walks := s.walks.erase x }

/-- A finished walk's entry, if it has one, fills the second level for its context (R316). -/
def State.fillWalked (s : State) (ctx : Nat) (ent : Option TlbEntry) : State :=
  match ent with
  | some e => s.tlb2Fill { e with ctx := ctx }
  | none => s

section Walks
variable {s : State} {ctx page : Nat} {seg : Fin 16} {x : Walk} (ha : s.alive = true)
  (hx : (s.walks.take 64).find? (fun x => x.ctx == ctx && x.seg == seg.val && x.page == page) = some x)
include ha hx

theorem exec_walkComplete_noSegment (hs : (s.dropWalk x).segOf ctx x.va = none) :
    exec (.walkComplete ctx seg page) s = .next ((s.dropWalk x).walkEnds x (.protection 0x54) none).settle := by
  unfold State.dropWalk at hs ⊢
  rw [exec_walkComplete, execWalkComplete, actS_alive _ _ ha, hx]
  dsimp only
  rw [hs]

theorem exec_walkComplete_segment {i : Nat} {g : Segment} {r : XRes} {ent : Option TlbEntry} (hs : (s.dropWalk x).segOf ctx x.va = some (i, g))
    (hw : (s.dropWalk x).walk i g x.va x.write = (r, ent)) :
    exec (.walkComplete ctx seg page) s = .next ((((s.dropWalk x).noteWalk g x.va).fillWalked ctx ent).walkEnds x r ent).settle := by
  unfold State.dropWalk at hs hw ⊢
  rw [exec_walkComplete, execWalkComplete, actS_alive _ _ ha, hx]
  dsimp only
  rw [hs]
  dsimp only
  rw [hw]
  rfl

end Walks

/-! ## Records of faults (R320, R471) -/

theorem exec_faultRecordPost (slot : Fin 1024) (s : State) : exec (.faultRecordPost slot) s = execFaultRecordPost slot s := rfl
theorem exec_xlSqNotifyAck (r : Requester) (s : State) : exec (.xlSqNotifyAck r) s = execXlSqNotifyAck r s := rfl
theorem exec_xlFaultDone (r : Requester) (o : BitVec 2) (id : BitVec 16) (s : State) : exec (.xlFaultDone r o id) s = execXlFaultDone r o id s := rfl
theorem exec_faultTimeout (slot : Fin 1024) (s : State) : exec (.faultTimeout slot) s = execFaultTimeout slot s := rfl

theorem sqNotify_pending (s : State) : s.sqNotify.notifyPending = true := by
  unfold State.sqNotify
  split
  · next h => exact h
  · rfl

theorem sqNotify_sqTail (s : State) : s.sqNotify.sqTail = s.sqTail := by unfold State.sqNotify; split <;> rfl

theorem sqNotify_sqPhase (s : State) : s.sqNotify.sqPhase = s.sqPhase := by unfold State.sqNotify; split <;> rfl

/-- The service queue's tail, its phase, and whether a notification is unacknowledged (R320, R471). -/
def State.sqState (s : State) : Nat × Bool × Bool := (s.sqTail, s.sqPhase, s.notifyPending)

theorem sqState_freeFault (s : State) (slot : Nat) : (s.freeFault slot).sqState = s.sqState := by
  unfold State.freeFault
  dsimp only
  split <;> rfl

/-- The record of a fault is written at the tail, or finds no memory there (R320). -/
def State.writeFault (s : State) (f : FaultSlot) : State :=
  let pa := s.physOf (s.sqBase + 64 * s.sqTail)
  if s.isMemory (localOf pa) then (s.store pa (f.bytes s.sqPhase) { wattr := 1, shared := true }).1 else s.undecoded pa

/-- A record has been written: the tail advances, the phase changes where it wraps, and the processor complex is notified (R320, R471). -/
def State.sqAdvance (s : State) (next : Nat) (phase : Bool) : State :=
  ({ s with sqTail := next, sqPhase := if next = 0 then !phase else phase } : State).sqNotify

theorem sqState_sqAdvance (s : State) (next : Nat) (phase : Bool) :
    (s.sqAdvance next phase).sqState = (next, if next = 0 then !phase else phase, true) := by
  rw [State.sqState, State.sqAdvance, sqNotify_sqTail, sqNotify_sqPhase, sqNotify_pending]

/-- A posted record waits for its answer; a HOT_PAGE record needs none (R321, R327). -/
def State.awaitAnswer (s : State) (f : FaultSlot) : State :=
  if f.typ = 8 then s.freeFault f.slot
  else { s with faults := s.faults.map fun (x : FaultSlot) => if x.slot = f.slot then { x with posted := some (s.time, s.faultTmoUs) } else x }

theorem sqState_awaitAnswer (s : State) (f : FaultSlot) : (s.awaitAnswer f).sqState = s.sqState := by
  unfold State.awaitAnswer
  split
  · exact sqState_freeFault s f.slot
  · rfl

theorem postFault_eq (s : State) (f : FaultSlot) :
    s.postFault f = ((s.writeFault f).sqAdvance ((s.sqTail + 1) % s.sqSize) s.sqPhase).awaitAnswer f := rfl

/-- A post advances the tail, turns the phase where it wraps, and leaves a notification unacknowledged (R320, R471). -/
theorem sqState_postFault (s : State) (f : FaultSlot) : (s.postFault f).sqState =
    ((s.sqTail + 1) % s.sqSize, if (s.sqTail + 1) % s.sqSize = 0 then !s.sqPhase else s.sqPhase, true) := by
  rw [postFault_eq, sqState_awaitAnswer, sqState_sqAdvance]

theorem exec_faultRecordPost_due {s : State} {slot : Fin 1024} {f : FaultSlot} (ha : s.alive = true) (he : s.sqEn = true) (hr : s.sqFull = false)
    (hf : (s.faults.find? fun (f : FaultSlot) => f.slot == slot.val && f.posted == none) = some f) :
    exec (.faultRecordPost slot) s = .next (s.postFault f).settle := by
  rw [exec_faultRecordPost, execFaultRecordPost, actSWhen_of _ _ _ ha (by rw [he, hr]; rfl), hf]

theorem exec_faultRecordPost_stays {s : State} {slot : Fin 1024} (h : s.sqEn = false ∨ s.sqFull = true) :
    exec (.faultRecordPost slot) s = .next s := by
  rw [exec_faultRecordPost, execFaultRecordPost]
  exact actSWhen_of_not s _ _ (by rcases h with h | h <;> simp [h])

/-- An acknowledgement, and the next notification where the tail has moved (R471). -/
theorem exec_xlSqNotifyAck_pending {s : State} {r : Requester} (h : Written s 0x4001C r) (hp : s.notifyPending = true) :
    exec (.xlSqNotifyAck r) s = .next (if s.sqTail = s.notifiedTail then ({ s with notifyPending := false } : State)
      else ({ s with notifyPending := false } : State).sqNotify).settle := by
  rw [exec_xlSqNotifyAck, execXlSqNotifyAck, actReg_written _ _ _ _ h, State.sqAck, if_neg (by rw [hp]; decide)]

/-! ## Answers of faults (R321, R330, R426) -/

/-- A fault's answer goes to each that waits for it (R321). -/
def State.answerAll (s : State) (f : FaultSlot) (a : Answer) : State := f.joiners.foldl (fun s w => s.answerOne f a w) s

theorem answerFault_resolved (s : State) (f : FaultSlot) :
    s.answerFault f .resolved = ((s.freeFault f.slot).dropTlb f.ctx f.seg f.page).answerAll f .resolved := rfl

theorem answerFault_status (s : State) (f : FaultSlot) (st : Nat) : s.answerFault f (.status st) = (s.freeFault f.slot).answerAll f (.status st) := rfl

section Done
variable {s : State} {r : Requester} {o : BitVec 2} {id : BitVec 16}

theorem exec_xlFaultDone_written (h : Written s 0x40014 r) : exec (.xlFaultDone r o id) s = .next (s.faultDone o.toNat id.toNat).settle := by
  rw [exec_xlFaultDone, execXlFaultDone, actReg_written _ _ _ _ h]

theorem faultDone_reserved (n : Nat) : s.faultDone 3 n = s := rfl

theorem faultDone_unknown {k n : Nat} (hk : k ≠ 3) (hn : s.outstanding n = none) : s.faultDone k n = s.countEngine 16 1 := by
  rw [State.faultDone, if_neg hk, hn]

theorem faultDone_posted {k n : Nat} {f : FaultSlot} (hk : k ≠ 3) (hn : s.outstanding n = some f) : s.faultDone k n =
    s.answerFault f (if k = 0 then .resolved else if k = 1 then .status stProtection else .status stWalkError) := by
  rw [State.faultDone, if_neg hk, hn]

end Done

theorem exec_faultTimeout_late {s : State} {slot : Fin 1024} {f : FaultSlot} (ha : s.alive = true)
    (hf : (s.faults.find? fun (f : FaultSlot) => f.slot == slot.val && f.late s.time) = some f) :
    exec (.faultTimeout slot) s =
      .next ((s.errorRecord { code := 0x0018, action := 11, ctx := f.ctx, gen := f.gen, cmdSeq := f.cmdSeq }).answerFault f (.status stAborted)).settle := by
  rw [exec_faultTimeout, execFaultTimeout, actS_alive _ _ ha, hf]

/-- Settles O45: a walk by its segment and its result, a record by its queue, and an answer by its outcome and the record that it names. -/
theorem walksAndFaults : Obligations.WalksAndFaults := by
  refine ⟨fun s ctx page seg x ha hx => ?_, fun s slot f r => ?_, fun s r o id h => ?_⟩
  · refine ⟨exec_walkComplete_noSegment ha hx, fun i g r hs hw => ?_, fun i g r e hs hw => ?_⟩
    · rw [exec_walkComplete_segment ha hx hs hw]
      rfl
    · rw [exec_walkComplete_segment ha hx hs hw]
      rfl
  · intro next
    refine ⟨fun ha he hr hf => ⟨exec_faultRecordPost_due ha he hr hf, ?_⟩, fun _ => exec_faultRecordPost_stays, fun h hp ht => ?_, fun h hp ht => ?_⟩
    · have hq := sqState_postFault s f
      exact ⟨congrArg (·.1) hq, congrArg (·.2.1) hq, congrArg (·.2.2) hq⟩
    · rw [exec_xlSqNotifyAck_pending h hp, if_pos ht]
    · rw [exec_xlSqNotifyAck_pending h hp, if_neg ht]
  · refine ⟨fun ho => ?_, fun ho hn => ?_, fun f hf => ?_, fun slot f hf => ?_⟩
    · rw [exec_xlFaultDone_written h, ho]
      rfl
    · rw [exec_xlFaultDone_written h, faultDone_unknown (fun h3 => ho (BitVec.eq_of_toNat_eq h3)) hn]
    · intro u
      have hdone (k : Nat) (hk : k < 3) (ho : o.toNat = k) : exec (.xlFaultDone r o id) s =
          .next (s.answerFault f (if k = 0 then .resolved else if k = 1 then .status stProtection else .status stWalkError)).settle := by
        rw [exec_xlFaultDone_written h, ho, faultDone_posted (by omega) hf]
      refine ⟨fun ho => ?_, fun ho => ?_, fun ho => ?_⟩
      · exact hdone 0 (by decide) (by rw [ho]; rfl)
      · exact hdone 1 (by decide) (by rw [ho]; rfl)
      · exact hdone 2 (by decide) (by rw [ho]; rfl)
    · exact exec_faultTimeout_late h.2 hf

end Sys2Proof.Machine

namespace Sys2Proof.Machine

/-! ## Thermal levels (R302) -/

theorem exec_temperatureReport (k : Fin 16) (temp : BitVec 8) (s : State) : exec (.temperatureReport k temp) s = execTemperatureReport k temp s := rfl
theorem exec_throttleLower (k : Fin 16) (s : State) : exec (.throttleLower k) s = execThrottleLower k s := rfl
theorem exec_sensorLost (k : Fin 16) (s : State) : exec (.sensorLost k) s = execSensorLost k s := rfl

/-- A temperature that is not below the lower threshold of its level (R302). -/
theorem belowLower_eq_false_iff (level temp : Nat) :
    belowLower level temp = false ↔ (level = 2 ∧ 102 ≤ temp) ∨ (level ≠ 2 ∧ 92 ≤ temp) := by
  unfold belowLower
  by_cases h : level = 2 <;> simp [h]

/-- When a stack's temperature fell below the lower threshold of `level`, if it is below it (R302; log entry 19). -/
def Stack.sinceBelow (x : Stack) (level temp now : Nat) : Option Nat :=
  if level = 0 ∨ belowLower level temp = false then none else some (if level = x.level then x.belowSince.getD now else now)

theorem sinceBelow_eq_none_iff (x : Stack) (level temp now : Nat) :
    x.sinceBelow level temp now = none ↔ level = 0 ∨ (level = 2 ∧ 102 ≤ temp) ∨ (level ≠ 0 ∧ level ≠ 2 ∧ 92 ≤ temp) := by
  rw [Stack.sinceBelow, ite_eq_left_iff, belowLower_eq_false_iff]
  simp only [reduceCtorEq, imp_false, not_not]
  omega

section Stack
variable {s : State} {k : Fin 16}

/-- The level of a stack that reports `temp` (R302). -/
def Stack.levelAt (x : Stack) (temp : Nat) : Nat := raisedLevel (if x.lost then 0 else x.level) temp

theorem exec_temperatureReport_alive (temp : BitVec 8) (ha : s.alive = true) :
    let x := s.hbm.get k
    exec (.temperatureReport k temp) s = .next { s with hbm := s.hbm.set k.val { x with
      level := x.levelAt temp.toNat, temp := temp.toNat, lost := false, lastReport := s.time
      belowSince := x.sinceBelow (x.levelAt temp.toNat) temp.toNat s.time } } := by
  rw [exec_temperatureReport, execTemperatureReport, act_alive _ _ ha]
  rfl

/-- A stack that has stayed 100 µs below the lower threshold comes down one level (R302). -/
theorem exec_throttleLower_due {t : Nat} (ha : s.alive = true) (hb : (s.hbm.get k).belowSince = some t) (ht : t + 100000 ≤ s.time)
    (hl : (s.hbm.get k).lost = false) (hn : (s.hbm.get k).level ≠ 0) :
    ∃ since, exec (.throttleLower k) s =
      .next { s with hbm := s.hbm.set k.val { s.hbm.get k with level := (s.hbm.get k).level - 1, belowSince := since } } := by
  rw [exec_throttleLower, execThrottleLower, actWhen_of _ _ _ ha (by simp [hb, ht, hl, hn])]
  exact ⟨_, rfl⟩

theorem exec_throttleLower_stays (h : (s.hbm.get k).belowSince = none ∨ (s.hbm.get k).lost = true ∨ (s.hbm.get k).level = 0) :
    exec (.throttleLower k) s = .next s := by
  rw [exec_throttleLower, execThrottleLower]
  exact actWhen_of_not s _ _ (by rcases h with h | h | h <;> simp [h])

/-- A stack that has not reported for 100 µs is held at level 2, with its record (R302). -/
theorem exec_sensorLost_due (ha : s.alive = true) (hl : (s.hbm.get k).lost = false) (hp : s.boot.poolReady = true)
    (ht : (s.hbm.get k).lastReport + 100000 ≤ s.time) :
    exec (.sensorLost k) s =
      .next (({ s with hbm := s.hbm.set k.val { s.hbm.get k with lost := true, level := 2, belowSince := none } } : State).errorRecord
        { code := 0x001A, unit := 12, index := k.val, action := 8 }) := by
  rw [exec_sensorLost, execSensorLost, actWhen_of _ _ _ ha (by simp [hl, hp, ht])]
  rfl

theorem exec_sensorLost_early (ht : s.time < (s.hbm.get k).lastReport + 100000) : exec (.sensorLost k) s = .next s := by
  rw [exec_sensorLost, execSensorLost]
  exact actWhen_of_not s _ _ (by simp [ht])

end Stack

/-! ## The configuration mailbox (R472, R473) -/

theorem exec_ctCfgGo (r : Requester) (v : BitVec 32) (s : State) : exec (.ctCfgGo r v) s = execCtCfgGo r v s := rfl
theorem exec_cfgRequestDone (st : BitVec 3) (data : BitVec 32) (s : State) :
    exec (.cfgRequestDone st data) s = execCfgRequestDone st data s := rfl

/-- The mailbox's fields are those of a write (R472). -/
def State.withCfgFields (s : State) (v : BitVec 32) : State := { s with cfg := { s.cfg with fields := v &&& 0x07FC0FFC } }

/-- Whether a write names a port that is trained, and a half of it only when it is bifurcated (R473). -/
def State.cfgTarget (s : State) (v : BitVec 32) : Bool :=
  if h : bitsOf v.toNat 21 19 < 8 then
    (s.cap[bitsOf v.toNat 21 19]).st == 1 && (!bitOf v.toNat 18 || (s.cap[bitsOf v.toNat 21 19]).bifurcated)
  else false

section Mailbox
variable {s : State} {v : BitVec 32}

theorem cfgTarget_iff (h : bitsOf v.toNat 21 19 < 8) : s.cfgTarget v = true ↔
    s.cap[bitsOf v.toNat 21 19].st = 1 ∧ (bitOf v.toNat 18 = false ∨ s.cap[bitsOf v.toNat 21 19].bifurcated = true) := by
  simp [State.cfgTarget, h]

theorem cfgGo_busy (hb : s.cfg.busy = true) : s.cfgGo v = s := by rw [State.cfgGo, if_pos hb]

theorem cfgGo_fields (hb : s.cfg.busy = false) (hg : bitOf v.toNat 31 = false) : s.cfgGo v = s.withCfgFields v := by
  rw [State.cfgGo, if_neg (by rw [hb]; exact Bool.false_ne_true)]
  dsimp only
  rw [if_pos hg]
  rfl

/-- With GO, a request is sent to a port that can take it, or STATUS is 4 at once (R472, R473). -/
theorem cfgGo_go (hb : s.cfg.busy = false) (hg : bitOf v.toNat 31 = true) : s.cfgGo v =
    if s.cfgTarget v then ({ s with cfg := { s.cfg with fields := v &&& 0x07FC0FFC, busy := true, status := 0 }, cfgSentAt := s.time } : State).send
      (.cfgRequest (v &&& 0x07FC0FFC) s.cfg.data)
    else { s with cfg := { s.cfg with fields := v &&& 0x07FC0FFC, status := 4 } } := by
  rw [State.cfgGo, if_neg (by rw [hb]; exact Bool.false_ne_true)]
  dsimp only
  rw [if_neg (by simp [hg])]
  rfl

/-- A completion gives its STATUS, and its data to a read (R472). -/
theorem exec_cfgRequestDone_due {st : BitVec 3} {data : BitVec 32} (ha : s.alive = true) (hb : s.cfg.busy = true) (hst : st.toNat < 4)
    (ht : st ≠ 3 ∨ s.cfgSentAt + 50000000 ≤ s.time) :
    exec (.cfgRequestDone st data) s = .next { s with cfg := { s.cfg with
      busy := false, status := st.toNat, data := if st = 0 ∧ bitOf s.cfg.fields.toNat 26 = false then data else s.cfg.data } } := by
  rw [exec_cfgRequestDone, execCfgRequestDone, actWhen_of _ _ _ ha (by simpa [hb, hst] using ht)]

theorem exec_cfgRequestDone_idle {st : BitVec 3} {data : BitVec 32} (hb : s.cfg.busy = false) : exec (.cfgRequestDone st data) s = .next s := by
  rw [exec_cfgRequestDone, execCfgRequestDone]
  exact actWhen_of_not s _ _ (by simp [hb])

end Mailbox

/-- Settles O49: a stack by its report and by the two times that are measured, and the mailbox by whether it is busy and whether its port can take
a request. -/
theorem thermalAndConfiguration : Obligations.ThermalAndConfiguration := by
  refine ⟨fun s k temp ha => ?_, fun s r v data st h => ?_⟩
  · intro x before level set
    have he : exec (.temperatureReport k temp) s = .next (set { x with
        level := level, temp := temp.toNat, lost := false, lastReport := s.time, belowSince := x.sinceBelow level temp.toNat s.time }) :=
      exec_temperatureReport_alive temp ha
    refine ⟨⟨_, he, sinceBelow_eq_none_iff x level temp.toNat s.time⟩, fun t hb ht hl hn => ?_, fun hx => ?_, fun hl hp ht => ?_, fun ht => ?_⟩
    · exact exec_throttleLower_due ha hb ht hl hn
    · exact exec_throttleLower_stays hx
    · exact exec_sensorLost_due ha hl hp ht
    · exact exec_sensorLost_early ht
  · intro fields n
    have he : exec (.ctCfgGo r v) s = .next (s.cfgGo v).settle := by
      rw [exec_ctCfgGo, execCtCfgGo, actReg_written _ _ _ _ h]
    refine ⟨fun hb => ?_, fun hb hg => ?_, fun hn hb hg hst hhalf => ?_, fun hn hb hg hbad => ?_, exec_cfgRequestDone_due h.2,
      exec_cfgRequestDone_idle⟩
    · rw [he, cfgGo_busy hb]
    · rw [he, cfgGo_fields hb hg]
      rfl
    · rw [he, cfgGo_go hb hg, if_pos ((cfgTarget_iff hn).mpr ⟨hst, hhalf⟩)]
    · have ht : ¬ s.cfgTarget v = true := by
        rw [cfgTarget_iff hn]
        rintro ⟨hst, hhalf⟩
        rcases hbad with h1 | ⟨hside, hwhole⟩
        · exact h1 hst
        · rcases hhalf with h0 | h0
          · exact Bool.false_ne_true (h0.symm.trans hside)
          · exact Bool.false_ne_true (hwhole.symm.trans h0)
      rw [he, cfgGo_go hb hg, if_neg ht]

end Sys2Proof.Machine

namespace Sys2Proof.Machine

/-! ## A routed frame for this engine (R376, R378, R381, R387) -/

/-- A routed frame of its row that its link accepts, and that is for this engine, is delivered once it has left its buffer (R380, R387). -/
theorem routedRow_mine {s : State} {p : Fin 8} {f : Frame} {typ : Nat} (deliver : State → State) (h : Arrives s p f typ) (hm : s.isMine f = true) :
    routedRow s p f typ deliver = .next (deliver (s.received p f)).settle := by
  obtain ⟨ha, ht, he, hv, hp, hs⟩ := h
  have hm' : (s.linked p f).isMine f = true := hm
  have hroute : (s.linked p f).routeIn p f deliver = deliver (s.received p f) := by rw [State.routeIn, if_pos hm', State.received]
  have hlink : s.linkIn p f (fun s => s.routeIn p f deliver) = deliver (s.received p f) := by
    rw [← hroute]
    unfold State.linkIn
    dsimp only
    rw [ht, if_neg (by simp [hp]), if_pos hs]
    rfl
  rw [routedRow, actS_alive _ _ ha, State.headIn, if_neg (by simp [ht]), if_neg (by simp [he]), if_neg (by simp [hv]), hlink]

/-! ## What a received frame leaves -/

/-- Whatever does not depend on the ports is as before the frame. -/
theorem received_keeps {β : Type} (q : State → β) (hq : ∀ s p x, q (State.setFport s p x) = q s) (s : State) (p : Fin 8) (f : Frame) :
    q (s.received p f) = q s := by
  rw [State.received, State.freeFrame, State.updFport, hq, State.linked, State.updFport, hq, State.acknowledge, State.updFport, hq]

theorem joined_received (s : State) (p : Fin 8) (f : Frame) : (s.received p f).joined = s.joined :=
  received_keeps State.joined (fun _ _ _ => rfl) s p f

theorem isLocal_received (s : State) (p : Fin 8) (f : Frame) (a : Nat) : (s.received p f).isLocal a = s.isLocal a :=
  received_keeps (·.isLocal a) (fun _ _ _ => rfl) s p f

theorem requestOf_received (s : State) (p : Fin 8) (f g : Frame) (w : Bool) : (s.received p f).requestOf g w = s.requestOf g w :=
  received_keeps (·.requestOf g w) (fun _ _ _ => rfl) s p f

/-! ## Requests of other nodes (R309, R325, R379) -/

theorem exec_rdReq (p : Fin 8) (f : Frame) (s : State) : exec (.rdReq p f) s = execRdReq p f s := rfl
theorem exec_wrReq (p : Fin 8) (f : Frame) (s : State) : exec (.wrReq p f) s = execWrReq p f s := rfl
theorem exec_rdResp (p : Fin 8) (f : Frame) (s : State) : exec (.rdResp p f) s = execRdResp p f s := rfl
theorem exec_wrAck (p : Fin 8) (f : Frame) (s : State) : exec (.wrAck p f) s = execWrAck p f s := rfl
theorem exec_remoteRequestTimeout (tag : Nat) (s : State) : exec (.remoteRequestTimeout tag) s = execRemoteRequestTimeout tag s := rfl

/-- A remote request is answered with a status alone. -/
def State.refuseRemote (s : State) (p : Fin 8) (f : Frame) (typ st : Nat) : State := s.sendAnswer (s.answer p f { typ := typ, rstat := st })

/-- The read of memory that a remote read makes (R325). -/
def State.remoteLoad (s : State) (f : Frame) : State × Option (List Byte) :=
  let v := s.fetchRemoteGrant f
  v.loadCounted f.addr f.len (v.remoteAccess f .none)

theorem remoteLoad_eq {s : State} {f : Frame} {r : Option (List Byte)} (h : (s.remoteLoad f).2 = r) :
    (s.fetchRemoteGrant f).loadCounted f.addr f.len ((s.fetchRemoteGrant f).remoteAccess f .none) = ((s.remoteLoad f).1, r) := Prod.ext rfl h

section Serve
variable {s : State} {p : Fin 8} {f : Frame}

theorem fetchRemoteGrant_unjoined (h : s.joined = false) : s.fetchRemoteGrant f = s := by simp [State.fetchRemoteGrant, h]

theorem fetchRemoteGrant_elsewhere (h : s.isLocal f.addr = false) : s.fetchRemoteGrant f = s := by simp [State.fetchRemoteGrant, h]

theorem remoteStatus_unjoined (n : Nat) (w : Bool) (h : s.joined = false) : s.remoteStatus f n w = 1 := by rw [State.remoteStatus, if_pos h]

theorem remoteStatus_elsewhere (n : Nat) (w : Bool) (hj : s.joined = true) (h : s.isLocal f.addr = false) : s.remoteStatus f n w = 3 := by
  rw [State.remoteStatus, if_neg (by simp [hj]), if_pos (Or.inl h)]

/-- A read that may not be served is answered with its status; one without the grant is noted (R309, R379). -/
theorem serveRead_refused (hs : (s.fetchRemoteGrant f).remoteStatus f f.len false ≠ 0) : s.serveRead p f =
    let v := s.fetchRemoteGrant f
    let st := v.remoteStatus f f.len false
    (if st = 1 ∧ v.joined = true then v.denied f.ctx (localOf f.addr) else v).refuseRemote p f ftRdResp st := by
  unfold State.serveRead
  dsimp only
  rw [if_pos hs]
  rfl

theorem serveRead_unjoined (h : s.joined = false) : s.serveRead p f = s.refuseRemote p f ftRdResp 1 := by
  rw [serveRead_refused (by rw [fetchRemoteGrant_unjoined h, remoteStatus_unjoined _ _ h]; decide)]
  dsimp only
  rw [fetchRemoteGrant_unjoined h, remoteStatus_unjoined _ _ h, if_neg (by simp [h])]

theorem serveRead_elsewhere (hj : s.joined = true) (h : s.isLocal f.addr = false) : s.serveRead p f = s.refuseRemote p f ftRdResp 3 := by
  rw [serveRead_refused (by rw [fetchRemoteGrant_elsewhere h, remoteStatus_elsewhere _ _ hj h]; decide)]
  dsimp only
  rw [fetchRemoteGrant_elsewhere h, remoteStatus_elsewhere _ _ hj h, if_neg (by simp)]

theorem serveRead_denied (hj : (s.fetchRemoteGrant f).joined = true) (hs : (s.fetchRemoteGrant f).remoteStatus f f.len false = 1) :
    s.serveRead p f = ((s.fetchRemoteGrant f).denied f.ctx (localOf f.addr)).refuseRemote p f ftRdResp 1 := by
  rw [serveRead_refused (by rw [hs]; decide)]
  dsimp only
  rw [hs, if_pos ⟨rfl, hj⟩]

section Granted
variable (hs : (s.fetchRemoteGrant f).remoteStatus f f.len false = 0)
include hs

/-- A read of a lost port is answered with RSTAT 2 (R307, R379). -/
theorem serveRead_lostPort (hp : (s.fetchRemoteGrant f).onLostPort (localOf f.addr) = true) :
    s.serveRead p f = (s.fetchRemoteGrant f).refuseRemote p f ftRdResp 2 := by
  unfold State.serveRead
  dsimp only
  rw [if_neg (not_not.mpr hs), if_pos hp]
  rfl

/-- A read that is served is answered with its data (R325, R379). -/
theorem serveRead_data {bs : List Byte} (hp : (s.fetchRemoteGrant f).onLostPort (localOf f.addr) = false)
    (hl : (s.remoteLoad f).2 = some bs) : let t := (s.remoteLoad f).1
    s.serveRead p f = t.sendAnswer (t.answer p f { typ := ftRdResp, len := f.len, payload := bs }) := by
  unfold State.serveRead
  dsimp only
  rw [if_neg (not_not.mpr hs), if_neg (by simp [hp]), remoteLoad_eq hl]

/-- A read that meets an uncorrectable error is answered with RSTAT 2 (R379). -/
theorem serveRead_poison (hp : (s.fetchRemoteGrant f).onLostPort (localOf f.addr) = false)
    (hl : (s.remoteLoad f).2 = none) : s.serveRead p f = (s.remoteLoad f).1.refuseRemote p f ftRdResp 2 := by
  unfold State.serveRead
  dsimp only
  rw [if_neg (not_not.mpr hs), if_neg (by simp [hp]), remoteLoad_eq hl]
  rfl

end Granted

/-- A write that may not be served is answered with its status; one without the grant is noted (R309, R379). -/
theorem serveWrite_refused (hs : (s.fetchRemoteGrant f).remoteStatus f f.payload.length true ≠ 0) : s.serveWrite p f =
    let v := s.fetchRemoteGrant f
    let st := v.remoteStatus f f.payload.length true
    (if st = 1 ∧ v.joined = true then v.denied f.ctx (localOf f.addr) else v).refuseRemote p f ftWrAck st := by
  unfold State.serveWrite
  dsimp only
  rw [if_pos hs]
  rfl

theorem serveWrite_unjoined (h : s.joined = false) : s.serveWrite p f = s.refuseRemote p f ftWrAck 1 := by
  rw [serveWrite_refused (by rw [fetchRemoteGrant_unjoined h, remoteStatus_unjoined _ _ h]; decide)]
  dsimp only
  rw [fetchRemoteGrant_unjoined h, remoteStatus_unjoined _ _ h, if_neg (by simp [h])]

theorem serveWrite_denied (hj : (s.fetchRemoteGrant f).joined = true) (hs : (s.fetchRemoteGrant f).remoteStatus f f.payload.length true = 1) :
    s.serveWrite p f = ((s.fetchRemoteGrant f).denied f.ctx (localOf f.addr)).refuseRemote p f ftWrAck 1 := by
  rw [serveWrite_refused (by rw [hs]; decide)]
  dsimp only
  rw [hs, if_pos ⟨rfl, hj⟩]

/-- A write that is served enters memory, and its answer follows its acknowledgement (R29, R325, R379). -/
theorem serveWrite_granted (hs : (s.fetchRemoteGrant f).remoteStatus f f.payload.length true = 0) : s.serveWrite p f =
    let v := s.fetchRemoteGrant f
    let a := v.answer p f { typ := ftWrAck }
    (v.storeLine f.addr f.payload (v.remoteAccess f (.remote a.1 a.2))).1 := by
  unfold State.serveWrite
  dsimp only
  rw [if_neg (not_not.mpr hs)]

/-! ## Answers to the engine's requests (R325, R379) -/

/-- A request that is answered is no longer in flight. -/
def State.dropRemote (s : State) (r : RemoteReq) : State := { s with fab := { s.fab with remote := s.fab.remote.erase r } }

/-- The data of a gather's read reach the line that waits for them (R379). -/
theorem readAnswer_gather {r : RemoteReq} {m : MemReq} (h0 : f.rstat = 0) (hm : r.mem = some m) :
    s.readAnswer p r f = (s.dropRemote r).landSectors m (remoteSectors m (some f.payload)) := by
  unfold State.readAnswer
  rw [if_neg (by simp [h0]), h0, hm]
  rfl

/-- The data of a command's read are kept for it, and it goes on (R379). -/
theorem readAnswer_command {r : RemoteReq} (h0 : f.rstat = 0) (hm : r.mem = none) : s.readAnswer p r f =
    (((s.dropRemote r).keepAnswer r.cmd (r.addr / 256 * 256) (.data f.payload)).parse r.cmd).remoteEnded := by
  unfold State.readAnswer
  rw [if_neg (by simp [h0]), h0, hm]
  rfl

theorem readAnswer_refused {r : RemoteReq} (h0 : f.rstat ≠ 0) (h2 : f.rstat ≠ 2) : s.readAnswer p r f = s.failRemote r (rstatStatus f.rstat) := by
  unfold State.readAnswer
  rw [if_pos ⟨h0, h2⟩]

section Answers
variable (hm : s.isMine f = true)
include hm

theorem exec_rdReq_mine (h : Arrives s p f ftRdReq) : exec (.rdReq p f) s = .next ((s.received p f).serveRead p f).settle := by
  rw [exec_rdReq, execRdReq, routedRow_mine _ h hm]

theorem exec_wrReq_mine (h : Arrives s p f ftWrReq) : exec (.wrReq p f) s = .next ((s.received p f).serveWrite p f).settle := by
  rw [exec_wrReq, execWrReq, routedRow_mine _ h hm]

theorem exec_rdResp_none (h : Arrives s p f ftRdResp) (hr : s.requestOf f false = none) :
    exec (.rdResp p f) s = .next (s.received p f).settle := by
  rw [exec_rdResp, execRdResp, routedRow_mine _ h hm, requestOf_received, hr]

/-- An answer to a read whose length fits its request (R379). -/
theorem exec_rdResp_some {r : RemoteReq} (h : Arrives s p f ftRdResp) (hr : s.requestOf f false = some r)
    (hf : f.rstat = 0 → f.payload.length = r.len) : exec (.rdResp p f) s = .next ((s.received p f).readAnswer p r f).settle := by
  rw [exec_rdResp, execRdResp, routedRow_mine _ h hm, requestOf_received, hr]
  dsimp only
  rw [if_neg fun hbad => hbad.2 (hf hbad.1)]

theorem exec_wrAck_none (h : Arrives s p f ftWrAck) (hr : s.requestOf f true = none) : exec (.wrAck p f) s = .next (s.received p f).settle := by
  rw [exec_wrAck, execWrAck, routedRow_mine _ h hm, requestOf_received, hr]

theorem exec_wrAck_some {r : RemoteReq} (h : Arrives s p f ftWrAck) (hr : s.requestOf f true = some r) :
    exec (.wrAck p f) s = .next (if f.rstat = 0 then (((s.received p f).dropRemote r).notifyWrite (.job r.cmd r.ctx)).remoteEnded
      else (s.received p f).failRemote r (rstatStatus f.rstat)).settle := by
  rw [exec_wrAck, execWrAck, routedRow_mine _ h hm, requestOf_received, hr]
  rfl

end Answers

theorem exec_remoteRequestTimeout_due {tag : Nat} {r : RemoteReq} (ha : s.alive = true)
    (hr : (s.fab.remote.find? fun r => r.tag == tag && decide (r.sentAt + s.rtmoUs * 1000 ≤ s.time)) = some r) :
    exec (.remoteRequestTimeout tag) s = .next (s.failRemote r stAborted).settle := by
  rw [exec_remoteRequestTimeout, execRemoteRequestTimeout, actS_alive _ _ ha, hr]

end Serve

/-- Settles O57: each row by the frame that arrives, a request by its status, and an answer by the request that it names. -/
theorem remoteAccessesAreServed : Obligations.RemoteAccessesAreServed := by
  intro s p f hm u v no
  refine ⟨fun h hj => ?_, fun h hj hl => ?_, fun h hj hs => ?_, fun h hs hp => ?_, fun h hs hp => ?_, fun h hj => ?_, fun h hj hs => ?_,
    fun h hs => ?_, fun r h hr h0 hl => ?_, fun r h hr h1 => ?_, fun h hr => exec_rdResp_none hm h hr, fun r h hr h0 => ?_, fun r h hr h3 => ?_,
    fun h hr => exec_wrAck_none hm h hr, fun tag r ha hr => exec_remoteRequestTimeout_due ha hr⟩
  · rw [exec_rdReq_mine hm h, serveRead_unjoined ((joined_received s p f).trans hj)]
    rfl
  · rw [exec_rdReq_mine hm h, serveRead_elsewhere ((joined_received s p f).trans hj) ((isLocal_received s p f f.addr).trans hl)]
    rfl
  · rw [exec_rdReq_mine hm h, serveRead_denied hj hs]
    rfl
  · rw [exec_rdReq_mine hm h, serveRead_lostPort hs hp]
    rfl
  · intro r
    refine ⟨fun bs hb => ?_, fun hb => ?_⟩
    · rw [exec_rdReq_mine hm h, serveRead_data hs hp hb]
      rfl
    · rw [exec_rdReq_mine hm h, serveRead_poison hs hp hb]
      rfl
  · rw [exec_wrReq_mine hm h, serveWrite_unjoined ((joined_received s p f).trans hj)]
    rfl
  · rw [exec_wrReq_mine hm h, serveWrite_denied hj hs]
    rfl
  · rw [exec_wrReq_mine hm h, serveWrite_granted hs]
  · intro w
    rw [exec_rdResp_some hm h hr fun _ => hl]
    refine ⟨fun hn => ?_, fun m hn => ?_⟩
    · rw [readAnswer_command h0 hn]
      rfl
    · rw [readAnswer_gather h0 hn]
      rfl
  · rw [exec_rdResp_some hm h hr fun h0 => absurd (h0.symm.trans h1) (by decide), readAnswer_refused (by simp [h1]) (by simp [h1]), h1]
    rfl
  · rw [exec_wrAck_some hm h hr, if_pos h0]
    rfl
  · rw [exec_wrAck_some hm h hr, if_neg (by simp [h3]), h3]
    rfl

end Sys2Proof.Machine

namespace Sys2Proof.Machine

/-! ## Facts of the state that the commands on contexts and queues rest on -/

/-- An entry inserted goes again with the entries of its key. -/
theorem filter_sinsert {α : Type} (m : Sparse α) (k : Nat) (v : α) : (sinsert m k v).filter (fun e => e.1 ≠ k) = m.filter fun e => e.1 ≠ k := by
  induction m with
  | nil => simp [sinsert]
  | cons e m ih =>
    obtain ⟨a, w⟩ := e
    rw [sinsert]
    split
    · simp
    · split
      · next h => simp [h]
      · rw [List.filter_cons, List.filter_cons, ih]

theorem ids_closeWait (s : State) (typ w : Nat) (t : Bool) (h d : Option Nat) :
    (s.closeWait typ w t h d).jobs.map Job.id = s.jobs.map Job.id := by
  have hplain : (s.closeWait typ w t h d).jobs.map Job.plain = s.jobs.map Job.plain := congrArg State.jobs (offPath_closeWait s typ w t h d)
  simpa [Function.comp_def, Job.plain] using congrArg (List.map Job.id) hplain

/-- A command that starts leaves which commands are in progress. -/
theorem ids_begin (s : State) (c : CmdId) : (s.begin c).jobs.map Job.id = s.jobs.map Job.id := by
  rw [← ids_closeWait s 4 (agentCmd c) false none none, State.begin, updJob_jobs, List.map_map]
  refine List.map_congr_left fun j _ => ?_
  rw [Function.comp_apply, apply_ite Job.id, ite_self]

theorem any_id_begin (s : State) (c : CmdId) (p : CmdId → Bool) : ((s.begin c).jobs.any fun k => p k.id) = s.jobs.any fun k => p k.id := by
  have hany (l : List Job) : (l.any fun k => p k.id) = (l.map Job.id).any p := by rw [List.any_map]; rfl
  rw [hany, ids_begin, ← hany]

/-- Whether a command that starts finds no other of a kind in progress. -/
theorem no_other_begin (s : State) (c : CmdId) (p : CmdId → Bool) (h : (s.jobs.all fun k => !p k.id || k.id == c) = true) :
    ((s.begin c).jobs.any fun k => p k.id && k.id != c) = false := by
  rw [any_id_begin s c fun i => p i && i != c, ← Bool.not_eq_true', List.not_any_eq_all_not, ← h]
  simp [bne]

theorem begin_fabqs (s : State) (c : CmdId) : (s.begin c).fabqs = s.fabqs := congrArg Kept.fabqs (kept_begin s c)

/-- A number below `n` is free while fewer than `n` are in use. -/
theorem freePick_of_lt (s : State) (used : List Nat) (n : Nat) (h : used.length < n) :
    ∃ i, i < n ∧ i ∉ used ∧ s.freePick used n = (s.took, some i) := by
  have hfree : (List.range n).filter (fun i => !used.contains i) ≠ [] := by
    intro hnil
    have hsub : List.range n ⊆ used := fun i hi => by simpa using List.filter_eq_nil_iff.mp hnil i hi
    have hle := (List.nodup_range.subperm hsub).length_le
    rw [List.length_range] at hle
    omega
  unfold State.freePick
  dsimp only
  split
  · next hnil => exact absurd hnil hfree
  · next x rest hl =>
    have hmem : (x :: rest).getD (s.freeNat % (x :: rest).length) x ∈ (List.range n).filter fun i => !used.contains i := by
      rw [List.getD_eq_getElem _ _ (Nat.mod_lt _ (by simp)), hl]
      exact List.getElem_mem _
    rw [← hl] at hmem
    obtain ⟨hlt, hu⟩ := List.mem_filter.mp hmem
    rw [hl] at hlt hu
    exact ⟨_, List.mem_range.mp hlt, by simpa using hu, by rw [hl]⟩

/-! ## How a handler answers (R409, R477) -/

/-- What Plinth's tables do not fit, or a context without the right, ends the command as PROTECTION, reason 0x52 (R409; log entry 93). -/
theorem plinth_refused (s : State) (j : Job) (known : Bool) (run : State → State) (h : known = false ∨ s.allowed j = false) :
    s.plinth j known run = s.complete j.id stProtection (reason 0x52) := by
  unfold State.plinth
  rw [if_neg (by rcases h with h | h <;> simp [h])]

theorem plinth_ok (s : State) (j : Job) (known : Bool) (run : State → State) (hk : known = true) (ha : s.allowed j = true) :
    s.plinth j known run = run s := by
  rw [hk, plinth_of_allowed _ _ _ ha]

theorem firstBroken_cons_broken {ok : Bool} {index value : Nat} {rules : List FieldRule} (h : ok = false) :
    firstBroken (⟨ok, index, value⟩ :: rules) = some ⟨false, index, value⟩ := by
  subst h
  rfl

theorem firstBroken_append_ok (l rules : List FieldRule) (h : firstBroken l = none) : firstBroken (l ++ rules) = firstBroken rules := by
  rw [firstBroken, List.find?_append, ← firstBroken, h, Option.none_or]
  rfl

theorem firstBroken_append_broken (l rules : List FieldRule) (r : FieldRule) (h : firstBroken l = some r) :
    firstBroken (l ++ rules) = some r := by
  rw [firstBroken, List.find?_append, ← firstBroken, h, Option.some_or]

/-- A command without work items that ends, and whose record is written at once, leaves what records leave. -/
theorem kept_ended (s : State) (c : CmdId) (h : (s.items.all fun w => w.cmd != c) = true) : ((s.complete c).settleJob c).kept = s.kept := by
  rw [kept_settleJob, kept_complete s c _ _ h]

section Contexts
variable {s : State} {c : CmdId} {j : Job}

/-! ## NOP, CONTEXT_CREATE and CONTEXT_DELETE (R343, R353, R362, R364, R409, R444) -/

theorem exec_nop (h : ReadyOp s c j opNop) : exec (.nop c) s = .next ((s.begin c).complete c).settle := by
  refine (cmdRow_ready s c j opNop _ h).trans ?_
  rw [h.1.id_eq]

/-- CONTEXT_CREATE's effect: the context of its descriptor, its counters clear (R362, R444). -/
def State.createContext (s : State) (b : List Byte) : State := (s.clearCounters 2 (field b 0 2)).setContext (field b 0 2) (contextOf b)

theorem exec_contextCreate_checked (h : ReadySub s c j subContextCreate) (hr : firstBroken (contextRules j.block) = none) :
    exec (.contextCreate c) s = .next ((s.begin c).plinth j (s.context? (field j.block 0 2)).isNone fun s =>
      (s.createContext j.block).complete c).settle := by
  refine (subRow_ready s c j subContextCreate _ h).trans ?_
  dsimp only
  rw [checked_ok _ _ _ _ hr, context?_begin, h.1.id_eq]
  rfl

theorem exec_contextCreate (h : ReadySub s c j subContextCreate) (hr : firstBroken (contextRules j.block) = none) (hw : s.allowed j = true)
    (hx : s.context? (field j.block 0 2) = none) :
    exec (.contextCreate c) s = .next (((s.begin c).createContext j.block).complete c).settle := by
  rw [exec_contextCreate_checked h hr, plinth_ok _ _ _ _ (by rw [hx]; rfl) (by rwa [allowed_begin])]

theorem exec_contextCreate_refused (h : ReadySub s c j subContextCreate) (hr : firstBroken (contextRules j.block) = none)
    (hx : s.allowed j = false ∨ (s.context? (field j.block 0 2)).isSome = true) :
    exec (.contextCreate c) s = .next ((s.begin c).complete c stProtection (reason 0x52)).settle := by
  rw [exec_contextCreate_checked h hr, plinth_refused _ _ _ _ (hx.symm.imp (by simp) (by simp)), h.1.id_eq]

/-- CONTEXT_DELETE's effect on a context that is there: it is marked, and the command waits for the others of its context, or ends and the
context goes (R353). -/
def State.deleteContext (s : State) (c : CmdId) (ctx : Nat) (x : Context) : State :=
  let v := s.setContext ctx { x with deleting := true }
  if v.jobs.any (fun k => k.id.ctx == ctx && k.id != c) then v.await c else ((v.complete c).settleJob c).removeContext ctx

theorem deleteContext_idle {ctx : Nat} {x : Context} (h : (s.jobs.any fun k => k.id.ctx == ctx && k.id != c) = false) :
    s.deleteContext c ctx x = (((s.setContext ctx { x with deleting := true }).complete c).settleJob c).removeContext ctx :=
  if_neg (by rw [setContext_jobs, h]; exact Bool.false_ne_true)

theorem deleteContext_busy {ctx : Nat} {x : Context} (h : (s.jobs.any fun k => k.id.ctx == ctx && k.id != c) = true) :
    s.deleteContext c ctx x = (s.setContext ctx { x with deleting := true }).await c := if_pos h

theorem contextDelete_rules {b : List Byte} (hc : field b 0 2 < 2 ^ 12) (hz : zeroRange b 2 6 = true) :
    firstBroken [blockRule b 0 2 (fun v => decide (v < 2 ^ 12)), reservedRule b 2 6] = none :=
  (firstBroken_cons_ok _ _ (decide_eq_true hc)).trans (firstBroken_reserved _ _ _ hz)

theorem exec_contextDelete {x : Context} (h : ReadySub s c j subContextDelete) (hc : field j.block 0 2 < 2 ^ 12)
    (hz : zeroRange j.block 2 6 = true) (hw : s.allowed j = true) (hx : s.context? (field j.block 0 2) = some x) :
    exec (.contextDelete c) s = .next ((s.begin c).deleteContext c (field j.block 0 2) x).settle := by
  refine (subRow_ready s c j subContextDelete _ h).trans ?_
  dsimp only
  rw [checked_ok _ _ _ _ (contextDelete_rules hc hz), plinth_ok _ _ _ _ (by rw [context?_begin, hx]; simp) (by rwa [allowed_begin])]
  simp only [context?_begin, hx]
  rfl

theorem exec_contextDelete_refused (h : ReadySub s c j subContextDelete) (hc : field j.block 0 2 < 2 ^ 12)
    (hz : zeroRange j.block 2 6 = true) (hx : s.allowed j = false ∨ s.context? (field j.block 0 2) = none) :
    exec (.contextDelete c) s = .next ((s.begin c).complete c stProtection (reason 0x52)).settle := by
  obtain ⟨-, -, -, hphase, -⟩ := h.1
  refine (subRow_ready s c j subContextDelete _ h).trans ?_
  dsimp only
  rw [checked_ok _ _ _ _ (contextDelete_rules hc hz), plinth_refused _ _ _ _ ?_, h.1.id_eq]
  exact hx.symm.imp (fun hx => by rw [context?_begin, hx, hphase]; rfl) (by simp)

/-- A context that is gone leaves the contexts and the queues of the others. -/
theorem kept_removeContext (s : State) (ctx : Nat) : (s.removeContext ctx).kept = { s.kept with
    contexts := s.contexts.filter fun e => e.1 ≠ ctx
    rings := s.kept.rings.filter fun e => e.2.1 ≠ ctx
    fabqs := s.fabqs.filter fun q => q.ctx ≠ ctx } := by
  have hrings : s.kept.rings.filter (fun e => e.2.1 ≠ ctx) =
      (s.rings.filter fun e => e.2.ctx ≠ ctx).map fun e => (e.1, e.2.ctx, e.2.queue) := List.filter_map
  rw [hrings]
  rfl

/-- A context that is marked and goes. -/
theorem kept_deleteContext (s : State) (c : CmdId) (ctx : Nat) (x : Context) (hi : (s.items.all fun w => w.cmd != c) = true) :
    ((((s.setContext ctx x).complete c).settleJob c).removeContext ctx).kept = { s.kept with
      contexts := s.contexts.filter fun e => e.1 ≠ ctx
      rings := s.kept.rings.filter fun e => e.2.1 ≠ ctx
      fabqs := s.fabqs.filter fun q => q.ctx ≠ ctx } := by
  have hk := kept_ended (s.setContext ctx x) c hi
  have hc : (((s.setContext ctx x).complete c).settleJob c).contexts = sinsert s.contexts ctx x := congrArg Kept.contexts hk
  have hf : (((s.setContext ctx x).complete c).settleJob c).fabqs = s.fabqs := congrArg Kept.fabqs hk
  rw [kept_removeContext, hk, hc, hf, filter_sinsert]
  rfl

end Contexts

/-- Settles O25: each command by its own row, once the rules of its block hold. -/
theorem contextCommands : Obligations.ContextCommands := by
  intro s c j b u ctx new refused delete
  refine ⟨fun h => endsAs_complete h.1 (exec_nop h) rfl (kept_begin s c), fun h hr hw hx => ?_, fun h hr hx => ?_, ?_, ?_, ?_⟩
  · refine endsAs_complete h.1 (exec_contextCreate h hr hw hx) rfl ?_
    rw [← kept_begin s c, ← begin_contexts s c]
    rfl
  · exact endsAs_complete h.1 (exec_contextCreate_refused h hr hx) rfl (kept_begin s c)
  · rintro ⟨h, hc, hz⟩ hw hx hall
    obtain ⟨x, hx⟩ := Option.isSome_iff_exists.mp hx
    have he := exec_contextDelete h hc hz hw hx
    rw [deleteContext_idle (no_other_begin s c (fun i => i.ctx == ctx) hall)] at he
    refine ⟨_, he, ?_⟩
    rw [kept_settle, kept_deleteContext _ _ _ _ h.1.noItems, kept_begin, begin_contexts, begin_fabqs]
  · rintro x ⟨h, hc, hz⟩ hw hx hany
    have he := exec_contextDelete h hc hz hw hx
    rw [deleteContext_busy ((any_id_begin s c fun i => i.ctx == ctx && i != c).trans hany)] at he
    refine ⟨he, ?_⟩
    rw [kept_settle, State.await, kept_updJob, ← kept_begin s c, ← begin_contexts s c]
    rfl
  · rintro ⟨h, hc, hz⟩ hx
    exact endsAs_complete h.1 (exec_contextDelete_refused h hc hz hx) rfl (kept_begin s c)

end Sys2Proof.Machine

namespace Sys2Proof.Machine

/-! ## QUEUE_CREATE and QUEUE_DELETE (R332, R333, R353) -/

/-- The ring of a descriptor (R333). -/
def ringOf (b : List Byte) : Ring :=
  { ctx := field b 0 2, queue := field b 2 1, log2Entries := field b 4 1, log2Slot := field b 5 1, sqBase := field b 16 8, cqBase := field b 24 8
    firstSeq := field b 8 4 }

/-- While a doorbell index is free, a new ring takes one, which its reply carries (R333, R357). -/
theorem newRing_of_lt (s : State) (c : CmdId) (b : List Byte) (h : s.rings.length < 16384) :
    ∃ i, i < 16384 ∧ i ∉ s.rings.map (·.1) ∧
      s.newRing c b = (({ s.took with rings := sinsert s.rings i (ringOf b) } : State).updJob c fun j => { j with value0 := i }).complete c := by
  obtain ⟨i, hi, hfree, hpick⟩ := freePick_of_lt s (s.rings.map (·.1)) 16384 (by simpa using h)
  refine ⟨i, hi, hfree, ?_⟩
  unfold State.newRing
  rw [hpick]
  rfl

/-- A new fabric queue (R332). -/
def State.newFabq (s : State) (b : List Byte) : State :=
  { s with fabqs := s.fabqs ++ [{ ctx := field b 0 2, queue := field b 2 1, next := field b 8 4 }] }

/-- What QUEUE_CREATE does in a context of at most `most` queues (R332, R333, R353). -/
def State.createQueue (s : State) (c : CmdId) (j : Job) (most : Nat) : State :=
  let b := j.block
  let ring := field b 3 1 == 0
  let count := s.queueCount (field b 0 2)
  if most ≤ count then s.tooMany j 0x8002 (count + 1) most
  else if (if ring then s.rings.length else s.fabqs.length) ≥ 16384 then s.tooMany j 0x8003 16385 16384
  else if ring then s.newRing c b
  else (s.newFabq b).complete c

theorem createQueue_full {s : State} {c : CmdId} {j : Job} {most : Nat} (h : most ≤ s.queueCount (field j.block 0 2)) :
    s.createQueue c j most = s.tooMany j 0x8002 (s.queueCount (field j.block 0 2) + 1) most := if_pos h

theorem createQueue_ring {s : State} {c : CmdId} {j : Job} {most : Nat} (h : s.queueCount (field j.block 0 2) < most)
    (hring : field j.block 3 1 = 0) (hroom : s.rings.length < 16384) : s.createQueue c j most = s.newRing c j.block := by
  unfold State.createQueue
  simp [hring, Nat.not_le.mpr h, Nat.not_le.mpr hroom]

theorem createQueue_fabric {s : State} {c : CmdId} {j : Job} {most : Nat} (h : s.queueCount (field j.block 0 2) < most)
    (hring : field j.block 3 1 = 1) (hroom : s.fabqs.length < 16384) : s.createQueue c j most = (s.newFabq j.block).complete c := by
  unfold State.createQueue
  simp [hring, Nat.not_le.mpr h, Nat.not_le.mpr hroom]

/-- A queue is marked: it takes no new commands (R353). -/
def State.markQueue (s : State) (ctx q : Nat) : State := { s with
  rings := s.rings.map (fun (e : Nat × Ring) => if e.2.ctx == ctx && e.2.queue == q then (e.1, { e.2 with deleting := true }) else e)
  fabqs := s.fabqs.map (fun (x : FabQueue) => if x.ctx == ctx && x.queue == q then { x with deleting := true } else x) }

/-- QUEUE_DELETE's effect: the queue is marked, and the command waits for the others of the queue, or ends and the queue goes (R353). -/
def State.deleteQueue (s : State) (c : CmdId) (ctx q : Nat) : State :=
  let v := s.markQueue ctx q
  if v.jobs.any (fun k => k.id.ctx == ctx && k.id.queue == q && k.id != c) then v.await c else ((v.complete c).settleJob c).removeQueue ctx q

theorem deleteQueue_idle {s : State} {c : CmdId} {ctx q : Nat}
    (h : (s.jobs.any fun k => k.id.ctx == ctx && k.id.queue == q && k.id != c) = false) :
    s.deleteQueue c ctx q = (((s.markQueue ctx q).complete c).settleJob c).removeQueue ctx q :=
  if_neg (by rw [State.markQueue, h]; exact Bool.false_ne_true)

theorem deleteQueue_busy {s : State} {c : CmdId} {ctx q : Nat}
    (h : (s.jobs.any fun k => k.id.ctx == ctx && k.id.queue == q && k.id != c) = true) :
    s.deleteQueue c ctx q = (s.markQueue ctx q).await c := if_pos h

/-- A mark leaves every index, context and queue number. -/
theorem kept_markQueue (s : State) (ctx q : Nat) : (s.markQueue ctx q).kept = { s.kept with
    fabqs := s.fabqs.map fun x => if x.ctx == ctx && x.queue == q then { x with deleting := true } else x } := by
  have hrings : (s.markQueue ctx q).rings.map (fun e => (e.1, e.2.ctx, e.2.queue)) = s.rings.map fun e => (e.1, e.2.ctx, e.2.queue) := by
    unfold State.markQueue
    rw [List.map_map]
    refine List.map_congr_left fun e _ => ?_
    rw [Function.comp_apply]
    split <;> rfl
  unfold State.kept
  rw [hrings]
  rfl

theorem kept_removeQueue (s : State) (ctx q : Nat) : (s.removeQueue ctx q).kept = { s.kept with
    rings := s.kept.rings.filter fun e => !(e.2.1 == ctx && e.2.2 == q)
    fabqs := s.fabqs.filter fun x => !(x.ctx == ctx && x.queue == q) } := by
  have hrings : s.kept.rings.filter (fun e => !(e.2.1 == ctx && e.2.2 == q)) =
      (s.rings.filter fun e => !(e.2.ctx == ctx && e.2.queue == q)).map fun e => (e.1, e.2.ctx, e.2.queue) := List.filter_map
  rw [hrings]
  rfl

/-- What is marked goes as it would have gone without its mark. -/
theorem filter_map_marked {α : Type} (l : List α) (p : α → Bool) (f : α → α) (hf : ∀ a, p (f a) = p a) :
    (l.map fun a => if p a then f a else a).filter (fun a => !p a) = l.filter fun a => !p a := by
  induction l with
  | nil => rfl
  | cons a l ih =>
    rw [List.map_cons, List.filter_cons, List.filter_cons, ih]
    cases h : p a
    · simp [h]
    · simp [h, hf]

/-- A queue that is marked and goes. -/
theorem kept_deleteQueue (s : State) (c : CmdId) (ctx q : Nat) (hi : (s.items.all fun w => w.cmd != c) = true) :
    ((((s.markQueue ctx q).complete c).settleJob c).removeQueue ctx q).kept = { s.kept with
      rings := s.kept.rings.filter fun e => !(e.2.1 == ctx && e.2.2 == q)
      fabqs := s.fabqs.filter fun x => !(x.ctx == ctx && x.queue == q) } := by
  have hk := (kept_ended (s.markQueue ctx q) c hi).trans (kept_markQueue s ctx q)
  have hf : (((s.markQueue ctx q).complete c).settleJob c).fabqs =
      s.fabqs.map fun x => if x.ctx == ctx && x.queue == q then { x with deleting := true } else x := congrArg Kept.fabqs hk
  rw [kept_removeQueue, hk, hf,
    filter_map_marked s.fabqs (fun x => x.ctx == ctx && x.queue == q) (fun x => { x with deleting := true }) fun _ => rfl]

section Queues
variable {s : State} {c : CmdId} {j : Job}

theorem exec_queueCreate {x : Context} (h : ReadySub s c j subQueueCreate) (hr : firstBroken (queueRules j.block) = none)
    (hq : (s.begin c).queueExists (field j.block 0 2) (field j.block 2 1) = false) (hx : s.context? (field j.block 0 2) = some x) :
    exec (.queueCreate c) s = .next ((s.begin c).createQueue c j x.maxQueues).settle := by
  refine (subRow_ready s c j subQueueCreate _ h).trans ?_
  dsimp only
  rw [context?_begin, hx, hq, checked_ok _ _ _ _ (firstBroken_append_ok _ _ hr), context?_begin, hx]
  rfl

theorem exec_queueDelete (h : ReadySub s c j subQueueDelete) (hc : field j.block 0 2 < 2 ^ 12) (hq : field j.block 2 1 < 64)
    (hz : zeroRange j.block 3 5 = true) :
    exec (.queueDelete c) s = .next ((s.begin c).deleteQueue c (field j.block 0 2) (field j.block 2 1)).settle := by
  have hrules : firstBroken [blockRule j.block 0 2 (fun v => decide (v < 2 ^ 12)), blockRule j.block 2 1 (fun v => decide (v < 64)),
      reservedRule j.block 3 5] = none := by
    rw [firstBroken_cons_ok _ _ (decide_eq_true hc), firstBroken_cons_ok _ _ (decide_eq_true hq), firstBroken_reserved _ _ _ hz]
  refine (subRow_ready s c j subQueueDelete _ h).trans ?_
  dsimp only
  rw [checked_ok _ _ _ _ hrules]
  rfl

end Queues

/-- Settles O26: QUEUE_CREATE by the room for its queue, and QUEUE_DELETE by whether its queue has other commands. -/
theorem queueCommands : Obligations.QueueCommands := by
  intro s c j b ctx q u ring create delete mine
  refine ⟨?_, ?_, ?_, ?_, ?_⟩
  · rintro x ⟨h, hr, hq⟩ hx hm hkind hroom
    have he := exec_queueCreate h hr hq hx
    rw [createQueue_fabric hm hkind (by rwa [begin_fabqs])] at he
    refine endsAs_complete h.1 he rfl ?_
    rw [← kept_begin s c, ← begin_fabqs s c]
    rfl
  · rintro x ⟨h, hr, hq⟩ hx hm hkind hroom
    obtain ⟨i, hi, hfree, hnew⟩ := newRing_of_lt u c b hroom
    have he := exec_queueCreate h hr hq hx
    rw [createQueue_ring hm hkind hroom, hnew] at he
    refine ⟨i, hi, hfree, endsAs_complete h.1 he rfl ?_⟩
    rw [← kept_begin s c]
    rfl
  · rintro x ⟨h, hr, hq⟩ hx hm
    have he := exec_queueCreate h hr hq hx
    rw [createQueue_full hm, State.tooMany, h.1.id_eq] at he
    exact endsAs_complete h.1 he rfl (kept_begin s c)
  · rintro ⟨h, hc, hq, hz⟩ hall
    have he := exec_queueDelete h hc hq hz
    rw [deleteQueue_idle (no_other_begin s c (fun i => i.ctx == ctx && i.queue == q) hall)] at he
    refine ⟨_, he, ?_⟩
    rw [kept_settle, kept_deleteQueue _ _ _ _ h.1.noItems, kept_begin, begin_fabqs]
  · rintro ⟨h, hc, hq, hz⟩ hany
    have he := exec_queueDelete h hc hq hz
    rw [deleteQueue_busy ((any_id_begin s c fun i => i.ctx == ctx && i.queue == q && i != c).trans hany)] at he
    refine ⟨he, ?_⟩
    rw [kept_settle, State.await, kept_updJob]
    exact (kept_markQueue u ctx q).trans (by rw [kept_begin, begin_fabqs])

end Sys2Proof.Machine

namespace Sys2Proof.Machine

/-! ## Commands whose block breaks a rule (R477) -/

section Refusals
variable {s : State} {c : CmdId} {j : Job} {r : FieldRule}

/-- The row of a CONFIG sub-op whose handler checks rules first. -/
theorem subRow_broken {sub : Nat} (rules : Job → State → List FieldRule) (run : Job → State → State → State) (h : ReadySub s c j sub)
    (hr : firstBroken (rules j (s.begin c)) = some r) :
    subRow s c sub (fun j s => s.checked j (rules j s) (run j s)) = .next ((s.begin c).malformed j 0x47 r.index r.value).settle := by
  rw [subRow_ready s c j sub _ h, checked_broken _ _ _ _ r hr]

/-- The row of an opcode whose handler checks rules first. -/
theorem cmdRow_broken {op : Nat} (rules : Job → State → List FieldRule) (run : Job → State → State → State) (h : ReadyOp s c j op)
    (hr : firstBroken (rules j (s.begin c)) = some r) :
    cmdRow s c op (fun j s => s.checked j (rules j s) (run j s)) = .next ((s.begin c).malformed j 0x47 r.index r.value).settle := by
  rw [cmdRow_ready s c j op _ h, checked_broken _ _ _ _ r hr]

/-- A command refused by its handler, its detail written out. -/
theorem endsAs_broken {i : Instr} (h : Ready s c j) (he : exec i s = .next ((s.begin c).malformed j 0x47 r.index r.value).settle) :
    EndsAs i s ((s.begin c).complete c stMalformed
      { reason := 0x47, object := pktOpcode j.pkt + (if pktOpcode j.pkt = opConfig then 256 * (pktOparam j.pkt % 256) else 0)
        index := r.index, value := r.value }) s.kept := by
  have hend := endsAs_malformed h he
  rwa [State.malformed, h.id_eq] at hend

end Refusals

/-- Settles O29: each row as one whose handler checks rules first, and the first rule broken. -/
theorem handlersRefuse : Obligations.HandlersRefuse := by
  intro s c j r bad b
  refine ⟨fun h hr => ?_, fun h hv hr => ?_, fun h hr => ?_, fun h hq hx hr => ?_, fun h hv hr => ?_, fun h hv hr => ?_, fun h hv hr => ?_,
    fun h hr => ?_, fun h hr => ?_⟩
  · exact endsAs_broken h.1 (subRow_broken _ _ h hr)
  · exact endsAs_broken h.1 (subRow_broken _ _ h (hr ▸ firstBroken_cons_broken (decide_eq_false (Nat.not_lt.mpr hv))))
  · exact endsAs_broken h.1 (subRow_broken _ _ h (firstBroken_append_broken _ _ r hr))
  · refine endsAs_broken h.1 (subRow_broken _ _ h ((firstBroken_append_ok _ _ hq).trans (hr ▸ firstBroken_cons_broken ?_)))
    rw [context?_begin, hx]
    rfl
  · exact endsAs_broken h.1 (subRow_broken _ _ h (hr ▸ firstBroken_cons_broken (decide_eq_false (Nat.not_le.mpr hv))))
  · exact endsAs_broken h.1 (subRow_broken _ _ h (hr ▸ firstBroken_cons_broken (decide_eq_false (Nat.not_le.mpr hv))))
  · exact endsAs_broken h.1 (subRow_broken _ _ h (hr ▸ firstBroken_cons_broken (decide_eq_false (Nat.not_lt.mpr hv))))
  · exact endsAs_broken h.1 (cmdRow_broken _ _ h hr)
  · exact endsAs_broken h.1 (cmdRow_broken _ _ h hr)

end Sys2Proof.Machine

namespace Sys2Proof.Machine

/-! ## Doorbells (R335, R336) -/

theorem ring?_updRing (s : State) (i : Nat) (f : Ring → Ring) : (s.updRing i f).ring? i = (s.ring? i).map f := kget_map_key s.rings i f

/-- Whether the counts of a doorbell keep R335: no more entries are asked for, or in use, than the ring has. -/
def Ring.countsOk (q : Ring) (tail chead : Nat) : Prop :=
  2 ^ q.log2Entries = 2 ^ 16 ∨
    ((tail + 2 ^ 16 - q.fetched % 2 ^ 16) % 2 ^ 16 < 2 ^ q.log2Entries ∧ (tail + 2 ^ 16 - chead) % 2 ^ 16 < 2 ^ q.log2Entries)

section Doorbell
variable {s : State} {q : Ring} {i tail chead : Nat} (hq : s.ring? i = some q)
include hq

theorem doorbell_taken (he : q.err = false) (hok : q.countsOk tail chead) :
    s.doorbell i tail chead = s.updRing i fun q => { q with tail := tail, chead := chead } := by
  unfold State.doorbell
  rw [hq]
  dsimp only
  rw [if_neg (by simp [he]), if_neg]
  unfold Ring.countsOk at hok
  simp only [Bool.and_eq_true, Bool.or_eq_true, decide_eq_true_eq]
  omega

theorem doorbell_broken (hl : q.log2Entries ≤ 16) (he : q.err = false) (hok : ¬ q.countsOk tail chead) :
    s.doorbell i tail chead = s.queueError i q.ctx := by
  have hn : 2 ^ q.log2Entries ≤ 2 ^ 16 := Nat.pow_le_pow_right (by decide) hl
  unfold State.doorbell
  rw [hq]
  dsimp only
  rw [if_neg (by simp [he]), if_pos]
  unfold Ring.countsOk at hok
  simp only [Bool.and_eq_true, Bool.or_eq_true, decide_eq_true_eq]
  omega

theorem doorbell_inError (he : q.err = true) : s.doorbell i tail chead = s := by
  unfold State.doorbell
  rw [hq]
  exact if_pos he

/-- A doorbell of the ring's writer, or of the first source that rings it (R335; log entry 91). -/
theorem ringDoorbell_of_writer {r : Requester} (hw : q.writer = none ∨ q.writer = some r) :
    s.ringDoorbell r i tail chead = (s.updRing i fun q => { q with writer := some r }).doorbell i tail chead := by
  unfold State.ringDoorbell
  rw [hq]
  exact if_pos hw

end Doorbell

theorem exec_cqDb_eq (r : Requester) (i : Fin 16384) (tail chead : BitVec 16) (s : State) :
    exec (.cqDb r i tail chead) s = execCqDb r i tail chead s := rfl

theorem exec_cqDb {s : State} {r : Requester} {i : Fin 16384} {tail chead : BitVec 16} {q : Ring} (h : Written s (doorbellOff i.val) r)
    (hq : s.ring? i.val = some q) (hw : q.writer = none ∨ q.writer = some r) :
    exec (.cqDb r i tail chead) s =
      .next ((s.updRing i.val fun q => { q with writer := some r }).doorbell i.val tail.toNat chead.toNat).settle := by
  rw [exec_cqDb_eq, execCqDb, actReg_written s _ r _ h, ringDoorbell_of_writer hq hw]

/-! ## PACKET_FETCHED (R319, R334, R336, R363) -/

theorem exec_packetFetched_eq (i : Fin 16384) (s : State) : exec (.packetFetched i) s = execPacketFetched i s := rfl

/-- A slot of a ring that is fetched now. -/
theorem exec_packetFetched {s : State} {i : Fin 16384} {q : Ring} (ha : s.alive = true) (hr : s.isReady = true) (hq : s.ring? i.val = some q)
    (hf : q.canFetch = true) (hw : s.faultWait (.fetchQueue i.val) = false) :
    exec (.packetFetched i) s = .next (s.fetchPacket i.val q).settle := by
  rw [exec_packetFetched_eq, execPacketFetched, actSWhen_of s _ _ ha hr, hq]
  dsimp only
  rw [if_pos (by simp [hf, hw])]

section Fetch
variable {s t : State} {i : Nat} {q : Ring} {r : Rd}
  (hs : s.readSlot i q (q.sqBase + (q.fetched % 2 ^ q.log2Entries) * 2 ^ q.log2Slot) (2 ^ q.log2Slot) = (t, r))
include hs

theorem fetchPacket_ok {bs : List Byte} {x : Context} (hr : r = .ok bs) (hl : pktPlen bs ≤ 2 ^ q.log2Slot - 64)
    (hx : t.context? q.ctx = some x) :
    let p := bs.take (64 + pktPlen bs)
    s.fetchPacket i q = (t.updRing i fun q => { q with fetched := q.fetched + 1 }).accept ⟨q.ctx, q.queue, pktSeq p⟩ p (.ring i)
      (pktCtx p == q.ctx && pktQueue p == q.queue && !q.deleting && !x.deleting) := by
  have hx' : (t.updRing i fun q => { q with fetched := q.fetched + 1 }).context? q.ctx = some x := hx
  unfold State.fetchPacket
  simp only [hs, hr, if_neg (Nat.not_lt.mpr hl), hx']

theorem fetchPacket_tooLong {bs : List Byte} (hr : r = .ok bs) (hl : 2 ^ q.log2Slot - 64 < pktPlen bs) :
    s.fetchPacket i q = t.queueError i q.ctx := by
  unfold State.fetchPacket
  simp only [hs, hr, if_pos hl]

theorem fetchPacket_unreadable (hr : (∃ a, r = .bad a) ∨ ∃ st d, r = .stop st d) : s.fetchPacket i q = t.queueError i q.ctx := by
  unfold State.fetchPacket
  rcases hr with ⟨a, hr⟩ | ⟨st, d, hr⟩
  · simp only [hs, hr]
  · simp only [hs, hr]

theorem fetchPacket_wait (hr : r = .wait) : s.fetchPacket i q = t := by
  unfold State.fetchPacket
  simp only [hs, hr]

end Fetch

/-- Settles O30: a doorbell by the state and the counts of its ring, a fetch by what its slot gives. -/
theorem packetsReachTheParser : Obligations.PacketsReachTheParser := by
  refine ⟨fun s r i tail chead q => ?_, fun s t i q r ha hready hq hf hw hs => ?_⟩
  · intro n f ok u h hq hw hl
    have he := exec_cqDb (tail := tail) (chead := chead) h hq hw
    have hu : u.ring? i.val = some { q with writer := some r } := by rw [ring?_updRing, hq]; rfl
    refine ⟨fun herr hok => ?_, fun herr hok => ?_, fun herr => ?_⟩
    · rw [he, doorbell_taken hu herr hok]
    · rw [he, doorbell_broken hu hl herr hok]
    · rw [he, doorbell_inError hu herr]
  · rw [exec_packetFetched ha hready hq hf hw]
    refine ⟨fun bs x hr hl hx => ?_, fun bs hr hl => ?_, fun a hr => ?_, fun st d hr => ?_, fun hr => ?_⟩
    · rw [fetchPacket_ok hs hr hl hx]
    · rw [fetchPacket_tooLong hs hr hl]
    · rw [fetchPacket_unreadable hs (.inl ⟨a, hr⟩)]
    · rw [fetchPacket_unreadable hs (.inr ⟨st, d, hr⟩)]
    · rw [fetchPacket_wait hs hr]

end Sys2Proof.Machine

namespace Sys2Proof.Machine

/-! ## LOAD_PLAN (R357, R365, R369) -/

/-- What LOAD_PLAN does with an image that it has read: it is refused, or admitted (R365, R369). -/
def State.loadImage (s : State) (c : CmdId) (j : Job) (im : List Byte) : State :=
  match sectionCheck im with
  | some r => s.complete c r.1 r.2
  | none =>
    match s.admitPlan (planImg im c.ctx) with
    | (some r, _) => s.complete c r.1 r.2
    | (none, ws) => s.loadAdmitted j (planImg im c.ctx) ws

/-- What LOAD_PLAN does with a header that it has read: it is refused, or the image is read whole (R365). -/
def State.loadHeader (s : State) (c : CmdId) (j : Job) (h : List Byte) : State :=
  match headerCheck h (pktHandle j.pkt) (inlineLen (pktD0 j.pkt)) with
  | some r => s.complete c r.1 r.2
  | none =>
    match s.readOperand c j.pkt (pktD0 j.pkt) 0 (field h 4 4) with
    | (s, .ok im) => s.loadImage c j im
    | (s, r) => s.planRead c r

/-- The reply of an admitted plan: its handle, and its widest window bound (R357). -/
def State.replyPlan (s : State) (c : CmdId) (p : PlanImg) (ws : List (Nat × Nat)) : State :=
  (s.updJob c fun j => { j with value0 := p.plan, value1 := (ws.map (·.2)).foldl Nat.max 0 }).complete c

section Load
variable {s t : State} {c : CmdId} {j : Job} {h im : List Byte} {ws : List (Nat × Nat)}

theorem exec_loadPlan (hj : ReadyOp s c j opLoadPlan)
    (hfirst : ((s.begin c).jobs.any fun k => pktOpcode k.pkt == opLoadPlan && k.parsed && k.phase != .finishing && decide (k.order < j.order)) = false)
    (hread : (s.begin c).readOperand c j.pkt (pktD0 j.pkt) 0 64 = (t, .ok h)) :
    exec (.loadPlan c) s = .next (t.loadHeader c j h).settle := by
  refine (cmdRow_ready s c j opLoadPlan _ hj).trans ?_
  dsimp only
  rw [hfirst, if_neg Bool.false_ne_true, hread]
  rfl

theorem loadHeader_refused {r : Refused} (hc : headerCheck h (pktHandle j.pkt) (inlineLen (pktD0 j.pkt)) = some r) :
    s.loadHeader c j h = s.complete c r.1 r.2 := by
  unfold State.loadHeader
  rw [hc]

theorem loadHeader_read (hc : headerCheck h (pktHandle j.pkt) (inlineLen (pktD0 j.pkt)) = none)
    (hread : s.readOperand c j.pkt (pktD0 j.pkt) 0 (field h 4 4) = (t, .ok im)) : s.loadHeader c j h = t.loadImage c j im := by
  unfold State.loadHeader
  rw [hc]
  dsimp only
  rw [hread]

theorem loadImage_broken {r : Refused} (hc : sectionCheck im = some r) : s.loadImage c j im = s.complete c r.1 r.2 := by
  unfold State.loadImage
  rw [hc]

theorem loadImage_refused {r : Refused} (hc : sectionCheck im = none) (ha : s.admitPlan (planImg im c.ctx) = (some r, ws)) :
    s.loadImage c j im = s.complete c r.1 r.2 := by
  unfold State.loadImage
  rw [hc]
  dsimp only
  rw [ha]

theorem loadImage_admitted (hc : sectionCheck im = none) (ha : s.admitPlan (planImg im c.ctx) = (none, ws)) :
    s.loadImage c j im = s.loadAdmitted j (planImg im c.ctx) ws := by
  unfold State.loadImage
  rw [hc]
  dsimp only
  rw [ha]

theorem loadAdmitted_checkOnly (p : PlanImg) (hid : j.id = c) (hf : flCheckOnly j.pkt = true) :
    s.loadAdmitted j p ws = s.replyPlan c p ws := by
  unfold State.loadAdmitted
  rw [hid]
  exact if_pos hf

theorem loadAdmitted_installed (p : PlanImg) (hid : j.id = c) (hf : flCheckOnly j.pkt = false)
    (hi : ((installPlan c p ws).whole s).2 = .ok ()) : s.loadAdmitted j p ws = ((installPlan c p ws).whole s).1.replyPlan c p ws := by
  have hw : (installPlan c p ws).whole s = (((installPlan c p ws).whole s).1, .ok ()) := Prod.ext rfl hi
  unfold State.loadAdmitted
  rw [hid]
  dsimp only
  rw [if_neg (by rw [hf]; exact Bool.false_ne_true), hw]
  rfl

end Load

/-! ## UNLOAD_PLAN (R74, R91, R370) -/

/-- Registers that are written one after another: the registers alone change. -/
theorem foldN_setReg (n : Nat) (s : State) (off : Nat → Nat) (v : BitVec 32) :
    ∃ regs, (foldN n s fun s d => s.setReg (off d) v) = { s with regs := regs } := by
  induction n with
  | zero => exact ⟨s.regs, rfl⟩
  | succ n ih =>
    obtain ⟨regs, h⟩ := ih
    exact ⟨_, by rw [foldN, h]; rfl⟩

/-- The regulators of partitions that are cleared: the registers alone change. -/
theorem foldl_clearRegu (parts : List Nat) (s : State) : ∃ regs, parts.foldl State.clearRegu s = { s with regs := regs } := by
  induction parts generalizing s with
  | nil => exact ⟨s.regs, rfl⟩
  | cons k parts ih =>
    obtain ⟨regs, h⟩ := foldN_setReg 4 s (fun d => 0x38000 + 16 * k + 4 * d) 0
    rw [List.foldl_cons, State.clearRegu, h]
    exact ih _

/-- The bases of weight sets that are dropped: the arrays alone change. -/
theorem foldl_dropBasis (hs : List Nat) (s : State) : ∃ arrays, hs.foldl State.dropBasis s = { s with arrays := arrays } := by
  induction hs generalizing s with
  | nil => exact ⟨s.arrays, rfl⟩
  | cons k hs ih => exact ih _

/-- A plan that is removed: registers and arrays apart, the state loses the objects that the plan defined (R370). -/
theorem removePlan_eq (s : State) (p : Plan) : ∃ regs arrays, s.removePlan p = { s with
    regs := regs, arrays := arrays
    plans := s.plans.filter fun q => q.handle ≠ p.handle
    tables := s.tables.filter fun e => !p.tables.contains e.1
    tsets := (s.tsets.filter fun e => !p.tsets.contains e.1).map fun (e : Nat × TableSet) =>
      (e.1, { e.2 with readers := e.2.readers.filter fun r => r.2.2 ≠ p.handle })
    images := s.images.filter fun e => !p.images.contains e.1
    wsets := s.wsets.filter fun e => !p.wsets.contains e.1
    poisoned := s.poisoned.filter fun r => !p.tables.contains r.table
    sketchBuf := s.sketchBuf.filter fun e => !p.tables.contains e.table
    fab := { s.fab with shards := s.fab.shards.filter fun e => !p.tsets.contains e.1 } } := by
  obtain ⟨regs, hr⟩ := foldl_clearRegu (p.resv.map (·.part)) s
  obtain ⟨arrays, ha⟩ := foldl_dropBasis p.wsets { s with regs := regs }
  refine ⟨regs, arrays, ?_⟩
  unfold State.removePlan
  dsimp only
  rw [hr, ha]

/-- No set of a plan is left once it is removed. -/
theorem not_contains_of_mem_removePlan (s : State) (p : Plan) (e : Nat × TableSet) (he : e ∈ (s.removePlan p).tsets) :
    p.tsets.contains e.1 = false := by
  obtain ⟨regs, arrays, h⟩ := removePlan_eq s p
  rw [h] at he
  obtain ⟨e', he', rfl⟩ := List.mem_map.mp he
  simpa using (List.mem_filter.mp he').2

section Unload
variable {s v : State} {c : CmdId} {j : Job} {p : Plan} (h : ReadyOp s c j opUnloadPlan)
include h

theorem exec_unloadPlan_none (hp : (s.begin c).plan? (pktHandle j.pkt) = none) : exec (.unloadPlan c) s = .next ((s.begin c).complete c).settle := by
  refine (cmdRow_ready s c j opUnloadPlan _ h).trans ?_
  rw [hp]

variable (hp : (s.begin c).plan? (pktHandle j.pkt) = some p)
include hp

/-- While a command names the plan, or a set of it is neither OPEN nor TORN, UNLOAD_PLAN waits (R91, R197, R370). -/
theorem exec_unloadPlan_inUse
    (hu : ((s.begin c).jobs.any fun k => decide (k.id ≠ c) && (s.begin c).usesPlan p k) = true ∨ (s.begin c).setsIdle p = false) :
    exec (.unloadPlan c) s = .next ((s.begin c).await c).settle := by
  refine (cmdRow_ready s c j opUnloadPlan _ h).trans ?_
  rw [hp]
  dsimp only
  rw [if_pos (by rcases hu with hu | hu <;> simp only [hu, Bool.not_false, Bool.true_or, Bool.or_true])]

variable (hu : ((s.begin c).jobs.any fun k => decide (k.id ≠ c) && (s.begin c).usesPlan p k) = false) (hi : (s.begin c).setsIdle p = true)
include hu hi

/-- A plan not in use goes once its sketches are whole in memory (R74, R370). -/
theorem exec_unloadPlan_idle {done : Bool} (hf : (s.begin c).flushPlan c p = (v, done)) :
    exec (.unloadPlan c) s = .next (if done then (v.removePlan p).complete c else v.await c).settle := by
  refine (cmdRow_ready s c j opUnloadPlan _ h).trans ?_
  rw [hp]
  dsimp only
  rw [if_neg (by simp only [hu, hi, Bool.not_true, Bool.or_false]; exact Bool.false_ne_true), hf]
  cases done <;> rfl

end Unload

/-- Settles O31: LOAD_PLAN by what its header, its sections and admission say, UNLOAD_PLAN by whether its plan is in use. -/
theorem plansLoadAndUnload : Obligations.PlansLoadAndUnload := by
  refine ⟨fun s c j h im ws hj => ?_, fun s c j hj => ?_⟩
  · intro u a b p reply hfirst ha
    have he : exec (.loadPlan c) s = .next (a.1.loadHeader c j h).settle := exec_loadPlan hj hfirst (Prod.ext rfl ha)
    refine ⟨fun r hc => ⟨by rw [he, loadHeader_refused hc], rfl⟩, fun hc hb => ?_⟩
    rw [loadHeader_read hc (Prod.ext rfl hb : b = (b.1, .ok im))] at he
    refine ⟨fun r hr => ?_, fun hs r hr => ?_, fun hs hw hf => ?_, fun hs hw hf hi => ?_⟩
    · rw [he, loadImage_broken hr]
    · rw [he, loadImage_refused hs hr]
    · rw [he, loadImage_admitted hs hw, loadAdmitted_checkOnly _ hj.1.id_eq hf]
      rfl
    · rw [he, loadImage_admitted hs hw, loadAdmitted_installed _ hj.1.id_eq hf hi]
      rfl
  · intro u
    refine ⟨fun hp => endsAs_complete hj.1 (exec_unloadPlan_none hj hp) rfl (kept_begin s c), fun p v hp hu hi => ⟨fun hf => ?_, fun hf => ?_⟩,
      fun p hp hu => endsAs_await (exec_unloadPlan_inUse hj hp (.inl hu)), fun p hp hi => endsAs_await (exec_unloadPlan_inUse hj hp (.inr hi))⟩
    · have he := exec_unloadPlan_idle hj hp hu hi hf
      rw [if_pos rfl] at he
      obtain ⟨regs, arrays, hrem⟩ := removePlan_eq v p
      have hsets := not_contains_of_mem_removePlan v p
      refine ⟨he, ?_⟩
      rw [hrem] at hsets ⊢
      exact ⟨rfl, rfl, rfl, rfl, hsets, rfl, rfl, rfl⟩
    · have he := exec_unloadPlan_idle hj hp hu hi hf
      rwa [if_neg Bool.false_ne_true] at he

end Sys2Proof.Machine

namespace Sys2Proof.Machine

/-! ## JOIN (R390, R391, R406, R409) -/

theorem kget_sinsert_same {α : Type} (m : Sparse α) (k : Nat) (v : α) : kget (sinsert m k v) k = some v := by
  induction m with
  | nil => simp [sinsert, kget]
  | cons e m ih =>
    rw [sinsert]
    split
    · simp [kget]
    · split
      · simp [kget]
      · next h => rw [kget, if_neg (Ne.symm h), ih]

/-- The LOSS frames that are built stand in the ports alone (R391). -/
theorem buildLoss_keeps {β : Type} (q : State → β) (hq : ∀ s p x, q (State.setFport s p x) = q s) (s : State) : q s.buildLoss = q s :=
  foldl_keeps q _ (fun s p => hq s p _) allPorts s

/-- FB_TIMERS and the engine's own state once it has joined, before its LOSS frames are built (R391, R406). -/
def State.asServing (s : State) (b : List Byte) : State :=
  let u := s.setReg 0x80008 (BitVec.ofNat 32 (field b 4 2 * 2 ^ 16 + field b 6 2))
  { u with fab := { u.fab with mgr := field b 0 2, st := .serving, hasJoined := true, rejoin := false } }

/-- CTX 4,095 as JOIN leaves it: open to the manager alone (R406). -/
def Context.ofManager (x : Context) (mgr : Nat) : Context := { x with srcMask := 0x3FFF, srcNode := mgr }

section Join
variable (s : State) (b : List Byte)

theorem joinSystem_eq : s.joinSystem b = match (s.asServing b).buildLoss.context? 4095 with
    | some x => (s.asServing b).buildLoss.setContext 4095 (x.ofManager (field b 0 2))
    | none => (s.asServing b).buildLoss := rfl

/-- Whatever does not depend on the ports and the contexts is set by `State.asServing` alone. -/
theorem joinSystem_keeps {β : Type} (q : State → β) (hp : ∀ s p x, q (State.setFport s p x) = q s)
    (hc : ∀ s n x, q (State.setContext s n x) = q s) : q (s.joinSystem b) = q (s.asServing b) := by
  rw [joinSystem_eq]
  split
  · rw [hc, buildLoss_keeps q hp]
  · rw [buildLoss_keeps q hp]

theorem context?_joinSystem : (s.joinSystem b).context? 4095 = (s.context? 4095).map (·.ofManager (field b 0 2)) := by
  have hx : (s.asServing b).buildLoss.context? 4095 = s.context? 4095 := buildLoss_keeps (·.context? 4095) (fun _ _ _ => rfl) _
  rw [joinSystem_eq, hx]
  cases hs : s.context? 4095 with
  | some x => exact kget_sinsert_same _ _ _
  | none => exact hx.trans hs

end Join

section JoinRow
variable {s : State} {c : CmdId} {j : Job} (h : ReadyOp s c j opJoin) (hr : firstBroken (joinRules j.block) = none)
include h hr

/-- JOIN of a context that has lost its right is refused (R409). -/
theorem exec_join_denied (ha : s.allowed j = false) : exec (.join c) s = .next ((s.begin c).complete c stProtection (reason 0x52)).settle := by
  refine (cmdRow_ready s c j opJoin _ h).trans ?_
  dsimp only
  rw [checked_ok _ _ _ _ hr, plinth_refused _ _ _ _ (.inr ((allowed_begin s c j).trans ha)), h.1.id_eq]

/-- JOIN that has its right: refused without a node, without a route to the manager, or when serving (R391). -/
theorem exec_join_allowed (ha : s.allowed j = true) :
    let b := j.block
    let u := s.begin c
    exec (.join c) s = .next (if u.fab.assigned = false ∨ u.fab.st = .serving ∨ u.hasRoute (field b 0 2) = false
      then u.malformed j 0x45 0x8000 (field b 0 2) else (u.joinSystem b).complete c).settle := by
  refine (cmdRow_ready s c j opJoin _ h).trans ?_
  dsimp only
  rw [checked_ok _ _ _ _ hr, plinth_ok _ _ _ _ rfl ((allowed_begin s c j).trans ha)]
  rfl

end JoinRow

/-! ## DRAIN (R392) -/

/-- The row of an opcode whose command waits, and not for a fault, goes on with it (R319). -/
theorem cmdRow_waiting {s : State} {c : CmdId} {j : Job} {op : Nat} (run : Job → State → State) (ha : s.alive = true) (hj : s.job? c = some j)
    (ho : pktOpcode j.pkt = op) (hp : j.parsed = true) (hph : j.phase = .waiting) (hf : s.faultWait (.job c) = false) :
    cmdRow s c op run = .next (run j s).settle := by
  rw [cmdRow, actS_alive _ _ ha, State.runCmd]
  simp [hf, parse_parsed s c j hj hp, hj, hp, hph, Job.isOp, ho]

/-- The state of an engine that begins to drain (R392). -/
def State.asDraining (s : State) (c : CmdId) (ms : Nat) : State :=
  { s with fab := { s.fab with
    st := .draining, drain := some c, drainFor := (s.jobs.map (·.id)).filter (· ≠ c), drainAt := s.time + ms * 1000000
    drainLeft := s.fab.shards.map (·.1) } }

theorem exec_drain_starts {s : State} {c : CmdId} {j : Job} (h : ReadyOp s c j opDrain) (h1 : 1 ≤ field j.block 0 2)
    (hz : zeroRange j.block 2 14 = true) :
    exec (.drain c) s = .next (((s.begin c).asDraining c (field j.block 0 2)).await c).settle := by
  obtain ⟨-, -, -, hph, -, -, -⟩ := h.1
  refine (cmdRow_ready s c j opDrain _ h).trans ?_
  rw [if_neg (by rw [hph]; decide), State.drainStart]
  dsimp only
  rw [checked_ok _ _ _ _ ((firstBroken_cons_ok _ _ (by simpa [blockRule] using h1)).trans (firstBroken_reserved _ _ _ hz)), h.1.id_eq]
  rfl

section Drain
variable {s : State} {c : CmdId} {j : Job}

theorem exec_drain_goes_on (ha : s.alive = true) (hj : s.job? c = some j) (ho : pktOpcode j.pkt = opDrain) (hp : j.parsed = true)
    (hph : j.phase = .waiting) (hf : s.faultWait (.job c) = false) : exec (.drain c) s = .next (s.drainGo j).settle := by
  refine (cmdRow_waiting _ ha hj ho hp hph hf).trans ?_
  rw [if_pos hph]

theorem drainGo_busy (h : (s.jobs.any fun k => s.fab.drainFor.contains k.id) = true) : s.drainGo j = s := by
  rw [State.drainGo, if_pos h]

/-- With no command in progress, and every image sent and acknowledged, the engine is DRAINED and the command ends (R392). -/
theorem drainGo_done (h : (s.jobs.any fun k => s.fab.drainFor.contains k.id) = false) (ho : s.fab.drainOut = []) (ha : j.acks = 0)
    (hc : s.fab.drainCur = none) (hl : s.fab.drainLeft = []) :
    s.drainGo j = ({ s with fab := { s.fab with st := .drained, drain := none } } : State).complete j.id := by
  rw [State.drainGo, if_neg (by rw [h]; exact Bool.false_ne_true), if_neg (not_not.mpr ho), if_neg (not_not.mpr ha), hc]
  dsimp only
  rw [if_pos hl]

theorem exec_drainDeadline (s : State) : exec .drainDeadline s = execDrainDeadline s := rfl

/-- A command that the deadline finds still running ends (R392). -/
def State.endForDrain (s : State) (k : Job) : State := (s.endHold k true).fail k.id stAborted

theorem exec_drainDeadline_due (ha : s.alive = true) (hd : s.fab.drain.isSome = true) (ht : s.fab.drainAt ≤ s.time) :
    exec .drainDeadline s = .next (s.drainWaits.foldl State.endForDrain s).settle := by
  rw [exec_drainDeadline, execDrainDeadline, actSWhen_of _ _ _ ha (by simp [hd, ht])]
  rfl

theorem exec_drainDeadline_early (h : s.fab.drain = none ∨ s.time < s.fab.drainAt) : exec .drainDeadline s = .next s := by
  rw [exec_drainDeadline, execDrainDeadline]
  exact actSWhen_of_not s _ _ (by rcases h with h | h <;> simp [h])

end Drain

/-- Settles O54: JOIN by its right and by the engine's state, DRAIN by what it still waits for, and its deadline by the commands left. -/
theorem joiningAndDraining : Obligations.JoiningAndDraining := by
  intro s c j b u route fits
  refine ⟨fun h hr ha hn hst hro => ?_, fun h hr ha hbad => ?_, fun h hr ha => ?_, fun h h1 hz => ?_, fun ha hj ho hp hph hf => ?_,
    fun ha hd ht hw => ?_, fun k ha hd ht hw => ?_, exec_drainDeadline_early⟩
  · have hok : ¬ (u.fab.assigned = false ∨ u.fab.st = .serving ∨ u.hasRoute (field b 0 2) = false) := by
      rintro (h0 | h0 | h0)
      · exact Bool.false_ne_true (h0.symm.trans hn)
      · exact hst h0
      · exact Bool.false_ne_true (h0.symm.trans hro)
    refine ⟨?_, joinSystem_keeps u b (·.fab.st) (fun _ _ _ => rfl) fun _ _ _ => rfl,
      joinSystem_keeps u b (·.fab.mgr) (fun _ _ _ => rfl) fun _ _ _ => rfl, joinSystem_keeps u b State.regs (fun _ _ _ => rfl) fun _ _ _ => rfl,
      fun x hx => ?_⟩
    · rw [exec_join_allowed h hr ha, if_neg hok]
    · rw [context?_joinSystem, hx]
      rfl
  · refine endsAs_malformed h.1 ((exec_join_allowed h hr ha).trans ?_)
    rw [if_pos hbad]
  · exact endsAs_complete h.1 (exec_join_denied h hr ha) rfl (kept_begin s c)
  · refine ⟨exec_drain_starts h h1 hz, ?_⟩
    rw [kept_settle, State.await, kept_updJob, kept_fab, kept_begin]
  · have he := exec_drain_goes_on ha hj ho hp hph hf
    refine ⟨fun hb => ?_, fun hb hout hacks hcur hleft => ?_⟩
    · rw [he, drainGo_busy hb]
    · rw [he, drainGo_done hb hout hacks hcur hleft, job_id s c j hj]
  · rw [exec_drainDeadline_due ha hd ht, hw, List.foldl_nil]
  · rw [exec_drainDeadline_due ha hd ht, hw]
    rfl

end Sys2Proof.Machine

namespace Sys2Proof.Machine

/-! ## A port that is updated -/

theorem fport_setFport (s : State) (p q : Fin 8) (x : Port) : (s.setFport p x).fport q = if p = q then x else s.fport q := by
  change (s.fab.ports.set p x)[q.val] = if p = q then x else s.fab.ports[q.val]
  rw [Vector.getElem_set]
  simp only [Fin.ext_iff]

@[simp] theorem fport_setFport_same (s : State) (p : Fin 8) (x : Port) : (s.setFport p x).fport p = x := by rw [fport_setFport, if_pos rfl]

@[simp] theorem fport_updFport_same (s : State) (p : Fin 8) (f : Port → Port) : (s.updFport p f).fport p = f (s.fport p) :=
  fport_setFport_same s p _

theorem fport_updFport_ne (s : State) {p q : Fin 8} (f : Port → Port) (h : q ≠ p) : (s.updFport p f).fport q = s.fport q := by
  rw [State.updFport, fport_setFport, if_neg h.symm]

theorem setFport_setFport (s : State) (p : Fin 8) (x y : Port) : (s.setFport p x).setFport p y = s.setFport p y := by
  simp [State.setFport]

theorem updFport_updFport (s : State) (p : Fin 8) (f g : Port → Port) : (s.updFport p f).updFport p g = s.updFport p fun x => g (f x) := by
  rw [State.updFport, fport_updFport_same, State.updFport, setFport_setFport, State.updFport]

/-! ## The states of a port (R382, R383, R385, R426) -/

section Rows
variable (s : State) (p : Fin 8)

theorem exec_signalDetect : exec (.signalDetect p) s = execSignalDetect p s := rfl
theorem exec_trainingComplete : exec (.trainingComplete p) s = execTrainingComplete p s := rfl
theorem exec_laneLockLost (lanes : BitVec 4) : exec (.laneLockLost p lanes) s = execLaneLockLost p lanes s := rfl
theorem exec_realignComplete : exec (.realignComplete p) s = execRealignComplete p s := rfl
theorem exec_realignTimeout : exec (.realignTimeout p) s = execRealignTimeout p s := rfl
theorem exec_lossOfSignal : exec (.lossOfSignal p) s = execLossOfSignal p s := rfl
theorem exec_accept (r : Requester) : exec (.accept r p) s = execAccept r p s := rfl
theorem exec_retrain (r : Requester) : exec (.retrain r p) s = execRetrain r p s := rfl
theorem exec_portEn (r : Requester) (en : Bool) : exec (.portEn r p en) s = execPortEn r p en s := rfl
theorem exec_ackTimer : exec (.ackTimer p) s = execAckTimer p s := rfl
theorem exec_helloTimer : exec (.helloTimer p) s = execHelloTimer p s := rfl
theorem exec_creditTimer : exec (.creditTimer p) s = execCreditTimer p s := rfl
theorem exec_joinReqTimer : exec .joinReqTimer s = execJoinReqTimer s := rfl
theorem exec_routeUnusableExpiry (dst idx : Nat) : exec (.routeUnusableExpiry dst idx) s = execRouteUnusableExpiry dst idx s := rfl

/-- The time at which a port last carried traffic is now (R395). -/
def State.noteTraffic : State := { s with fab := { s.fab with lastUp := some s.time } }

end Rows

section States
variable {s : State} {p : Fin 8} {lanes : BitVec 4}

section Alive
variable (ha : s.alive = true)
include ha

theorem exec_signalDetect_trains (hm : s.boot.memLocked = true) (hd : (s.fport p).st = .down) (he : (s.fport p).en = true)
    (hl : (s.fport p).noPll = false) : exec (.signalDetect p) s = .next ((s.train p).updFport p fun x => { x with nbr := {} }) := by
  rw [exec_signalDetect, execSignalDetect]
  exact actWhen_of s _ _ ha (by simp [hm, hd, he, hl])

theorem exec_trainingComplete_of (ht : (s.fport p).st = .training) :
    exec (.trainingComplete p) s = .next ((s.updFport p fun x => { x with st := .discovery }).sendHello p) := by
  rw [exec_trainingComplete, execTrainingComplete]
  exact actWhen_of s _ _ ha (by simp [ht])

/-- A lane lost by an UP port: it seeks a working pair, with record 0x000C (R383). -/
theorem exec_laneLockLost_up (hu : (s.fport p).st = .up) (hl : lanes ≠ 0) :
    exec (.laneLockLost p lanes) s = .next ((s.noteTraffic.updFport p fun y =>
        { y with lostLanes := (s.fport p).lostLanes ||| lanes, st := .realign, since := s.time }).errorRecord
      { code := 0x000C, unit := 5, index := p.val, action := 8, detail := ((s.fport p).lostLanes ||| lanes).toNat }).settle := by
  rw [exec_laneLockLost, execLaneLockLost]
  dsimp only
  rw [actSWhen_of s _ _ ha (by simpa [hu] using hl), if_pos hu]
  have hmerge := updFport_updFport s.noteTraffic p (fun x => { x with lostLanes := x.lostLanes ||| lanes })
    fun x => { x with st := .realign, since := s.time }
  exact congrArg (fun t : State => Host.Outcome.next (t.errorRecord _).settle) hmerge

/-- A DEGRADED port that loses a lane of its pair goes DOWN (R383). -/
theorem exec_laneLockLost_degraded (hd : (s.fport p).st = .degraded) (hl : lanes ≠ 0)
    (hp : (if (s.fport p).pair then highPairLost lanes else lowPairLost lanes) = true) :
    exec (.laneLockLost p lanes) s = .next ((s.updFport p fun x => { x with lostLanes := x.lostLanes ||| lanes }).portFails p).settle := by
  rw [exec_laneLockLost, execLaneLockLost]
  dsimp only
  rw [actSWhen_of s _ _ ha (by simpa [hd] using hl), if_neg (by rw [hd]; decide), if_pos ⟨hd, hp⟩]

theorem exec_realignComplete_pair (hr : (s.fport p).st = .realign)
    (hp : lowPairLost (s.fport p).lostLanes = false ∨ highPairLost (s.fport p).lostLanes = false) (ht : s.time ≤ (s.fport p).since + 12000) :
    exec (.realignComplete p) s = .next ((s.updFport p fun x => { x with pair := lowPairLost x.lostLanes }).portUp p .degraded).settle := by
  rw [exec_realignComplete, execRealignComplete]
  exact actSWhen_of s _ _ ha (by rcases hp with hp | hp <;> simp [hr, hp, ht])

/-- A port that cannot realign goes DOWN: each pair holds a lost lane, or 12 µs have passed (R383). -/
theorem exec_realignTimeout_due (hr : (s.fport p).st = .realign)
    (h : (lowPairLost (s.fport p).lostLanes = true ∧ highPairLost (s.fport p).lostLanes = true) ∨ (s.fport p).since + 12000 ≤ s.time) :
    exec (.realignTimeout p) s = .next (s.portFails p).settle := by
  rw [exec_realignTimeout, execRealignTimeout]
  exact actSWhen_of s _ _ ha (by simpa [hr] using h)

theorem exec_lossOfSignal_of (hd : (s.fport p).st ≠ .down) : exec (.lossOfSignal p) s = .next (s.portFails p).settle := by
  rw [exec_lossOfSignal, execLossOfSignal]
  exact actSWhen_of s _ _ ha (by simpa using hd)

end Alive

theorem exec_signalDetect_stays (h : (s.fport p).st ≠ .down ∨ (s.fport p).en = false ∨ (s.fport p).noPll = true) :
    exec (.signalDetect p) s = .next s := by
  rw [exec_signalDetect, execSignalDetect]
  exact actWhen_of_not s _ _ (by rcases h with h | h | h <;> simp [h])

theorem exec_trainingComplete_stays (h : (s.fport p).st ≠ .training) : exec (.trainingComplete p) s = .next s := by
  rw [exec_trainingComplete, execTrainingComplete]
  exact actWhen_of_not s _ _ (by simpa using h)

theorem exec_realignComplete_noPair (hl : lowPairLost (s.fport p).lostLanes = true) (hh : highPairLost (s.fport p).lostLanes = true) :
    exec (.realignComplete p) s = .next s := by
  rw [exec_realignComplete, execRealignComplete]
  exact actSWhen_of_not s _ _ (by simp [hl, hh])

theorem exec_lossOfSignal_down (h : (s.fport p).st = .down) : exec (.lossOfSignal p) s = .next s := by
  rw [exec_lossOfSignal, execLossOfSignal]
  exact actSWhen_of_not s _ _ (by simp [h])

/-! ## FB_PORT_CTL (R382, R386, R397, R407) -/

theorem acceptPort_held (h : (s.fport p).st = .held) : s.acceptPort p = s.portUp p .up := if_pos h
theorem acceptPort_stays (h : (s.fport p).st ≠ .held) : s.acceptPort p = s := if_neg h
theorem retrainPort_degraded (h : (s.fport p).st = .degraded) : s.retrainPort p = (s.train p).noteTraffic := if_pos h
theorem retrainPort_stays (h : (s.fport p).st ≠ .degraded) : s.retrainPort p = s := if_neg h
theorem portDown_down (h : (s.fport p).st = .down) : s.portDown p = s := if_pos h

theorem fport_train_same : (s.train p).fport p =
    { s.fport p with st := .training, since := s.time, helloSent := false, lostLanes := 0, pair := false } := fport_updFport_same s p _

theorem fport_train_ne {q : Fin 8} (h : q ≠ p) : (s.train p).fport q = s.fport q := fport_updFport_ne s _ h

section Control
variable {r : Requester} (h : Written s (portCtl p) r)
include h

theorem exec_accept_written : exec (.accept r p) s = .next (s.acceptPort p).settle := by rw [exec_accept, execAccept, actReg_written _ _ _ _ h]

theorem exec_retrain_written : exec (.retrain r p) s = .next (s.retrainPort p).settle := by rw [exec_retrain, execRetrain, actReg_written _ _ _ _ h]

theorem exec_portEn_written (en : Bool) : exec (.portEn r p en) s = .next (s.enablePort p en).settle := by
  rw [exec_portEn, execPortEn, actReg_written _ _ _ _ h]

end Control

/-! ## The timers of a link (R380, R381, R385, R387, R390) -/

section Due
variable (ha : s.alive = true)
include ha

theorem exec_ackTimer_due (hx : (s.fport p).talks = true) (ht : (s.fport p).lastTx + 500 ≤ s.time) :
    exec (.ackTimer p) s = .next (s.sendAck p false) := by
  rw [exec_ackTimer, execAckTimer]
  exact actWhen_of s _ _ ha (by simp [hx, ht])

theorem exec_helloTimer_due (hx : (s.fport p).talks = true ∨ (s.fport p).st = .discovery) (ht : (s.fport p).lastHello + 1000000 ≤ s.time) :
    exec (.helloTimer p) s = .next (s.sendHello p) := by
  rw [exec_helloTimer, execHelloTimer]
  exact actWhen_of s _ _ ha (by simpa [ht] using hx)

theorem exec_creditTimer_due (hx : (s.fport p).talks = true) (ho : 0 < (s.fport p).owed)
    (ht : 256 ≤ (s.fport p).owed ∨ (s.fport p).lastCredit + 1000 ≤ s.time) : exec (.creditTimer p) s = .next (s.sendCredit p) := by
  rw [exec_creditTimer, execCreditTimer]
  exact actWhen_of s _ _ ha (by simpa [hx, ho] using ht)

theorem exec_joinReqTimer_due (hr : s.isReady = true) (hn : s.fab.assigned = false) (ht : s.fab.lastJoinReq + 10000000 ≤ s.time) :
    exec .joinReqTimer s = .next (s.sendJoinReqs (s.fab.rejoin || s.fab.st == .isolated)) := by
  rw [exec_joinReqTimer, execJoinReqTimer]
  exact actWhen_of s _ _ ha (by simp [hr, hn, ht])

end Due

theorem exec_ackTimer_early (h : (s.fport p).talks = false ∨ s.time < (s.fport p).lastTx + 500) : exec (.ackTimer p) s = .next s := by
  rw [exec_ackTimer, execAckTimer]
  exact actWhen_of_not s _ _ (by rcases h with h | h <;> simp [h])

theorem exec_helloTimer_early (h : s.time < (s.fport p).lastHello + 1000000) : exec (.helloTimer p) s = .next s := by
  rw [exec_helloTimer, execHelloTimer]
  exact actWhen_of_not s _ _ (by simp [h])

theorem exec_creditTimer_none (h : (s.fport p).owed = 0) : exec (.creditTimer p) s = .next s := by
  rw [exec_creditTimer, execCreditTimer]
  exact actWhen_of_not s _ _ (by simp [h])

theorem exec_joinReqTimer_assigned (h : s.fab.assigned = true) : exec .joinReqTimer s = .next s := by
  rw [exec_joinReqTimer, execJoinReqTimer]
  exact actWhen_of_not s _ _ (by simp [h])

end States

/-- Settles O55: a row by the state of its port, a write of FB_PORT_CTL by what its bit does, and a timer by whether it is due. -/
theorem portStates : Obligations.PortStates := by
  refine ⟨fun s p lanes ha => ?_, fun s r p hw => ?_, fun s p dst idx ha => ?_⟩
  · intro x u
    refine ⟨fun hm hd he hl => ⟨exec_signalDetect_trains ha hm hd he hl, by rw [fport_train_same]⟩, exec_signalDetect_stays,
      exec_trainingComplete_of ha, exec_trainingComplete_stays, exec_laneLockLost_up ha, exec_laneLockLost_degraded ha,
      exec_realignComplete_pair ha, fun hr ht => exec_realignTimeout_due ha hr (.inr ht),
      fun hr hl hh => ⟨exec_realignTimeout_due ha hr (.inl ⟨hl, hh⟩), exec_realignComplete_noPair hl hh⟩, exec_lossOfSignal_of ha,
      exec_lossOfSignal_down⟩
  · intro x
    refine ⟨fun hx => ?_, fun hx => ?_, fun hx => ⟨(s.train p).noteTraffic, ?_, rfl, fport_train_same, fun q hq => fport_train_ne hq⟩,
      fun hx => ?_, exec_portEn_written hw true, exec_portEn_written hw false, portDown_down⟩
    · rw [exec_accept_written hw, acceptPort_held hx]
    · rw [exec_accept_written hw, acceptPort_stays hx]
    · rw [exec_retrain_written hw, retrainPort_degraded hx]
    · rw [exec_retrain_written hw, retrainPort_stays hx]
  · intro x
    exact ⟨exec_ackTimer_due ha, exec_ackTimer_early, exec_helloTimer_due ha, exec_helloTimer_early, exec_creditTimer_due ha,
      exec_creditTimer_none, exec_joinReqTimer_due ha, exec_joinReqTimer_assigned,
      by rw [exec_routeUnusableExpiry, execRouteUnusableExpiry, act_alive _ _ ha]⟩

end Sys2Proof.Machine

namespace Sys2Proof.Machine

/-! ## A routed frame meets its head and its link (R376, R378, R381) -/

section Head
variable {s : State} {f : Frame} {typ : Nat} (ht : f.typ = typ) (go : State → State)
include ht

theorem headIn_ok (he : f.etype = s.etherType) (hv : f.ver = 1) : s.headIn f typ go = go s := by
  rw [State.headIn, if_neg (not_not.mpr ht), if_neg (not_not.mpr he), if_neg (not_not.mpr hv)]

theorem headIn_etherType (he : f.etype ≠ s.etherType) : s.headIn f typ go = s.countEngine 17 1 := by
  rw [State.headIn, if_neg (not_not.mpr ht), if_pos he]

theorem headIn_ver (he : f.etype = s.etherType) (hv : f.ver ≠ 1) : s.headIn f typ go = s.countEngine 18 1 := by
  rw [State.headIn, if_neg (not_not.mpr ht), if_neg (not_not.mpr he), if_pos hv]

end Head

section Link
variable {s : State} {p : Fin 8} {f : Frame} (hp : (s.fport p).takes f.typ = true) (route : State → State)
include hp

theorem linkIn_next (hs : seqAhead f.lseq (s.fport p).rxSeq = 0) : s.linkIn p f route = route (s.linked p f) := by
  rw [State.linkIn]
  dsimp only
  rw [if_neg (by simp [hp]), if_pos hs]
  rfl

theorem linkIn_ahead (h0 : 0 < seqAhead f.lseq (s.fport p).rxSeq) (h1 : seqAhead f.lseq (s.fport p).rxSeq < 2 ^ 15) :
    s.linkIn p f route = (s.acknowledge p f.lack).sendAck p true := by
  rw [State.linkIn]
  dsimp only
  rw [if_neg (by simp [hp]), if_neg h0.ne', if_pos h1]

theorem linkIn_duplicate (h1 : 2 ^ 15 ≤ seqAhead f.lseq (s.fport p).rxSeq) : s.linkIn p f route = s.acknowledge p f.lack := by
  rw [State.linkIn]
  dsimp only
  rw [if_neg (by simp [hp]), if_neg (by omega), if_neg (Nat.not_lt.mpr h1)]

end Link

/-- The event of a routed frame of a type: its head, its link, and then its route. -/
def linkedRow (s : State) (p : Fin 8) (f : Frame) (typ : Nat) (route : State → State) : Out :=
  actS s fun s => s.headIn f typ fun s => s.linkIn p f route

theorem isMine_linked (s : State) (p : Fin 8) (f g : Frame) : (s.linked p f).isMine g = s.isMine g := rfl
theorem joined_linked (s : State) (p : Fin 8) (f : Frame) : (s.linked p f).joined = s.joined := rfl

theorem linkedRow_arrives {s : State} {p : Fin 8} {f : Frame} {typ : Nat} (route : State → State) (h : Arrives s p f typ) :
    linkedRow s p f typ route = .next (route (s.linked p f)).settle := by
  obtain ⟨ha, ht, he, hv, hp, hs⟩ := h
  rw [linkedRow, actS_alive _ _ ha, headIn_ok ht _ he hv, linkIn_next (ht ▸ hp) _ hs]

/-! ## A routed frame that is not for this engine (R381, R387, R390) -/

/-- Where a frame for another engine goes: on by its own route once the engine has joined, and otherwise it is dropped and counted. -/
def State.routeAway (s : State) (p : Fin 8) (f : Frame) : State :=
  if f.hopIdx < f.hops then (if s.joined then s.forward p f else (s.freeFrame p f).countEngine 20 1) else (s.freeFrame p f).countEngine 19 1

theorem routeIn_notMine {s : State} {p : Fin 8} {f : Frame} (deliver : State → State) (h : s.isMine f = false) :
    s.routeIn p f deliver = s.routeAway p f := if_neg (by rw [h]; exact Bool.false_ne_true)

/-- A row of routed frames: those of its type pass its head and its link, and go away when they are for another engine. -/
def RoutesAway (i : Instr) (p : Fin 8) (f : Frame) (typ : Nat) : Prop :=
  ∃ route : State → State, (∀ s, exec i s = linkedRow s p f typ route) ∧ ∀ u : State, u.isMine f = false → route u = u.routeAway p f

theorem routesAway_of_routedRow {i : Instr} {p : Fin 8} {f : Frame} {typ : Nat} (deliver : State → State)
    (h : ∀ s, exec i s = routedRow s p f typ deliver) : RoutesAway i p f typ :=
  ⟨fun s => s.routeIn p f deliver, h, fun _ hm => routeIn_notMine deliver hm⟩

section Rows
variable (s : State) (p : Fin 8) (f : Frame)

theorem exec_cmd : exec (.cmd p f) s = execCmd p f s := rfl
theorem exec_status : exec (.status p f) s = execStatus p f s := rfl
theorem exec_unreachable : exec (.unreachable p f) s = execUnreachable p f s := rfl
theorem exec_regRd : exec (.regRd p f) s = execRegRd p f s := rfl
theorem exec_regResp : exec (.regResp p f) s = execRegResp p f s := rfl

/-- What a JOIN_REQ meets once its link has accepted it: a serving neighbour sends a direct one on to its manager (R390). -/
def State.routeJoinReq : State :=
  if s.isMine f && f.direct && s.fab.st == .serving then
    s.sendOn p f { f with dst := s.fab.mgr, payload := putField (putField f.payload 20 2 s.ownNode) 22 1 p.val }
  else s.routeIn p f fun s => s

theorem exec_joinReq_linked : exec (.joinReq p f) s = linkedRow s p f ftJoinReq fun s => s.routeJoinReq p f := rfl

end Rows

theorem routesAway_joinReq (p : Fin 8) (f : Frame) : RoutesAway (.joinReq p f) p f ftJoinReq := by
  refine ⟨_, fun s => exec_joinReq_linked s p f, fun u hm => ?_⟩
  rw [State.routeJoinReq, if_neg (by simp [hm]), routeIn_notMine _ hm]

/-- The rows of routed frames, but for REG_WR and LOSS, each with its type (R378). -/
def routedRows (p : Fin 8) (f : Frame) : List (Instr × Nat) :=
  [(.cmd p f, ftCmd), (.status p f, ftStatus), (.rdReq p f, ftRdReq), (.rdResp p f, ftRdResp), (.wrReq p f, ftWrReq), (.wrAck p f, ftWrAck),
   (.unreachable p f, ftUnreachable), (.joinReq p f, ftJoinReq), (.regRd p f, ftRegRd), (.regResp p f, ftRegResp)]

theorem routesAway_of_mem (p : Fin 8) (f : Frame) : ∀ row ∈ routedRows p f, RoutesAway row.1 p f row.2 := by
  simp only [routedRows, List.forall_mem_cons, List.not_mem_nil, false_implies, implies_true, and_true]
  exact ⟨routesAway_of_routedRow _ fun s => exec_cmd s p f, routesAway_of_routedRow _ fun s => exec_status s p f,
    routesAway_of_routedRow _ fun s => exec_rdReq p f s, routesAway_of_routedRow _ fun s => exec_rdResp p f s,
    routesAway_of_routedRow _ fun s => exec_wrReq p f s, routesAway_of_routedRow _ fun s => exec_wrAck p f s,
    routesAway_of_routedRow _ fun s => exec_unreachable s p f, routesAway_joinReq p f, routesAway_of_routedRow _ fun s => exec_regRd s p f,
    routesAway_of_routedRow _ fun s => exec_regResp s p f⟩

section Away
variable {s : State} {i : Instr} {p : Fin 8} {f : Frame} {typ : Nat} (hi : RoutesAway i p f typ)
include hi

theorem exec_notMine (h : Arrives s p f typ) (hm : s.isMine f = false) : exec i s = .next ((s.linked p f).routeAway p f).settle := by
  obtain ⟨route, hrow, hr⟩ := hi
  rw [hrow, linkedRow_arrives route h, hr _ ((isMine_linked s p f f).trans hm)]

variable (ha : s.alive = true) (ht : f.typ = typ)
include ha ht

theorem exec_badEtherType (he : f.etype ≠ s.etherType) : exec i s = .next (s.countEngine 17 1).settle := by
  obtain ⟨route, hrow, -⟩ := hi
  rw [hrow, linkedRow, actS_alive _ _ ha, headIn_etherType ht _ he]

variable (he : f.etype = s.etherType)
include he

theorem exec_badVer (hv : f.ver ≠ 1) : exec i s = .next (s.countEngine 18 1).settle := by
  obtain ⟨route, hrow, -⟩ := hi
  rw [hrow, linkedRow, actS_alive _ _ ha, headIn_ver ht _ he hv]

variable (hv : f.ver = 1) (hp : (s.fport p).takes typ = true)
include hv hp

theorem exec_ahead (h0 : 0 < seqAhead f.lseq (s.fport p).rxSeq) (h1 : seqAhead f.lseq (s.fport p).rxSeq < 2 ^ 15) :
    exec i s = .next ((s.acknowledge p f.lack).sendAck p true).settle := by
  obtain ⟨route, hrow, -⟩ := hi
  rw [hrow, linkedRow, actS_alive _ _ ha, headIn_ok ht _ he hv, linkIn_ahead (ht ▸ hp) _ h0 h1]

theorem exec_duplicate (h1 : 2 ^ 15 ≤ seqAhead f.lseq (s.fport p).rxSeq) : exec i s = .next (s.acknowledge p f.lack).settle := by
  obtain ⟨route, hrow, -⟩ := hi
  rw [hrow, linkedRow, actS_alive _ _ ha, headIn_ok ht _ he hv, linkIn_duplicate (ht ▸ hp) _ h1]

end Away

/-! ## Command packets (R338, R378, R390) -/

theorem isReady_received (s : State) (p : Fin 8) (f : Frame) : (s.received p f).isReady = s.isReady :=
  received_keeps State.isReady (fun _ _ _ => rfl) s p f

theorem cmdAllowed_received (s : State) (p : Fin 8) (f g : Frame) : (s.received p f).cmdAllowed g = s.cmdAllowed g :=
  received_keeps (·.cmdAllowed g) (fun _ _ _ => rfl) s p f

theorem fabqs_received (s : State) (p : Fin 8) (f : Frame) : (s.received p f).fabqs = s.fabqs := received_keeps State.fabqs (fun _ _ _ => rfl) s p f

/-- Where a command packet of a frame comes from (R338). -/
def commandOrigin (p : Fin 8) (f : Frame) : Origin := { port := p.val, node := f.src, back := returnPath f, direct := f.direct }

/-- The fabric queue that a packet names (R338). -/
def State.fabqOf (s : State) (bs : List Byte) : Option FabQueue := s.fabqs.find? fun x => x.ctx == pktCtx bs && x.queue == pktQueue bs

/-- How far a packet is ahead of the next of its queue (R338). -/
def FabQueue.ahead (x : FabQueue) (bs : List Byte) : Nat := (pktSeq bs + 2 ^ 32 - x.next) % 2 ^ 32

/-- A packet takes its place in its queue, and those that are next in order go to the parser (R338). -/
def State.placeCommand (s : State) (p : Fin 8) (f : Frame) : State :=
  (s.updFabq (pktCtx f.payload) (pktQueue f.payload) fun x =>
    { x with buffer := x.buffer ++ [(pktSeq f.payload, f.payload, commandOrigin p f)] }).drainFabq (pktCtx f.payload) (pktQueue f.payload) 64

section Take
variable {s : State} {p : Fin 8} {f : Frame}

theorem takeCommand_short (h : f.payload.length < 64) : s.takeCommand p f = s := by
  rw [State.takeCommand]
  dsimp only
  rw [if_pos h]

section Long
variable (h : 64 ≤ f.payload.length)
include h

theorem takeCommand_noQueue (hq : s.fabqOf f.payload = none) : s.takeCommand p f = s.acceptFabric f.payload (commandOrigin p f) false := by
  rw [State.fabqOf] at hq
  rw [State.takeCommand]
  dsimp only
  rw [if_neg (Nat.not_lt.mpr h), hq]
  rfl

variable {x : FabQueue} (hq : s.fabqOf f.payload = some x)
include hq

/-- A packet of a queue that exists: refused while the queue is deleted, counted when it is too far ahead or already waits, and else placed. -/
theorem takeCommand_queue : s.takeCommand p f =
    if x.deleting then s.acceptFabric f.payload (commandOrigin p f) false
    else if 64 ≤ x.ahead f.payload ∨ (x.buffer.any fun e => e.1 == pktSeq f.payload) = true then s.countCtx (pktCtx f.payload) 10 1
    else s.placeCommand p f := by
  rw [State.fabqOf] at hq
  rw [State.takeCommand]
  dsimp only
  rw [if_neg (Nat.not_lt.mpr h), hq]
  rfl

theorem takeCommand_deleting (hd : x.deleting = true) : s.takeCommand p f = s.acceptFabric f.payload (commandOrigin p f) false := by
  rw [takeCommand_queue h hq, if_pos hd]

variable (hd : x.deleting = false)
include hd

theorem takeCommand_discarded (ha : 64 ≤ x.ahead f.payload ∨ (x.buffer.any fun e => e.1 == pktSeq f.payload) = true) :
    s.takeCommand p f = s.countCtx (pktCtx f.payload) 10 1 := by
  rw [takeCommand_queue h hq, if_neg (by rw [hd]; exact Bool.false_ne_true), if_pos ha]

theorem takeCommand_placed (ha : x.ahead f.payload < 64) (hn : (x.buffer.any fun e => e.1 == pktSeq f.payload) = false) :
    s.takeCommand p f = s.placeCommand p f := by
  rw [takeCommand_queue h hq, if_neg (by rw [hd]; exact Bool.false_ne_true),
    if_neg (by rw [hn, not_or]; exact ⟨Nat.not_le.mpr ha, Bool.false_ne_true⟩)]

end Long

section Cmd
variable (hm : s.isMine f = true) (h : Arrives s p f ftCmd)
include hm h

theorem exec_cmd_taken (hr : s.isReady = true) (ha : s.cmdAllowed f = true) :
    exec (.cmd p f) s = .next ((s.received p f).takeCommand p f).settle := by
  rw [exec_cmd, execCmd, routedRow_mine _ h hm, if_pos (by simp [isReady_received, cmdAllowed_received, hr, ha])]

theorem exec_cmd_dropped (hn : s.isReady = false ∨ s.cmdAllowed f = false) :
    exec (.cmd p f) s = .next ((s.received p f).countEngine 20 1).settle := by
  rw [exec_cmd, execCmd, routedRow_mine _ h hm,
    if_neg (by rw [isReady_received, cmdAllowed_received]; rcases hn with hn | hn <;> simp [hn])]

end Cmd

end Take

/-- Settles O56: a frame for another engine by its row's link and its route, and a command packet by its place in its queue. -/
theorem commandFrames : Obligations.CommandFrames := by
  refine ⟨fun s p f row hrow => ?_, fun s p f hm => ?_⟩
  · have hi : RoutesAway row.1 p f row.2 := routesAway_of_mem p f row hrow
    refine ⟨fun h hm => ⟨fun hh hj => ?_, fun hh hj => ?_, fun hh => ?_⟩,
      fun ha ht he hv hp => ⟨exec_ahead hi ha ht he hv hp, exec_duplicate hi ha ht he hv hp⟩,
      exec_badEtherType hi, exec_badVer hi⟩
    all_goals rw [exec_notMine hi h hm, State.routeAway]
    · rw [if_pos hh, joined_linked, if_pos hj]
    · rw [if_pos hh, joined_linked, if_neg (by rw [hj]; exact Bool.false_ne_true), State.received]
    · rw [if_neg (Nat.not_lt.mpr hh), State.received]
  · intro u bs o
    have hq : u.fabqOf bs = s.fabqOf bs := by rw [State.fabqOf, State.fabqOf, fabqs_received]
    refine ⟨fun h hr ha => ?_, exec_cmd_dropped hm, fun h => ?_, fun h => ?_⟩
    · rw [exec_cmd_taken hm h hr ha]
      refine ⟨fun hl => ?_, fun x hl hx hd => ⟨fun hn hb => ?_, fun hn => ?_⟩, fun x hl hx hd => ?_, fun hl hx => ?_⟩
      · rw [takeCommand_short hl]
      · rw [takeCommand_placed hl (hq.trans hx) hd hn hb]
        rfl
      · rw [takeCommand_discarded hl (hq.trans hx) hd hn]
      · rw [takeCommand_deleting hl (hq.trans hx) hd]
        rfl
      · rw [takeCommand_noQueue hl (hq.trans hx)]
        rfl
    · rw [exec_status, execStatus, routedRow_mine _ h hm]
    · rw [exec_regResp, execRegResp, routedRow_mine _ h hm]

end Sys2Proof.Machine

namespace Sys2Proof.Machine

/-! ## Register accesses by the fabric (R396) -/

theorem alive_not_fenced {s : State} (h : s.alive = true) : s.err.fenced = false := by
  obtain ⟨-, hf⟩ := Bool.and_eq_true_iff.mp h
  simpa using hf

theorem regAllowed_received (s : State) (p : Fin 8) (f g : Frame) : (s.received p f).regAllowed g = s.regAllowed g :=
  received_keeps (·.regAllowed g) (fun _ _ _ => rfl) s p f

theorem exec_regWr (s : State) (p : Fin 8) (f : Frame) : exec (.regWr p f) s = execRegWr p f s := rfl

section Registers
variable {s : State} {p : Fin 8} {f : Frame} (hm : s.isMine f = true)
include hm

section Read
variable (h : Arrives s p f ftRegRd)
include h

theorem exec_regRd_allowed (ha : s.regAllowed f = true) : let r := (s.received p f).readReg .fabric f.addr
    exec (.regRd p f) s = .next (r.1.regReply p f true r.2).settle := by
  rw [exec_regRd, execRegRd, routedRow_mine _ h hm, if_pos ((regAllowed_received s p f f).trans ha)]

theorem exec_regRd_refused (ha : s.regAllowed f = false) : exec (.regRd p f) s = .next ((s.received p f).regReply p f false 0).settle := by
  rw [exec_regRd, execRegRd, routedRow_mine _ h hm, if_neg (by rw [regAllowed_received, ha]; exact Bool.false_ne_true)]

end Read

/-- A register write of the fabric while no fence is up (R396). -/
theorem exec_regWr_mine (h : Arrives s p f ftRegWr) : let u := s.received p f
    exec (.regWr p f) s =
      .next (if s.regAllowed f && f.payload.length == 4 then (u.fabricWrite f).regReply p f true 0 else u.regReply p f false 0).settle := by
  rw [exec_regWr, execRegWr, if_neg (by rw [alive_not_fenced h.1]; exact Bool.false_ne_true), routedRow_mine _ h hm, regAllowed_received]

end Registers

/-! ## UNREACHABLE, JOIN_REQ and LOSS (R388, R390, R393, R394) -/

/-- What a LOSS frame meets once its link has accepted it is `State.lossIn`. -/
theorem exec_loss (s : State) (p : Fin 8) (f : Frame) : exec (.loss p f) s = linkedRow s p f ftLoss fun s => s.lossIn p f := rfl

/-- An acknowledgement takes frames out of the retry buffer, and leaves the rest of its port (R381). -/
theorem fport_acknowledge_keeps {β : Type} (q : Port → β) (hq : ∀ x l, q { x with retry := l } = q x) (s : State) (p : Fin 8) (lack : Nat) :
    q ((s.acknowledge p lack).fport p) = q (s.fport p) := by
  rw [State.acknowledge, fport_updFport_same]
  dsimp only
  split
  · exact hq _ _
  · rfl

theorem nbr_linked (s : State) (p : Fin 8) (f : Frame) : ((s.linked p f).fport p).nbr = (s.fport p).nbr := by
  rw [State.linked, fport_updFport_same]
  exact fport_acknowledge_keeps Port.nbr (fun _ _ => rfl) s p f.lack

/-- Whether a frame comes from the engine at the other end of its port. -/
def Neighbour.is (n : Neighbour) (node : Nat) : Bool := n.valid && n.assigned && n.node == node

section Announced
variable {s : State} {p : Fin 8} {f : Frame} (hm : s.isMine f = true)
include hm

/-- A LOSS frame for this engine takes its port DOWN when it comes from the port's partner (R393). -/
theorem exec_loss_mine (h : Arrives s p f ftLoss) : let u := s.received p f
    exec (.loss p f) s = .next (if (s.fport p).nbr.is f.src then u.portFails p else u).settle := by
  rw [exec_loss, linkedRow_arrives _ h, State.lossIn]
  dsimp only
  rw [if_pos ((isMine_linked s p f f).trans hm), nbr_linked]
  rfl

theorem exec_unreachable_mine (h : Arrives s p f ftUnreachable) (hl : 32 ≤ f.payload.length) :
    exec (.unreachable p f) s = .next ((s.received p f).markRoute f.payload).settle := by
  rw [exec_unreachable, execUnreachable, routedRow_mine _ h hm, if_neg (Nat.not_lt.mpr hl)]

theorem exec_joinReq_served (h : Arrives s p f ftJoinReq) (hd : f.direct = true) (hs : s.fab.st = .serving) :
    exec (.joinReq p f) s = .next ((s.linked p f).sendOn p f { f with
      dst := s.fab.mgr, payload := putField (putField f.payload 20 2 s.ownNode) 22 1 p.val }).settle := by
  have hm' : (s.linked p f).isMine f = true := hm
  have hs' : (s.linked p f).fab.st = .serving := hs
  rw [exec_joinReq_linked, linkedRow_arrives _ h, State.routeJoinReq, if_pos (by simp [hm', hd, hs'])]
  rfl

theorem exec_joinReq_ignored (h : Arrives s p f ftJoinReq) (hs : s.fab.st ≠ .serving) :
    exec (.joinReq p f) s = .next (s.received p f).settle := by
  have hs' : (s.linked p f).fab.st ≠ .serving := hs
  rw [exec_joinReq_linked, linkedRow_arrives _ h, State.routeJoinReq, if_neg (by simp [hs']), State.routeIn,
    if_pos ((isMine_linked s p f f).trans hm), State.received]

end Announced

/-! ## Frames of one link (R380, R381, R385, R386) -/

/-- A frame of one link is delivered once what it acknowledges has left the retry buffer (R378, R381). -/
theorem linkRow_arrives {s : State} {p : Fin 8} {f : Frame} {typ : Nat} (deliver : State → State) (h : LinkArrives s p f typ) :
    linkRow s p f typ deliver = .next (deliver (s.acknowledge p f.lack)).settle := by
  obtain ⟨ha, ht, he, hv, hp⟩ := h
  rw [linkRow, actS_alive _ _ ha, if_pos (by simpa using hp), headIn_ok ht _ he hv]

theorem exec_credit (s : State) (p : Fin 8) (f : Frame) : exec (.credit p f) s = execCredit p f s := rfl
theorem exec_ack (s : State) (p : Fin 8) (f : Frame) : exec (.ack p f) s = execAck p f s := rfl
theorem exec_hello (s : State) (p : Fin 8) (f : Frame) : exec (.hello p f) s = execHello p f s := rfl

/-- A partner as its HELLO names it, on a port that has met another before or none (R385, R386). -/
def State.meetPartner (s : State) (p : Fin 8) (n : Neighbour) : State :=
  let u := s.updFport p fun x => { x with nbr := n }
  if (s.fport p).nbr.valid && (s.fport p).nbr.serial != n.serial then u.holdPort p
  else if (s.fport p).st = .discovery ∧ (s.fport p).helloSent = true then (u.portUp p .up).cameUp p
  else u

/-- A port without a waiting frame is HELD, and no frame is discarded (R386). -/
theorem holdPort_empty (s : State) (p : Fin 8) (hw : (s.fport p).waiting = []) :
    let u := s.updFport p fun y => { y with st := .held, nbrChanged := true }
    s.holdPort p = if (s.fport p).carries then u.noteTraffic else u := by
  rw [State.holdPort]
  dsimp only
  rw [hw, List.filter_nil, List.foldl_nil]
  simp only [List.diff_nil]
  rfl

theorem fport_noteTraffic (s : State) (p : Fin 8) : s.noteTraffic.fport p = s.fport p := rfl

theorem fport_holdPort_empty (s : State) (p : Fin 8) (hw : (s.fport p).waiting = []) :
    (s.holdPort p).fport p = { s.fport p with st := .held, nbrChanged := true } := by
  rw [holdPort_empty s p hw]
  split
  · rw [fport_noteTraffic, fport_updFport_same]
  · rw [fport_updFport_same]

section LinkFrames
variable {s : State} {p : Fin 8} {f : Frame}

theorem exec_ack_arrives (h : LinkArrives s p f ftAck) : let u := s.acknowledge p f.lack
    exec (.ack p f) s = .next ((if f.nak && (s.fport p).talks then u.replay p else u).pumpPort p).settle := by
  rw [exec_ack, execAck, linkRow_arrives _ h, fport_acknowledge_keeps Port.talks fun _ _ => rfl]

theorem exec_hello_arrives (h : LinkArrives s p f ftHello) :
    exec (.hello p f) s = .next ((s.acknowledge p f.lack).meetPartner p (neighbourOf f.payload)).settle := by
  rw [exec_hello, execHello, linkRow_arrives _ h]
  rfl

variable {n : Neighbour}

theorem meetPartner_changed (hv : (s.fport p).nbr.valid = true) (hn : (s.fport p).nbr.serial ≠ n.serial) :
    s.meetPartner p n = (s.updFport p fun x => { x with nbr := n }).holdPort p := by
  rw [State.meetPartner]
  exact if_pos (by simp [hv, hn])

section Same
variable (hn : (s.fport p).nbr.valid = false ∨ (s.fport p).nbr.serial = n.serial)
include hn

theorem meetPartner_same : s.meetPartner p n =
    let u := s.updFport p fun x => { x with nbr := n }
    if (s.fport p).st = .discovery ∧ (s.fport p).helloSent = true then (u.portUp p .up).cameUp p else u := by
  rw [State.meetPartner]
  exact if_neg (by rcases hn with hn | hn <;> simp [hn])

theorem meetPartner_discovery (hd : (s.fport p).st = .discovery) (hh : (s.fport p).helloSent = true) :
    s.meetPartner p n = ((s.updFport p fun x => { x with nbr := n }).portUp p .up).cameUp p :=
  (meetPartner_same hn).trans (if_pos ⟨hd, hh⟩)

theorem meetPartner_recorded (hd : (s.fport p).st ≠ .discovery) : s.meetPartner p n = s.updFport p fun x => { x with nbr := n } :=
  (meetPartner_same hn).trans (if_neg fun h => hd h.1)

end Same

/-! ## Bad frames (R376, R378, R381) -/

theorem exec_badFrame (s : State) (p : Fin 8) (k : BadFrameKind) (f : Frame) : exec (.badFrame p k f) s = execBadFrame p k f s := rfl

theorem badLink_talks (h : (s.fport p).talks = true) : s.badLink p = s.sendAck p true := if_pos h

section Bad
variable (ha : s.alive = true) (hp : (s.fport p).talks = true)
include ha hp

theorem exec_badFrame_fcs : exec (.badFrame p .fcs f) s = .next ((s.countEngine 17 1).sendAck p true).settle := by
  rw [exec_badFrame, execBadFrame, actS_alive _ _ ha]
  dsimp only
  rw [if_neg (by simp [hp]), badLink_talks (s := s.countEngine 17 1) hp]

theorem exec_badFrame_etherType (he : f.etype ≠ s.etherType) : exec (.badFrame p .etherType f) s = .next (s.countEngine 17 1).settle := by
  rw [exec_badFrame, execBadFrame, actS_alive _ _ ha]
  dsimp only
  rw [if_neg (by simp [hp]), if_pos he]

theorem exec_badFrame_typ (ht : 0x0F < f.typ) : exec (.badFrame p .typ f) s = .next (s.countEngine 18 1).settle := by
  rw [exec_badFrame, execBadFrame, actS_alive _ _ ha]
  dsimp only
  rw [if_neg (by simp [hp]), if_pos (.inr ht)]

theorem exec_badFrame_lseq (ho : oneLink f.typ = false) (ht : (s.fport p).takes f.typ = true) (h0 : 0 < seqAhead f.lseq (s.fport p).rxSeq)
    (h1 : seqAhead f.lseq (s.fport p).rxSeq < 2 ^ 15) : exec (.badFrame p .lseq f) s = .next (s.sendAck p true).settle := by
  rw [exec_badFrame, execBadFrame, actS_alive _ _ ha]
  dsimp only
  rw [if_neg (by simp [hp]), if_pos ⟨ho, ht, h0, h1⟩, badLink_talks hp]

end Bad

end LinkFrames

/-- Settles O58: a routed frame by its row, once its link has accepted it, a frame of one link by what it carries, and a bad frame by its kind. -/
theorem managementFrames : Obligations.ManagementFrames := by
  refine ⟨fun s p f => ?_, fun s p f => ?_⟩
  · intro u
    refine ⟨fun h hm ha => exec_regRd_allowed hm h ha, fun h hm ha => exec_regRd_refused hm h ha, fun h hm ha hl => ?_, fun h hm ha => ?_,
      fun h hm hl => exec_unreachable_mine hm h hl, fun h hm hd hs => exec_joinReq_served hm h hd hs, fun h hm hs => exec_joinReq_ignored hm h hs,
      fun h hm hv hn hi => ?_, fun h hm hv => ?_⟩
    · rw [exec_regWr_mine hm h, if_pos (by simp [ha, hl])]
    · rw [exec_regWr_mine hm h, if_neg (by simp [ha])]
    · rw [exec_loss_mine hm h, if_pos (by simp [Neighbour.is, hv, hn, hi])]
    · rw [exec_loss_mine hm h, if_neg (by simp [Neighbour.is, hv])]
  · intro u n x
    refine ⟨fun h => ?_, fun h hn => ?_, fun h hk ht => ?_, fun h hv hs => ?_, fun h hn hd hh => ?_, fun h hn hd => ?_, fun ha hp => ?_⟩
    · rw [exec_credit, execCredit, linkRow_arrives _ h]
    · rw [exec_ack_arrives h, if_neg (by rcases hn with hn | hn <;> simp [hn])]
    · rw [exec_ack_arrives h, if_pos (by simp [hk, ht])]
    · refine ⟨_, exec_hello_arrives h, meetPartner_changed hv hs, fun hw => ?_⟩
      have hport : (u.updFport p fun x => { x with nbr := n }).fport p = { x with nbr := n } := fport_updFport_same u p _
      rw [meetPartner_changed hv hs, fport_holdPort_empty _ p ((congrArg Port.waiting hport).trans hw), hport]
    · rw [exec_hello_arrives h, meetPartner_discovery hn hd hh]
    · rw [exec_hello_arrives h, meetPartner_recorded hn hd]
    · exact ⟨exec_badFrame_fcs ha hp, exec_badFrame_etherType ha hp, exec_badFrame_typ ha hp, exec_badFrame_lseq ha hp⟩

end Sys2Proof.Machine

namespace Sys2Proof.Machine

/-! ## RESET_N asserted (R398, R404, R417, R439) -/

section Held

variable {s : State} (hh : s.boot.held = true)
include hh

theorem alive_of_held : s.alive = false := by simp [State.alive, hh]

theorem writeReaches_of_held (off : Nat) (r : Requester) : s.writeReaches off r = false := by simp [State.writeReaches, hh]

end Held

/-- The rows that RESET_N leaves in force: its assertion, its release and the levels at the shed pins (R398, R417). -/
def passesReset : Instr → Bool
  | .resetN | .resetNRelease | .shedInputChange .. => true
  | _ => false

/-- While RESET_N is asserted every row but those that it leaves in force changes nothing. -/
theorem exec_stopped_of_held (c : Instr) (s : State) (hh : s.boot.held = true) (hc : passesReset c = false) : exec c s = .next s := by
  have ha := alive_of_held hh
  have hw := writeReaches_of_held hh
  cases c
  case resetN | resetNRelease | shedInputChange => exact Bool.noConfusion hc
  case shedFilterStable chB => exact congrArg _ (if_pos hh)
  case discFault =>
    rw [exec, execDiscFault]
    split <;> simp [hh]
  case regWr p f =>
    rw [exec, execRegWr]
    split
    · simp [hh]
    · simp [routedRow, actS, ha]
  -- every other row stands behind `alive`, a write that reaches its register, or RESET_N itself
  all_goals exact congrArg Host.Outcome.next (if_neg (by simp [ha, hw, hh, State.envelopeDue]))

/-- Settles O5: every row but three is stopped by RESET_N, and a level at a pin is noted with its time. -/
theorem heldFreezes : Obligations.HeldFreezes := by
  intro c s hh h1 h2
  refine ⟨fun h3 => ?_, ?_⟩
  · refine exec_stopped_of_held c s hh ?_
    cases c
    case resetN => exact absurd rfl h1
    case resetNRelease => exact absurd rfl h2
    case shedInputChange b l => exact absurd rfl (h3 b l)
    all_goals rfl
  · rintro (_ | _) l rfl
    · exact ⟨l, s.pw.rawB, s.time, s.pw.changedB, rfl⟩
    · exact ⟨s.pw.rawA, l, s.pw.changedA, s.time, rfl⟩

/-- Settles O21: RESET_N by the state that it leaves, its release by whether RESET_N is asserted. -/
theorem coldReset : Obligations.ColdReset := by
  intro s
  refine ⟨rfl, fun hh => ?_, fun hh => ?_⟩
  · exact congrArg Host.Outcome.next (if_pos hh)
  · exact congrArg Host.Outcome.next (if_neg (by simp [hh]))

end Sys2Proof.Machine

namespace Sys2Proof.Machine

/-! ## Boot (R402 to R407) -/

/-- A fold that updates ports so that `P` holds of each updated port: `P` holds of every port that is listed, or has it already. -/
theorem fport_foldl_updFport (P : Port → Prop) (f : Port → Port) (hf : ∀ x, P (f x)) (q : Fin 8) (l : List (Fin 8)) (s : State)
    (h : q ∈ l ∨ P (s.fport q)) : P ((l.foldl (fun s p => s.updFport p f) s).fport q) := by
  induction l generalizing s with
  | nil => exact h.resolve_left List.not_mem_nil
  | cons p l ih =>
    refine ih _ ?_
    by_cases hqp : q = p
    · rw [hqp, fport_updFport_same]
      exact .inr (hf _)
    · rw [fport_updFport_ne _ _ hqp]
      exact h.imp_left fun hm => (List.mem_cons.mp hm).resolve_left hqp

theorem mem_allPorts (p : Fin 8) : p ∈ allPorts := by decide +revert

section BootFail

variable (s : State) (code : Nat)

/-- A boot that stops sets its stage and its code, and touches nothing else but the ports (R407). -/
theorem bootFail_keeps {β : Type} (q : State → β) (hq : ∀ s p x, q (State.setFport s p x) = q s) :
    q (s.bootFail code) = q { s with boot := { s.boot with stage := 6, fail := code, since := s.time } } := by
  unfold State.bootFail
  exact foldl_keeps q _ (fun s p => hq s p _) _ _

@[simp] theorem bootFail_boot : (s.bootFail code).boot = { s.boot with stage := 6, fail := code, since := s.time } :=
  bootFail_keeps s code (·.boot) fun _ _ _ => rfl

@[simp] theorem bootFail_mem : (s.bootFail code).mem = s.mem := bootFail_keeps s code (·.mem) fun _ _ _ => rfl

@[simp] theorem bootFail_fuses : (s.bootFail code).fuses = s.fuses := bootFail_keeps s code (·.fuses) fun _ _ _ => rfl

theorem fport_bootFail (p : Fin 8) : ((s.bootFail code).fport p).en = false ∧ ((s.bootFail code).fport p).st = .down :=
  fport_foldl_updFport (fun x => x.en = false ∧ x.st = .down) _ (fun _ => ⟨rfl, rfl⟩) p allPorts _ (.inl (mem_allPorts p))

end BootFail

section Boot

variable {s : State} (ha : s.alive = true)
include ha

/-! ### The events of the boot, each at its stage (R404) -/

theorem exec_ctlPllLock (h0 : s.boot.stage = 0) (hl : s.boot.ctlLocked = false) :
    exec .ctlPllLock s = .next { s with boot := { s.boot with ctlLocked := true, stage := 1, since := s.time } } := by
  unfold exec execCtlPllLock
  exact actWhen_of s _ _ ha (by simp [h0, hl])

theorem exec_coreCachePllLock (h2 : s.boot.stage = 2) (hl : s.boot.coreLocked = false) :
    exec .coreCachePllLock s = .next { s with boot := { s.boot with coreLocked := true, stage := 3, since := s.time }
                                              clocks := (s.clocks.run .core s.time).run .cache s.time
                                              rc := { s.rc with scrubbing := true } } := by
  unfold exec execCoreCachePllLock
  exact actWhen_of s _ _ ha (by simp [h2, hl])

theorem exec_bootScrubEnd (h : s.rc.scrubbing = true) :
    exec .bootScrubEnd s = .next { s with rc := { s.rc with ways := [], plru := [], scrubbing := false } }.loadLfsrs := by
  unfold exec execBootScrubEnd
  exact actWhen_of s _ _ ha h

theorem exec_poolReady (h4 : s.boot.stage = 4) (hl : s.boot.memLocked = true) (hp : s.boot.poolReady = false) :
    exec .poolReady s = .next { s with boot := { s.boot with poolReady := true } } := by
  unfold exec execPoolReady
  exact actWhen_of s _ _ ha (by simp [h4, hl, hp])

theorem exec_ready (h4 : s.boot.stage = 4) (hp : s.boot.poolReady = true) :
    exec .ready s = .next { s with
      boot := { s.boot with stage := 5, since := s.time, readyUs := sat16 (s.time / 1000) }
      fuses := { s.fuses with
        plinthSvn := svnCommit s.fuses.plinthSvn s.boot.plinth, armSvn := svnCommit s.fuses.armSvn s.boot.arm } } := by
  unfold exec execReady
  exact actWhen_of s _ _ ha (by simp [h4, hp])

theorem exec_memCapFabPllLock (capBad fabBad : BitVec 8) (h4 : s.boot.stage = 4) (hl : s.boot.memLocked = false) :
    ∃ t, exec (.memCapFabPllLock capBad fabBad) s = .next t ∧ t.boot = { s.boot with memLocked := true } ∧
      (∀ p : Fin 8, (t.cap.get p).noPll = bitOf capBad.toNat p.val) ∧ (∀ p : Fin 8, (t.fport p).noPll = bitOf fabBad.toNat p.val) := by
  unfold exec execMemCapFabPllLock
  refine ⟨_, actWhen_of s _ _ ha (by simp [h4, hl]), rfl, fun p => ?_, fun p => ?_⟩
  · exact congrArg CapPort.noPll (Vector.getElem_mapIdx p.isLt)
  · exact congrArg Port.noPll (Vector.getElem_mapIdx p.isLt)

/-! ### The images (R402, R407) -/

section Plinth

variable {copyB : Bool} (h1 : s.boot.stage = 1) (hc : s.boot.triedA = copyB)
include h1 hc

theorem exec_plinthImage_unread (img : List Byte) : exec (.plinthImageReadDone copyB false img) s = .next (s.bootFail 0x04) := by
  unfold exec execPlinthImageReadDone
  exact actWhen_of s _ _ ha (by simp [h1, hc])

/-- A Plinth copy that was read: it runs when it passes; the last copy that fails stops the boot, and copy A lets copy B be tried. -/
theorem exec_plinthImage_read (img : List Byte) :
    exec (.plinthImageReadDone copyB true img) s = .next (
      if imgPasses s.fuses 1 img then
        { s with
          boot := { s.boot with
            stage := 2, since := s.time, plinthCopyB := copyB, triedA := false, plinth := some (runningImage img)
            extraNs := s.boot.extraNs + (if copyB then readNs (imgLength img) else 0) }
          err := { s.err with beatPlinth := s.time } }
      else if copyB then s.bootFail (imgFailCode s.fuses 1 img)
      else { s with boot := { s.boot with triedA := true } }) := by
  unfold exec execPlinthImageReadDone
  exact actWhen_of s _ _ ha (by simp [h1, hc])

end Plinth

section Armature

variable {copyB : Bool} (h3 : s.boot.stage = 3) (hs : s.rc.scrubbing = false) (hc : s.boot.triedA = copyB)
include h3 hs hc

theorem exec_armatureImage_unread (img : List Byte) : exec (.armatureImageReadDone copyB false img) s = .next (s.bootFail 0x04) := by
  unfold exec execArmatureImageReadDone
  exact actWhen_of s _ _ ha (by simp [h3, hs, hc])

/-- An Armature copy that was read: when it passes the control cores run and CTX 4,095 is there (R406). -/
theorem exec_armatureImage_read (img : List Byte) :
    exec (.armatureImageReadDone copyB true img) s = .next (
      if imgPasses s.fuses 2 img then
        { s with
          boot := { s.boot with
            stage := 4, since := s.time, armCopyB := copyB, triedA := false, arm := some (runningImage img), ccReleased := true
            extraNs := s.boot.extraNs + (if copyB then readNs (imgLength img) else 0) }
          err := { s.err with beatCc := Vector.replicate 4 s.time, beatPlinth := s.time } }.createBootContext
      else if copyB then s.bootFail (imgFailCode s.fuses 2 img)
      else { s with boot := { s.boot with triedA := true } }) := by
  unfold exec execArmatureImageReadDone
  exact actWhen_of s _ _ ha (by simp [h3, hs, hc])

end Armature

/-! ### The bounds (R407) -/

/-- A bound that has expired stops the boot with its code. -/
theorem exec_bootTimeout (b : BootBound) (h : s.boundExpired b = true) : exec (.bootTimeout b) s = .next (s.bootFail (boundCode b)) := by
  unfold exec execBootTimeout
  exact actWhen_of s _ _ ha h

end Boot

/-- Settles O22: each event at its stage, and an image by whether it passes and which copy it is. -/
theorem bootSequence : Obligations.BootSequence := by
  intro s copyB img ha
  refine ⟨exec_ctlPllLock ha, fun h1 hc => ⟨_, exec_plinthImage_read ha h1 hc img, ?_⟩, exec_coreCachePllLock ha,
    fun h => ⟨_, exec_bootScrubEnd ha h, rfl, rfl, rfl, rfl, rfl, Vector.get_ofFn _⟩,
    fun h3 hs hc => ⟨_, exec_armatureImage_read ha h3 hs hc img, ?_⟩, exec_memCapFabPllLock ha, exec_poolReady ha, exec_ready ha⟩
  · by_cases hp : imgPasses s.fuses 1 img = true
    · simp [hp]
    · cases copyB <;> simp [hp]
  · by_cases hp : imgPasses s.fuses 2 img = true
    · simp [hp, State.createBootContext, State.setContext, bootContext]
    · cases copyB <;> simp [hp, imgFailCode]

/-- Settles O23: each cause stops the boot by `State.bootFail`, which gives the code and takes every port down. -/
theorem bootFailures : Obligations.BootFailures := by
  intro s img copyB ha stops
  have stopsBy {c : Instr} {code : Nat} (h : exec c s = .next (s.bootFail code)) : stops c code :=
    ⟨_, h, by simp, by simp, by simp, fport_bootFail s code⟩
  refine ⟨fun h1 hc => stopsBy (exec_plinthImage_unread ha h1 hc img), fun h3 hs hc => stopsBy (exec_armatureImage_unread ha h3 hs hc img),
    fun h5 hp ht => stopsBy (exec_bootTimeout ha .poolReady ?_), fun h5 ht => stopsBy (exec_bootTimeout ha .ready ?_),
    fun h0 hl ht => stopsBy (exec_bootTimeout ha .pllLock ?_), fun h1 => stopsBy (exec_bootTimeout ha .flashRead ?_)⟩
  · simp [State.boundExpired, h5, hp, ht]
  · simp [State.boundExpired, h5, ht]
  · simp [State.boundExpired, h0, hl, ht]
  · simp [State.boundExpired, h1]

end Sys2Proof.Machine

namespace Sys2Proof.Machine

/-! ## Power envelopes (R413 to R416, R419) -/

@[simp] theorem begin_pw (s : State) (c : CmdId) : (s.begin c).pw = s.pw := congrArg Kept.pw (kept_begin s c)

theorem begin_time (s : State) (c : CmdId) : (s.begin c).time = s.time := congrArg Kept.time (kept_begin s c)

theorem endEnvelope_idle {s : State} (h : s.pw.cmd = none) : s.endEnvelope = s := by
  unfold State.endEnvelope
  rw [h]

theorem endEnvelope_of {s : State} {c : CmdId} (h : s.pw.cmd = some c) :
    s.endEnvelope = (({ s with pw := { s.pw with cmd := none } } : State).updJob c fun j => { j with value0 := s.pw.value }).complete c := by
  unfold State.endEnvelope
  rw [h]
  rfl

/-- Of what records leave, the end of a rise changes only that no command waits for it. -/
theorem kept_endEnvelope {s : State} {c : CmdId} (h : s.pw.cmd = some c) (hi : (s.items.all fun w => w.cmd != c) = true) :
    s.endEnvelope.kept = { s.kept with pw := { s.pw with cmd := none } } := by
  rw [endEnvelope_of h]
  exact kept_complete _ c _ _ hi

/-- An update of the power state alone. -/
theorem kept_pw (s : State) (p : Power) : ({ s with pw := p } : State).kept = { s.kept with pw := p } := rfl

section SetEnvelope

variable {s : State} {c : CmdId} {n : Nat} (hc : s.pw.cmd = none)
include hc

theorem setEnvelope_shed (h : s.pw.shed = true) : s.setEnvelope c n =
    (({ s with pw := { s.pw with commanded := n, cmd := none } } : State).updJob c fun j =>
      { j with value0 := s.pw.effective + 16 * n + 256 }).complete c := by
  unfold State.setEnvelope
  rw [endEnvelope_idle hc]
  dsimp only
  rw [if_pos h, endEnvelope_of rfl]
  simp [Power.value, bit1, h]

theorem setEnvelope_lower (h : s.pw.shed = false) (hn : s.pw.effective ≤ n) : s.setEnvelope c n =
    (({ s with pw := { s.pw with commanded := n, effective := n, ramping := false, cmd := none } } : State).updJob c fun j =>
      { j with value0 := n + 16 * n }).complete c := by
  unfold State.setEnvelope
  rw [endEnvelope_idle hc]
  dsimp only
  rw [if_neg (by simp [h]), if_pos hn, endEnvelope_of rfl]
  simp [Power.value, bit1, h]

theorem setEnvelope_starts (h : s.pw.shed = false) (hn : n < s.pw.effective) (hh : s.pw.hold = false) (hr : s.pw.ramping = false) :
    s.setEnvelope c n = { s with pw := { s.pw with commanded := n, ramping := true, lastStep := s.time, cmd := some c } } := by
  unfold State.setEnvelope
  rw [endEnvelope_idle hc]
  dsimp only
  rw [if_neg (by simp [h]), if_neg (by omega), if_neg (by simp [hh, hr])]

theorem setEnvelope_joins (h : s.pw.shed = false) (hn : n < s.pw.effective) (hr : s.pw.hold = true ∨ s.pw.ramping = true) :
    s.setEnvelope c n = { s with pw := { s.pw with commanded := n, cmd := some c } } := by
  unfold State.setEnvelope
  rw [endEnvelope_idle hc]
  dsimp only
  rw [if_neg (by simp [h]), if_neg (by omega), if_pos hr]

end SetEnvelope

section SetEnvelopeRow

variable {s : State} {c : CmdId} {j : Job} (h : ReadyOp s c j opSetEnvelope)
include h

theorem exec_setEnvelope :
    exec (.setEnvelope c) s = .next ((s.begin c).setEnvelope c (bitsOf (pktOparam j.pkt) 3 0)).settle := cmdRow_ready s c j opSetEnvelope _ h

/-- SET_ENVELOPE that ends at once with the levels `v`, the power state being `p`. -/
theorem setEnvelope_ends {p : Power} {v : Nat}
    (he : (s.begin c).setEnvelope c (bitsOf (pktOparam j.pkt) 3 0) =
      (({ s.begin c with pw := p } : State).updJob c fun j => { j with value0 := v }).complete c) :
    EndsAs (.setEnvelope c) s ((({ s.begin c with pw := p } : State).updJob c fun j => { j with value0 := v }).complete c)
      { s.kept with pw := p } := by
  refine endsAs_complete h.1 ((exec_setEnvelope h).trans (by rw [he])) rfl ?_
  rw [kept_updJob, kept_pw, kept_begin]

/-- SET_ENVELOPE that waits for the steps of its rise, the power state being `p`. -/
theorem setEnvelope_waits {p : Power} (he : (s.begin c).setEnvelope c (bitsOf (pktOparam j.pkt) 3 0) = { s.begin c with pw := p }) :
    EndsAs (.setEnvelope c) s { s.begin c with pw := p } { s.kept with pw := p } :=
  ⟨(exec_setEnvelope h).trans (by rw [he]), by rw [kept_settle, kept_pw, kept_begin]⟩

end SetEnvelopeRow

/-! ### The steps of a rise (R415, R420) -/

/-- A step that is due is taken, behind a fence too; the records that follow leave what `State.kept` names. -/
theorem exec_envelopeStep_due {s : State} (h : s.envelopeDue = true) : ∃ t, exec .envelopeStep s = .next t ∧ t.kept = s.envelopeStep.kept := by
  refine ⟨_, congrArg Host.Outcome.next (if_pos h), ?_⟩
  split
  · rfl
  · exact kept_settle _

/-- The step of the rise: the power state that it leaves, before a command that reached its level ends. -/
def Power.stepped (p : Power) : Power :=
  { p with effective := p.effective - 1, lastStep := p.lastStep + 50000, ramping := decide (p.commanded < p.effective - 1) }

theorem envelopeStep_eq (s : State) : s.envelopeStep =
    if s.pw.stepped.ramping then { s with pw := s.pw.stepped } else ({ s with pw := s.pw.stepped } : State).endEnvelope := rfl

/-- A step that is not the last, or that no command waits for, changes the power state alone. -/
theorem kept_envelopeStep (s : State) (h : s.pw.cmd = none ∨ s.pw.commanded < s.pw.effective - 1) :
    s.envelopeStep.kept = { s.kept with pw := s.pw.stepped } := by
  rw [envelopeStep_eq]
  split
  · rfl
  · next hr => exact congrArg State.kept (endEnvelope_idle (s := { s with pw := s.pw.stepped }) (h.resolve_right fun hl => hr (decide_eq_true hl)))

/-- The last step ends the rise and the command that asked for it. -/
theorem kept_envelopeStep_last (s : State) (c : CmdId) (hc : s.pw.cmd = some c) (hl : s.pw.effective - 1 ≤ s.pw.commanded)
    (hi : (s.items.all fun w => w.cmd != c) = true) :
    s.envelopeStep.kept = { s.kept with pw := { s.pw.stepped with cmd := none } } := by
  rw [envelopeStep_eq, if_neg (by simp [Power.stepped, hl])]
  exact kept_endEnvelope hc hi

/-! ## The shed input (R417 to R420) -/

theorem qualifyShed_of_clear {s : State} (h : s.pw.shed = false) : s.qualifyShed =
    { s with pw := { s.pw with shed := true, effective := 15, ramping := false, hold := false, shedTime := s.time } } := by
  unfold State.qualifyShed
  exact if_neg (by simp [h])

@[simp] theorem kept_shedRecord (s : State) : s.shedRecord.kept = s.kept := by
  unfold State.shedRecord; split <;> simp

@[simp] theorem kept_discTrace (s : State) (t : Nat) : (s.discTrace t).kept = s.kept := by
  unfold State.discTrace; split <;> simp

/-- Channels that agree, with no disagreement before, end none. -/
theorem shedStep_agree {s : State} (hn : s.pw.disagreeSince = none) (he : s.pw.filtA = s.pw.filtB) :
    let u : State := { s with pw := { s.pw with discDone := false } }
    s.shedStep = if s.pw.filtA then (if s.pw.shed then u else u.qualifyShed.shedRecord) else u.releaseShed := by
  unfold State.shedStep
  rw [if_neg (by simp [he])]
  simp [hn]

/-- Channels that begin to disagree start the timer. -/
theorem shedStep_disagree {s : State} (hn : s.pw.disagreeSince = none) (he : s.pw.filtA ≠ s.pw.filtB) :
    s.shedStep = { s with pw := { s.pw with disagreeSince := some s.time, discDone := false } } := by
  unfold State.shedStep
  rw [if_pos he, if_pos hn]

/-- The level that a channel's filter takes (R417). -/
def State.takeA (s : State) : State := { s with pw := { s.pw with filtA := s.pw.rawA, takenA := true } }
def State.takeB (s : State) : State := { s with pw := { s.pw with filtB := s.pw.rawB, takenB := true } }

section Filter

variable {s : State} (hh : s.boot.held = false)
include hh

theorem exec_shedFilter_unstable (ht : s.time < s.pw.changedA + 1000) : exec (.shedFilterStable false) s = .next s := by
  simp [exec, execShedFilterStable, hh, Nat.not_le.mpr ht]

theorem exec_shedFilter_A (ht : s.pw.changedA + 1000 ≤ s.time) : exec (.shedFilterStable false) s = .next s.takeA.shedStep := by
  simp [exec, execShedFilterStable, State.takeA, hh, ht]

theorem exec_shedFilter_B (ht : s.pw.changedB + 1000 ≤ s.time) : exec (.shedFilterStable true) s = .next s.takeB.shedStep := by
  simp [exec, execShedFilterStable, State.takeB, hh, ht]

/-- A disagreement that has lasted DISC_US counts as shed; its record and its trace event leave what `State.kept` names. -/
theorem exec_discFault_due {since : Nat} (hn : s.pw.disagreeSince = some since) (ht : since + s.discUs * 1000 ≤ s.time)
    (hd : s.pw.discDone = false) : ∃ t, exec .discFault s = .next t ∧
      t.kept = ({ s with pw := { s.pw with discDone := true, discFault := true } } : State).qualifyShed.kept := by
  refine ⟨_, rfl, ?_⟩
  rw [hn]
  dsimp only
  rw [if_pos (by simp [hh, hd, ht])]
  split <;> simp

end Filter

/-- Settles O24: SET_ENVELOPE by the level and the state of shed and of the rise, a step by whether it is the last, and the shed input by what the
filtered channels say. -/
theorem powerLevels : Obligations.PowerLevels := by
  refine ⟨?_, ?_, ?_⟩
  · rintro s c j n h rfl hc
    have hb : (s.begin c).pw.cmd = none := by rw [begin_pw, hc]
    refine ⟨fun h1 => setEnvelope_ends h ?_, fun h1 h2 => setEnvelope_ends h ?_, fun h1 h2 h3 h4 => setEnvelope_waits h ?_,
      fun h1 h2 h3 => setEnvelope_waits h ?_⟩
    · rw [setEnvelope_shed hb (by simpa using h1), begin_pw]
    · rw [setEnvelope_lower hb (by simpa using h1) (by simpa using h2), begin_pw]
    · rw [setEnvelope_starts hb (by simpa using h1) (by simpa using h2) (by simpa using h3) (by simpa using h4)]
      simp only [begin_pw, begin_time]
    · rw [setEnvelope_joins hb (by simpa using h1) (by simpa using h2) (by simpa using h3), begin_pw]
  · intro s hh hr hs hd ht e
    obtain ⟨t, hx, hk⟩ := exec_envelopeStep_due (s := s) (by simp [State.envelopeDue, hh, hr, hs, hd, ht])
    refine ⟨fun h => ⟨t, hx, hk.trans (kept_envelopeStep s h)⟩, fun c hc hl hi => ⟨t, hx, ?_⟩⟩
    rw [hk, kept_envelopeStep_last s c hc hl hi]
    simp [Power.stepped, e, hl]
  · intro s b level hh
    refine ⟨?_, exec_shedFilter_unstable hh, fun ht hr hf hn hs => ?_, fun ht hr hf hn hs => ?_, fun ht hr hf hn => ?_,
      fun since hn ht hd hs => ?_, fun hd ht hl => ?_⟩
    · cases b <;> rfl
    · refine ⟨_, exec_shedFilter_A hh ht, ?_⟩
      rw [shedStep_agree (s := s.takeA) hn (hr.trans hf.symm)]
      dsimp only
      rw [if_pos (by exact hr), if_neg (by simp [State.takeA, hs]), kept_shedRecord, qualifyShed_of_clear (by exact hs), kept_pw]
      simp [State.takeA, State.kept, hr]
    · rw [exec_shedFilter_B hh ht, shedStep_agree (s := s.takeB) hn (hf.trans hr.symm)]
      simp [State.takeB, hf, hr, State.releaseShed, hs]
    · rw [exec_shedFilter_A hh ht, shedStep_disagree (s := s.takeA) hn (by simp [State.takeA, hr, hf])]
      simp [State.takeA, hr]
    · obtain ⟨t, hx, hk⟩ := exec_discFault_due hh hn ht hd
      exact ⟨t, hx, hk.trans (by rw [qualifyShed_of_clear (by exact hs)]; rfl)⟩
    · simp [exec, execReleaseHoldEnd, hh, hd, ht, hl]

end Sys2Proof.Machine

namespace Sys2Proof.Machine

/-! ## Losses that fence the engine (R426, R436, R437) -/

theorem exec_plinthWatchExpiry_early {s : State} (ht : s.time < s.err.beatPlinth + s.plinthUs * 1000) : exec .plinthWatchExpiry s = .next s :=
  actWhen_of_not s _ (·.losePlinth) (by simp [Nat.not_le.mpr ht])

section Losses

variable {s : State} (ha : s.alive = true)
include ha

theorem exec_plinthBusError_running (hp : s.boot.plinth.isSome = true) : exec .plinthBusError s = .next s.losePlinth :=
  actWhen_of s _ (·.losePlinth) ha hp

theorem exec_plinthWatchExpiry_due (hp : s.boot.plinth.isSome = true) (ht : s.err.beatPlinth + s.plinthUs * 1000 ≤ s.time) :
    exec .plinthWatchExpiry s = .next s.losePlinth :=
  actWhen_of s _ (·.losePlinth) ha (by simp [hp, ht])

theorem exec_bankerDisagree : exec .bankerDisagree s = .next ((s.errorRecord { code := 0x0014, unit := 9, action := 9 }).raiseFence 3) :=
  act_alive s (fun s => (s.errorRecord { code := 0x0014, unit := 9, action := 9 }).raiseFence 3) ha

theorem exec_unitLossDetected (u : LostUnit) : exec (.unitLossDetected u) s = .next (s.errorRecord u.record).settle :=
  actS_alive s (·.errorRecord u.record) ha

end Losses

theorem exec_fenceGo {s : State} {r : Requester} (hw : Written s 0xE0050 r) : exec (.fenceGo r) s = .next (s.raiseFence 4).settle :=
  actReg_written s 0xE0050 r (·.raiseFence 4) hw

/-- Settles O51: each row by its condition, and a lost unit by its own record, `LostUnit.record`. -/
theorem lossesFence : Obligations.LossesFence := by
  intro s r ha
  refine ⟨fun hp => ⟨exec_plinthBusError_running ha hp, exec_plinthWatchExpiry_due ha hp⟩, exec_plinthWatchExpiry_early,
    exec_bankerDisagree ha, exec_fenceGo, ?_⟩
  exact ⟨fun n => exec_unitLossDetected ha (.channelPort n), fun k => exec_unitLossDetected ha (.memPll k),
    exec_unitLossDetected ha .corePll, exec_unitLossDetected ha .cachePll, exec_unitLossDetected ha .controlSram,
    fun q => exec_unitLossDetected ha (.reductionUnit q)⟩

end Sys2Proof.Machine

namespace Sys2Proof.Machine

/-! ## Every command answers, and a step takes the oldest (log entries 1, 7 and 89) -/

/-- REG_WR alone has one effect behind the fence and another before it (R464); both leave a next state. -/
theorem execRegWr_answers (p : Fin 8) (f : Frame) (s : State) : ∃ t, execRegWr p f s = .next t := by
  unfold execRegWr
  split
  · exact ⟨_, rfl⟩
  · exact ⟨_, rfl⟩

/-- Settles O3: each row puts its conditions inside the next state, and REG_WR, which chooses first, has one on either side. -/
theorem everyCommandAnswers : Obligations.EveryCommandAnswers := by
  intro c s
  cases c with
  | regWr p f => exact execRegWr_answers p f s
  -- every other row is a `.next`, or goes through `act`, `actWhen`, `actS`, `actSWhen` or `actReg`, each of which is one
  | _ => exact ⟨_, rfl⟩

/-- Settles O1, by the definition of a step on a queue that is not empty. -/
theorem stepTakesFront : Obligations.StepTakesFront := by
  intro c rest s hp
  rw [step, hp]

end Sys2Proof.Machine
